-- ==== Sys2Proof/Word.lean ====
section
/-! DEFINITION. The one word type of this block: the byte. Everything the TC412 carries on its two
flash ports, in a frame, a record or a digest is a string of bytes (R185). -/

namespace Sys2Proof

/-- One byte, as the serial flash buses, the frames and the digests carry it (R185). -/
abbrev Byte := BitVec 8

end Sys2Proof
end

