-- ==== Sys2Proof/Config.lean ====
section
/-! DEFINITION. What is fixed for the part and what the guide leaves open.

The constants are the numbers the guide fixes. The `opaque` names are the free values: nothing can
evaluate them, so a claim that mentions one holds whatever it is. -/

namespace Sys2Proof.Config

/-- Size of the service aperture: 64 KiB (Table 0-5, R37). -/
def apertureSize : Nat := 65536

/-- Size of the request area and of the request buffer (Table 4-1, R61). -/
def requestSize : Nat := 2048

/-- Aperture offset of the response area (Table 4-1). -/
def responseBase : Nat := 2048

/-- Largest response payload (R67). -/
def payloadMax : Nat := 2032

/-- Bytes of one Verification Engine chunk (R31, R81). -/
def chunkSize : Nat := 4096

/-- Flash size of the default geometry (R35). -/
def defaultFlashSize : Nat := 16777216

/-- Aperture base of the default geometry (R35). -/
def defaultApertureBase : Nat := 16711680

/-- Supply threshold T when CONFIG is absent (R130). -/
def defaultThreshold : Nat := 3000

/-- Supply hysteresis H when CONFIG is absent (R130). -/
def defaultHysteresis : Nat := 100

/-- Sample count D when CONFIG is absent (R130). -/
def defaultSamples : Nat := 4

/-- Gate idle time in seconds when CONFIG is absent (R162). -/
def defaultGateIdle : Nat := 300

/-- Presence hold time in seconds when CONFIG is absent (R174). -/
def defaultHoldTime : Nat := 10

/-- Calibration value of an invalid CALIBRATION row (R118). -/
def defaultCalibration : Nat := 1200

/-- The count at which CRED_CHECK locks (R164). -/
def lockCount : Nat := 20

/-- Capacity of the Measurement Log (R148). -/
def logCapacity : Nat := 64

/-- Capacity of the violation list (R181). -/
def violationCapacity : Nat := 16

/-- Tightening entries the Region Table holds (R52). -/
def tighteningMax : Nat := 4

/-- Attempts of one bit burn (R119). -/
def burnAttempts : Nat := 3

/-- FREE VALUE (assumption 4). The internal random source's draw number `i` for a scalar or a
per-signature secret (R134). The model reads it through `State.draws`. -/
opaque randomScalar : Nat → BitVec 256

/-- FREE VALUE (assumption 4). The internal random source's draw number `i` for a salt (R170). -/
opaque randomSalt : Nat → BitVec 128

/-- FREE VALUE (assumption 4). The signature given when every one of the signer's bounded draws met
a zero component (R134 names no bound on the draws; the bound is the model's). -/
opaque signatureAfterBound : Nat → BitVec 512

/-- FREE VALUE (assumption 6). What the downstream bus returns for byte `i` of a command when the
sender of the command supplied no flash byte for it. -/
opaque undrivenBus : Nat → Byte

/-- FREE VALUE (assumption 46). Whether the part sends a forwarded chip erase downstream as C7, else as 60:
Table 12-14 gives the class both bytes, and no rule says which of them goes downstream. -/
opaque chipEraseIsC7 : Bool

/-- FREE VALUE (assumption 47). The position in the page at which the part starts the data of a forwarded
PROGRAM that writes all 256, by the page's physical address and its bytes: no rule gives it. -/
opaque fullPageStart : Nat → List Byte → BitVec 8

end Sys2Proof.Config
end

