-- ==== Sys2Proof/Syntax.lean ====
section
/-! DEFINITION. The commands of the block: one constructor of `Instr` for each row of
spec/opcode_table.json, with the operands the guide gives the row.

What comes from outside the part stands in an operand: addresses and data the SoC sends, bytes the
flash returns, the level of a pin, a conversion code, the read-back of a fuse. -/

namespace Sys2Proof

/-- The address form a flash command byte carries (R18). -/
inductive Address where
  /-- three address bytes; the missing high byte is 0 -/
  | three (a : BitVec 24)
  /-- four address bytes -/
  | four (a : BitVec 32)
  deriving DecidableEq, Repr

/-- The transaction classes of Table 2-1; STATUS_READ is split by the status byte it names (R24). -/
inductive TxClass where
  | read | program | erase4k | erase64k | eraseChip | wren | wrdi
  | statusRead1 | statusRead2 | statusWrite | ident | flashReset | other
  deriving DecidableEq, Repr

/-- Which emulated status byte a STATUS_READ names (R24). -/
inductive StatusByte where
  | one | two
  deriving DecidableEq, Repr

/-- A READ is open-ended (R39): it arrives with an address, and more of its bytes may be clocked out
after other events have been taken (assumption 5). -/
inductive ReadPart where
  /-- the READ arrives with this address and its first bytes are clocked out -/
  | start (addr : Address)
  /-- further bytes of the READ in progress are clocked out -/
  | more
  deriving DecidableEq, Repr

/-- The fuse rows that the part itself burns (Table 7-1). -/
inductive FuseRow where
  | lifecycle | counter | revoke
  deriving DecidableEq, Repr

/-- One fuse bit of a row the part burns. -/
structure FuseBit where
  row : FuseRow
  bit : Nat
  deriving DecidableEq, Repr

/-- A request frame's tag, its reserved header field and its parameter bytes (Tables 12-3, 12-5).
The command code is the row's own, and the frame length is 8 plus the number of parameter bytes. -/
structure Request where
  tag : Byte
  reserved : BitVec 32
  params : List Byte
  deriving DecidableEq, Repr

/-- What one base tick can make due (R13, R129, R174). The order in which two of them are taken is
open (R15, R174), so BASE_TICK carries it as an operand, and names in it the expiries that are taken
within the tick (assumption 8). -/
inductive TickEvent where
  | supply | trial | gate | penalty | presence | button
  deriving DecidableEq, Repr

/-- The commands: one constructor per row of spec/opcode_table.json, in the table's order. -/
inductive Instr where
  /-- READ: `count` bytes are clocked out; `flash` are the bytes the flash returns, in order -/
  | read (part : ReadPart) (count : Nat) (flash : List Byte)
  /-- READ_END: select is released on the oldest READ in progress -/
  | readEnd
  /-- PROGRAM at select release: the complete data bytes, and the bits of an incomplete last byte -/
  | program (addr : Address) (data : List Byte) (tailBits : Nat)
  | erase4k (addr : Address)
  | erase64k (addr : Address)
  | eraseChip
  | wren
  | wrdi
  /-- STATUS_READ: the named byte is sent `count` times -/
  | statusRead (sel : StatusByte) (count : Nat)
  | statusWrite (data : List Byte)
  /-- IDENT: `count` bytes are clocked out -/
  | ident (count : Nat)
  | flashReset
  /-- OTHER: the command byte, the bytes the SoC sends after it and the bytes it clocks out -/
  | other (cmd : Byte) (data : List Byte) (count : Nat)
  | flashFinished
  /-- CHUNK_COMPLETE: the bytes received for the chunk in flight since it last started (assumption 7) -/
  | chunkComplete (data : List Byte)
  | signatureComplete
  | generationComplete
  | recordWriteBegin
  | recordWriteComplete
  /-- FUSE_ATTEMPT_DONE: what the read-back found -/
  | fuseAttemptDone (readsBurned : Bool)
  | entryIntoLow
  | entryIntoNormal
  | press
  | release
  | trialExpiry
  | gateExpiry
  | penaltyExpiry
  | presenceExpiry
  /-- POWER_ON: which doubtful fuse bits are sensed burned (R116), and the level of RESET_IN -/
  | powerOn (sensed : List FuseBit) (resetIn : Bool)
  | powerLoss
  | resetIn
  | resetInRelease
  | platformRestart
  /-- BOOT_FLOW_RESUME: the three identification bytes the flash returns (R25) -/
  | bootFlowResume (id0 id1 id2 : Byte)
  | ownerReset
  | floorBurn
  | identify (r : Request)
  | slotStatus (r : Request)
  | policyRead (r : Request)
  | logRead (r : Request)
  | certRead (r : Request)
  | keyPublic (r : Request)
  | credList (r : Request)
  | eventsRead (r : Request)
  | stageAdvance (r : Request)
  | measureExtend (r : Request)
  | policyTighten (r : Request)
  | quote (r : Request)
  | updateVerify (r : Request)
  | updateArm (r : Request)
  | updateDisarm (r : Request)
  | updateConfirm (r : Request)
  | reboot (r : Request)
  | keySign (r : Request)
  | keyGenerate (r : Request)
  | keyErase (r : Request)
  | credCheck (r : Request)
  | credSet (r : Request)
  | credGet (r : Request)
  | credDelete (r : Request)
  | gateClose (r : Request)
  | eventsAck (r : Request)
  | eventsEnable (r : Request)
  | provConfig (r : Request)
  | provIdentity (r : Request)
  | provAuthority (r : Request)
  | provCert (r : Request)
  | provDeploy (r : Request)
  /-- ARRIVAL: the command byte and the address bytes of an upstream transaction (R17) -/
  | arrival (cmd : Byte) (addr : BitVec 32)
  /-- BASE_TICK: the conversion code, whether PRESENCE_IN is low (pressed), and the events taken within
  the tick, in order: an expiry it does not name is taken by its own row -/
  | baseTick (code : BitVec 12) (pressed : Bool) (order : List TickEvent)
  deriving DecidableEq, Repr

end Sys2Proof
end

