-- ==== Sys2Proof/Decode.lean ====
section
/-! DEFINITION. The command byte of an upstream transaction (Table 12-14, R17, R18), and the reading of
a word as a command: spec/opcode_table.json gives no row any bits, so no word spells a command. -/

namespace Sys2Proof

/-- The class of a command byte (Table 12-14). -/
def upstreamClass (cmd : Byte) : TxClass :=
  match cmd.toNat with
  | 0x03 | 0x0b | 0x3b | 0x6b | 0xbb | 0xeb => .read
  | 0x13 | 0x0c | 0x3c | 0x6c | 0xbc | 0xec => .read
  | 0x02 | 0x32 | 0x12 | 0x34 => .program
  | 0x20 | 0x21 => .erase4k
  | 0xd8 | 0xdc => .erase64k
  | 0xc7 | 0x60 => .eraseChip
  | 0x06 => .wren
  | 0x04 => .wrdi
  | 0x05 => .statusRead1
  | 0x35 => .statusRead2
  | 0x01 => .statusWrite
  | 0x9f => .ident
  | 0x66 | 0x99 => .flashReset
  | _ => .other

/-- How many address bytes a command byte carries (Table 12-14). -/
def addressBytes (cmd : Byte) : Nat :=
  match cmd.toNat with
  | 0x03 | 0x0b | 0x3b | 0x6b | 0xbb | 0xeb | 0x02 | 0x32 | 0x20 | 0xd8 => 3
  | 0x13 | 0x0c | 0x3c | 0x6c | 0xbc | 0xec | 0x12 | 0x34 | 0x21 | 0xdc => 4
  | _ => 0

/-- The address a transaction carries: below 16 MiB in the 3-byte form, 0 where the class carries none
(R18). -/
def carriedAddress (cmd : Byte) (addr : BitVec 32) : Nat := addr.toNat % 256 ^ addressBytes cmd

/-- The command a word spells. The table gives no row bits: none. -/
def decodeTableWord (_nbits _w : Nat) : Option Instr := none

end Sys2Proof
end

