-- ==== Sys2Proof/Machine/State.lean ====
section
/-! DEFINITION. The state of the TC412: plain data, one field or record per piece of state the guide
names (INVENTORY.md lists them with their rules), and the state right after reset. -/

namespace Sys2Proof.Machine

/-! ### Named values -/

/-- Lifecycle, as the LIFECYCLE row reads (R117). -/
inductive Lifecycle where
  | factory | deployed
  deriving DecidableEq, Repr

/-- The stage value: S0..S7, or UNSET, which has no place in their order (R1). -/
inductive Stage where
  | num (n : Fin 8)
  | unset
  deriving DecidableEq, Repr

/-- A stage condition: code 0..15 and bound, as the condition byte carries them (R6, R7). -/
structure Cond where
  code : BitVec 4
  bound : BitVec 4
  deriving DecidableEq, Repr

/-- Translation mode (R35). -/
inductive Mode where
  | passthrough | runA | runB | recovery
  deriving DecidableEq, Repr

/-- The two firmware slots. -/
inductive SlotId where
  | a | b
  deriving DecidableEq, Repr

/-- Slot states of Table 5-1. -/
inductive SlotState where
  | empty | staged | verifying | verified | armed | trial | active | spare | failed
  deriving DecidableEq, Repr

/-- Failure reasons of Table 5-3; `none` is the reason 0 of a slot that is not FAILED. -/
inductive FailReason where
  | none | manifestFormat | authorityAbsent | authorityRevoked | signature | rollback
  | imageLength | imageDigest | policyBad | trialUnconfirmed
  deriving DecidableEq, Repr

/-- Last boot reason (R88). -/
inductive BootReason where
  | powerOn | resetIn | reboot | trialExpiry | deploy
  deriving DecidableEq, Repr

/-- The anchors of a region entry (R41). -/
inductive Anchor where
  | absolute | runningSlot | otherSlot
  deriving DecidableEq, Repr

/-- The fills (R43). -/
inductive Fill where
  | ones | zeros
  deriving DecidableEq, Repr

/-- Deciders of a violation (R57). `entry i` is a manifest entry, `tight i` the tightening entry at
position 28 + i. -/
inductive Decider where
  | entry (i : Nat)
  | tight (i : Nat)
  | dflt | slotLock | unmapped | apertureStray | chipErase | statusWrite | otherCommand
  deriving DecidableEq, Repr

/-- Event causes of Table 11-1. -/
inductive Cause where
  | serviceDone | violation | supplyLow | supplyOk | presenceShort | ownerResetDone | gateClosed
  | locked | fuseFault | floorSettled | fallback
  deriving DecidableEq, Repr

/-- Result codes of Table 4-2. -/
inductive Result where
  | ok | frameBad | unknownCommand | paramBad | lifecycleDenied | stageDenied | wrongState
  | supplyLow | gateClosed | throttled | locked | mismatch | full | aborted | verifyFailed
  | missingItem | fuseFault | emptyItem
  deriving DecidableEq, Repr

/-- Internal jobs of the Service Engine (R68). -/
inductive JobKind where
  | ownerReset | floorBurn
  deriving DecidableEq, Repr

/-- Measurement Log record kinds (Table 9-1). -/
inductive LogKind where
  | part | manifest | image | policy | recovery | stage | external | ownerReset | overflow
  deriving DecidableEq, Repr

/-! ### Window Map and Region Table -/

/-- The flash geometry of the Window Map: F, S, AP, RB and R (R35). -/
structure Geometry where
  flashSize : Nat
  slotSize : Nat
  apBase : Nat
  recBase : Nat
  recSize : Nat
  deriving DecidableEq, Repr

/-- The fields of a region entry (R41). -/
structure Region where
  anchor : Anchor
  offset : Nat
  size : Nat
  readCond : Cond
  writeCond : Cond
  fill : Fill
  deriving DecidableEq, Repr

/-- A manifest entry: the entry as loaded, and its effective conditions (R44, R54). -/
structure ManifestEntry where
  loaded : Region
  effRead : Cond
  effWrite : Cond
  deriving DecidableEq, Repr

/-- The default entry, as loaded and with its effective conditions (R42, R44). -/
structure DefaultEntry where
  fill : Fill
  readCond : Cond
  writeCond : Cond
  effRead : Cond
  effWrite : Cond
  deriving DecidableEq, Repr

/-- The Region Table: manifest entries by index, the default entry, the tightening entries from
position 28 on (R42, R52). -/
structure RegionTable where
  entries : List ManifestEntry
  dflt : Option DefaultEntry
  tight : List Region
  deriving DecidableEq, Repr

/-- What a transaction keeps from its arrival (R17, R50). -/
structure Snapshot where
  stage : Stage
  mode : Mode
  geo : Geometry
  table : RegionTable
  slotA : SlotState
  slotB : SlotState
  busy : Bool
  deriving DecidableEq, Repr

/-! ### Flash path -/

/-- A transaction that has arrived and whose select is not yet released (R17). -/
structure Arrived where
  cls : TxClass
  addr : Nat
  snap : Snapshot
  deriving DecidableEq, Repr

/-- A READ in progress: its address, the bytes already sent, its snapshot, whether it holds the
Downstream Port, the physical address the downstream read stands at, and whether it has handed its
one violation (R30, R39, R48). -/
structure OpenRead where
  addr : Nat
  sent : Nat
  snap : Snapshot
  holds : Bool
  nextPhys : Option Nat
  violated : Bool
  deriving DecidableEq, Repr

/-- The Upstream Port (R17, R20, R22). -/
structure Upstream where
  wel : Bool
  denied : Bool
  arrived : Option Arrived
  reads : List OpenRead
  deriving DecidableEq, Repr

/-- Downstream Port states (R30). -/
inductive PortState where
  | idle | carryingSoc | flashBusy | carryingChunk
  deriving DecidableEq, Repr

/-- Chunk states (R31). -/
inductive ChunkState where
  | none | waiting | inFlight
  deriving DecidableEq, Repr

/-- The engine's current chunk; `got` are the bytes delivered so far (R31). -/
structure Chunk where
  start : Nat
  length : Nat
  got : List Byte
  st : ChunkState
  deriving DecidableEq, Repr

/-- What the Downstream Port sends to the flash (R25, R30); DownOp.sent gives the command byte and the
address form of each. `statusPoll` is the read of the flash's own status in FLASH_BUSY. -/
inductive DownOp where
  | identify
  | statusPoll
  | writeEnable
  | readFrom (phys : Nat)
  | program (page : Nat) (bytes : List (Nat × Byte))
  | erase4k (phys : Nat)
  | erase64k (phys : Nat)
  | eraseChip
  | statusWrite (data : List Byte)
  deriving DecidableEq, Repr

/-- The Downstream Port and the Flash Arbiter (R25, R30, R31). -/
structure Downstream where
  port : PortState
  chunk : Chunk
  id0 : Byte
  id1 : Byte
  id2 : Byte
  deriving DecidableEq, Repr

/-! ### Verification Engine -/

/-- A running SHA-256: the eight words, the bytes not yet in a whole block, the bytes taken. -/
structure ShaState where
  words : List (BitVec 32)
  buf : List Byte
  taken : Nat
  deriving DecidableEq, Repr

/-- What the chunks being read are for (R81, R95). -/
inductive VeWork where
  | none
  | manifest (slot : SlotId)
  | image (slot : SlotId)
  | loader
  deriving DecidableEq, Repr

/-- The Verification Engine: its work, the manifest chunk's bytes, the chunk cursor and the running
digest (R85). R85 gives the cursor and the digest from step 6 on; what they are before is the model's
(DESIGN CHOICE, assumption 43). -/
structure VerEngine where
  work : VeWork
  manifest : List Byte
  cursor : Nat
  sha : ShaState
  deriving DecidableEq, Repr

/-! ### Slot Table -/

/-- A manifest summary (R77). -/
structure Summary where
  securityVersion : Nat
  imageVersion : Nat
  imageLength : Nat
  imageDigest : List Byte
  policyDigest : List Byte
  manifestDigest : List Byte
  authority : Nat
  trialTime : Nat
  revokeOther : Bool
  deriving DecidableEq, Repr

/-- A slot record as the part works with it: the current state, the prior state kept while it is
VERIFYING, the failure reason and the summary (R76). -/
structure SlotRec where
  state : SlotState
  prior : SlotState
  reason : FailReason
  summary : Option Summary
  deriving DecidableEq, Repr

/-- The stored part of a slot record (R76). -/
structure SlotStored where
  state : SlotState
  reason : FailReason
  summary : Option Summary
  deriving DecidableEq, Repr

/-- The outcome of the verification procedure (R87). -/
inductive VerifyOutcome where
  | pass (s : Summary)
  | fail (r : FailReason)
  deriving DecidableEq, Repr

/-- The Slot Table (R76, R90, R99, R113). The last boot reason and the boot counter are its fields of
the COUNTERS record. -/
structure SlotTable where
  slotA : SlotRec
  slotB : SlotRec
  pendingFloor : Nat
  pendingRevoke : BitVec 2
  deferral : Bool
  bootCounter : Nat
  lastReason : BootReason
  deriving DecidableEq, Repr

/-! ### Key Table and Credential Store -/

/-- A key record; the slot fixes its kind and role (R133). -/
structure KeyRec where
  present : Bool
  pub : List Byte
  scalar : Option Nat
  cond : Cond
  gateRequired : Bool
  label : List Byte
  deriving DecidableEq, Repr

/-- A credential record (R161). -/
inductive Cred where
  | empty
  | verifier (label salt digest : List Byte)
  | secret (label value : List Byte) (cond : Cond) (gateRequired : Bool)
  deriving DecidableEq, Repr

/-- The Credential Store but for its timers (R161, R162, R164, R176). -/
structure CredStore where
  creds : Vector Cred 24
  gateOpen : Bool
  failCount : Nat
  ownerEpoch : Nat
  wipeUnfinished : Bool
  gateIdle : Nat
  deriving DecidableEq, Repr

/-- States of the Presence Unit (R174). -/
inductive PresenceState where
  | idle | pressed | proven | waitRelease
  deriving DecidableEq, Repr

/-- The Presence Unit: the level of PRESENCE_IN last compared, the debounced level, the debounce
count, the state and the hold time in force (R174). -/
structure PresenceUnit where
  pin : Bool
  level : Bool
  ticks : Nat
  state : PresenceState
  holdTime : Nat
  deriving DecidableEq, Repr

/-! ### Measurement Log and Event Unit -/

/-- A log record; its index is its place in the list (R148). -/
structure LogRec where
  index : Nat
  kind : LogKind
  stage : Stage
  digest : List Byte
  label : List Byte
  deriving DecidableEq, Repr

/-- The Measurement Log: records in append order and the chain value (R148). -/
structure MeasLog where
  records : List LogRec
  chain : List Byte
  deriving DecidableEq, Repr

/-- A violation as it is handed to the Event Unit (R57). -/
structure Violation where
  addr : Nat
  cls : TxClass
  stage : Stage
  decider : Decider
  deriving DecidableEq, Repr

/-- A record of the violation list (R181). -/
structure ViolationRec where
  first : Violation
  repeats : Nat
  deriving DecidableEq, Repr

/-- The Event Unit: the pending and enabled sets as the cause set field numbers them (Table 12-2),
the violation list, oldest first, and the total (R179 to R181). -/
structure EventUnit where
  pending : BitVec 11
  enabled : BitVec 11
  violations : List ViolationRec
  total : Nat
  deriving DecidableEq, Repr

/-! ### Fuses and records -/

/-- One flag per fuse bit (Table 7-1). -/
structure FuseRows where
  deviceId : BitVec 128
  calibration : BitVec 32
  lifecycle : BitVec 4
  counter : BitVec 64
  revoke : BitVec 2
  deriving DecidableEq, Repr

/-- Who asked for a bit burn; `orphan` once a platform restart has abandoned the requester (R119). -/
inductive BurnOwner where
  | command | job | flow | orphan
  deriving DecidableEq, Repr

/-- A bit burn in progress, with the attempts already read back unburned (R119). -/
structure BitBurn where
  target : FuseBit
  attempts : Nat
  owner : BurnOwner
  deriving DecidableEq, Repr

/-- A bit burn request that waits for the one in progress (R119). -/
structure BurnRequest where
  target : FuseBit
  owner : BurnOwner
  deriving DecidableEq, Repr

/-- The Fuse Array: the row images every reader uses, the bits burned in the array, the bits that may
be sensed either way at the next power-on, and the burns (R116, R119). -/
structure FuseArray where
  image : FuseRows
  array : FuseRows
  doubtful : List FuseBit
  burn : Option BitBurn
  queue : List BurnRequest
  deriving DecidableEq, Repr

/-- Where a COUNTER raise and the REVOKE burns stand (R111, R114, R120). -/
structure BurnSeq where
  counterDone : Bool
  revokeDone : Bool
  failed : Bool
  deriving DecidableEq, Repr

/-- The CONFIG record (Table 7-2, R141). -/
structure ConfigRec where
  geo : Geometry
  threshold : Nat
  hysteresis : Nat
  samples : Nat
  gateIdle : Nat
  holdTime : Nat
  deriving DecidableEq, Repr

/-- The COUNTERS record (Table 7-2). -/
structure CountersRec where
  bootCounter : Nat
  lastReason : BootReason
  pendingFloor : Nat
  pendingRevoke : BitVec 2
  ownerEpoch : Nat
  failCount : Nat
  deriving DecidableEq, Repr

/-- The records of Table 7-2. -/
inductive RecordId where
  | config
  | key (i : Fin 16)
  | cred (i : Fin 24)
  | slot (x : SlotId)
  | counters
  | cert
  deriving DecidableEq, Repr

/-- What a record holds. -/
inductive RecContent where
  | config (c : ConfigRec)
  | key (k : KeyRec)
  | cred (c : Cred)
  | slot (x : SlotStored)
  | counters (c : CountersRec)
  | cert (bytes : List Byte)
  deriving DecidableEq, Repr

/-- What a requester applies in a working copy at the moment the write begins (R125, R135). -/
inductive Change where
  /-- nothing: the working copy is stored as it stands -/
  | asIs
  /-- the outcome of UPDATE_VERIFY (R103) -/
  | verify (o : VerifyOutcome)
  /-- UPDATE_CONFIRM's new pending values, and the settling of the slots (R108, R109) -/
  | confirm (floor : Nat) (revoke : BitVec 2)
  /-- CRED_CHECK's increment of f (R166) -/
  | credIncrement
  /-- CRED_CHECK's return of f to 0 (R167) -/
  | credClear
  /-- the owner reset's return of f to 0 and increment of the epoch (R176) -/
  | ownerReset
  | key (k : KeyRec)
  | cred (c : Cred)
  | config (c : ConfigRec)
  | cert (bytes : List Byte)
  deriving DecidableEq, Repr

/-- Who asked for a write and is told of it; `orphan` once a platform restart has abandoned a
requester whose change is kept (R124, R177). -/
inductive Who where
  | block | command | job | orphan
  deriving DecidableEq, Repr

/-- A requester of a waiting entry (R124). -/
structure Requester where
  who : Who
  change : Change
  deriving DecidableEq, Repr

/-- An entry of the waiting list (R124). -/
structure Entry where
  record : RecordId
  requesters : List Requester
  deriving DecidableEq, Repr

/-- A write in progress (R125). -/
structure Writing where
  record : RecordId
  requesters : List Requester
  content : RecContent
  deriving DecidableEq, Repr

/-- The non-volatile records, each present or absent (R123). -/
structure Store where
  config : Option ConfigRec
  keys : Vector (Option KeyRec) 16
  creds : Vector (Option Cred) 24
  slotA : Option SlotStored
  slotB : Option SlotStored
  counters : Option CountersRec
  cert : Option (List Byte)
  deriving DecidableEq, Repr

/-- The Record Store: the records, the waiting list and the write in progress (R123 to R125). -/
structure RecordStore where
  store : Store
  waiting : List Entry
  writing : Option Writing
  deriving DecidableEq, Repr

/-! ### Supply Monitor and Timer Unit -/

/-- The Supply Monitor: state, run count, last reading, thresholds in force, calibration (R118, R128
to R130). -/
structure Supply where
  normal : Bool
  run : Nat
  reading : Nat
  threshold : Nat
  hysteresis : Nat
  samples : Nat
  calibration : Nat
  calDefault : Bool
  deriving DecidableEq, Repr

/-- Channel states (R11). -/
inductive ChanState where
  | stopped | running | expired
  deriving DecidableEq, Repr

/-- A timer channel: count, prescaler phase in base ticks, state, and whether an expiry has been
produced and not yet taken by the owner (R11). The rules give the phase of a RUNNING channel alone; that of
any other is the model's (DESIGN CHOICE, assumption 44). -/
structure Channel where
  count : Nat
  phase : Nat
  state : ChanState
  due : Bool
  deriving DecidableEq, Repr

/-- The four channels of Table 1-3. -/
structure Timers where
  trial : Channel
  gate : Channel
  penalty : Channel
  presence : Channel
  deriving DecidableEq, Repr

/-! ### Service Aperture and Service Engine -/

/-- A completed request frame (Table 12-3). -/
structure Frame where
  code : Byte
  tag : Byte
  reserved : BitVec 32
  params : List Byte
  deriving DecidableEq, Repr

/-- States of the response area (R64). -/
inductive RespState where
  | empty | queued | running | done
  deriving DecidableEq, Repr

/-- The response of the response area (R64, R65). -/
structure Response where
  state : RespState
  code : Byte
  tag : Byte
  result : Result
  detail : Byte
  previousUnread : Bool
  floorDeferred : Bool
  refused : Nat
  payload : List Byte
  unread : Bool
  deriving DecidableEq, Repr

/-- The Service Aperture: the frame in reception (`none`: receive position none), the response, the
response kept aside while a frame is QUEUED, and the held frame (R61, R64). -/
structure Aperture where
  rx : Option (List Byte)
  resp : Response
  aside : Option Response
  held : Option Frame
  deriving DecidableEq, Repr

/-- What a generated pair is for (R139, R142). -/
inductive GenWork where
  | owner (slot : Fin 16) (cond : Cond) (gateRequired : Bool) (label : List Byte)
  | device
  deriving DecidableEq, Repr

/-- Where the command in progress stands; commands that end when they are taken are never held. -/
inductive CmdWork where
  /-- UPDATE_VERIFY, reading chunks (R102) -/
  | verify (target : SlotId)
  /-- UPDATE_VERIFY, its outcome waiting for the SLOT write (R103) -/
  | verifyStore (target : SlotId) (o : VerifyOutcome)
  /-- UPDATE_CONFIRM until its COUNTERS write completes; `await` are the SLOT writes of the settling -/
  | confirmCounters (floor : Nat) (revoke : BitVec 2) (await : List RecordId)
  /-- UPDATE_CONFIRM, waiting for the SLOT writes (R111) -/
  | confirmSlots (await : List RecordId)
  /-- UPDATE_CONFIRM, burning (R111) -/
  | confirmBurn (seq : BurnSeq)
  /-- KEY_SIGN or QUOTE: the scalar, the value signed and the payload before the signature -/
  | sign (scalar : Nat) (digest : List Byte) (before : List Byte)
  /-- KEY_GENERATE or PROV_IDENTITY, waiting for the pair -/
  | generate (g : GenWork)
  /-- a command of R135 waiting for its record writes, and the payload it ends with -/
  | store (await : List RecordId) (payload : List Byte)
  /-- CRED_CHECK before its increment is stored (R166) -/
  | credIncrement (id : Fin 24) (candidate : List Byte)
  /-- CRED_CHECK after a match, before f is returned to 0 (R167) -/
  | credClear (id : Fin 24)
  /-- PROV_DEPLOY phase 1: the LIFECYCLE bit, and whether it waits for NORMAL (R122, R146) -/
  | deployBurn (bit : Nat) (waits : Bool)
  /-- PROV_DEPLOY phase 2: the bit burned and the SLOT writes awaited (R146) -/
  | deploySlots (bit : Nat) (await : List RecordId)
  deriving DecidableEq, Repr

/-- Where the internal job in progress stands (R114, R176). -/
inductive JobWork where
  | wipe (await : List RecordId)
  | wipeCounters
  | floorBurn (seq : BurnSeq)
  deriving DecidableEq, Repr

/-- The Service Engine's state (R68). -/
inductive EngineState where
  | idle
  | command (w : CmdWork)
  | job (w : JobWork)
  deriving DecidableEq, Repr

/-- The Service Engine: its state, the pending-job set, the abort request, and the platform restart
that a command's end has called for and that has not been taken yet (R68, R71, R97, R146). -/
structure Engine where
  state : EngineState
  ownerResetPending : Bool
  floorBurnPending : Bool
  abortRequest : Bool
  restartDue : Option BootReason
  deriving DecidableEq, Repr

/-- Where the boot flow stands between its steps; `none` once the SoC is released (R89 to R96). -/
inductive FlowPhase where
  | none
  /-- step 2 -/
  | wait
  /-- step 5, a bit burn in progress or waiting for NORMAL -/
  | burns (seq : BurnSeq) (waits : Bool)
  /-- step 8: the candidates after the one being verified, and whether that one is the first -/
  | verifying (slot : SlotId) (rest : List SlotId) (first : Bool)
  /-- RECOVERY, the loader being digested -/
  | loader
  deriving DecidableEq, Repr

/-- The boot flow: its phase and its cause, which step 3 records as the last boot reason (R88). -/
structure BootFlow where
  phase : FlowPhase
  reason : BootReason
  deriving DecidableEq, Repr

/-- The Path Filter: mode, geometry and table (R35, R42). -/
structure PathFilter where
  mode : Mode
  geo : Geometry
  table : RegionTable
  deriving DecidableEq, Repr

/-- What the latest command put on the two buses (assumption 3). -/
structure Outputs where
  toSoc : List Byte
  toFlash : List DownOp
  deriving DecidableEq, Repr

/-! ### The state -/

/-- Everything the guide gives the part. `pending` is the queue of commands the model adds; `draws`
and `out` are the model's own (assumptions 3 and 4). -/
structure State where
  /-- commands waiting, first in first out -/
  pending : List Instr
  /-- whether the supply is applied -/
  powered : Bool
  stage : Stage
  up : Upstream
  filter : PathFilter
  down : Downstream
  ve : VerEngine
  slots : SlotTable
  keys : Vector KeyRec 16
  cred : CredStore
  presence : PresenceUnit
  log : MeasLog
  events : EventUnit
  fuses : FuseArray
  records : RecordStore
  /-- working copy of CONFIG -/
  config : Option ConfigRec
  /-- working copy of CERT -/
  cert : Option (List Byte)
  supply : Supply
  timers : Timers
  aperture : Aperture
  engine : Engine
  flow : BootFlow
  /-- RESET_IN asserted -/
  resetIn : Bool
  /-- how many draws the internal random source has made -/
  draws : Nat
  out : Outputs
  deriving DecidableEq, Repr

/-- Why the machine would stop with a fault: never. The guide gives the part no condition in which it
stops working; every command has an effect or is without effect. -/
inductive Fault where
  deriving DecidableEq, Repr

/-- Why a command has no meaning. -/
inductive Refusal where
  /-- raised by an arm of `exec` for a row the model does not cover; safe (no arm raises it) -/
  | notModelled (mnemonic : String)
  deriving DecidableEq, Repr

/-! ### The state right after reset -/

/-- NEVER, the condition byte 0x00. -/
def Cond.never : Cond := ⟨0, 0⟩

/-- ALWAYS 0, the condition byte 0x80. -/
def Cond.always : Cond := ⟨8, 0⟩

/-- AT_OR_ABOVE 2, the condition byte 0xD2. -/
def Cond.atOrAbove2 : Cond := ⟨13, 2⟩

/-- The stage of a boot flow. -/
def Stage.s0 : Stage := .num 0

/-- The default geometry (R35). -/
def Geometry.default : Geometry :=
  ⟨Config.defaultFlashSize, 0, Config.defaultApertureBase, 0, 0⟩

/-- The Region Table between a flow's first step and its load step, and in PASSTHROUGH (R44, R46). -/
def RegionTable.unloaded : RegionTable := ⟨[], none, []⟩

/-- No chunk (R34). The rules give the chunk state NONE alone: that the start, the length and the
delivered bytes read 0, 0 and none while it stands is the model's (DESIGN CHOICE, assumption 35). -/
def Chunk.absent : Chunk := ⟨0, 0, [], .none⟩

/-- A channel at power-on and at the first step of a flow (R11). The rules give STOPPED and the count 0: that
its prescaler phase reads 0 is the model's (DESIGN CHOICE, assumption 44). -/
def Channel.stopped : Channel := ⟨0, 0, .stopped, false⟩

/-- An EMPTY response area (R64). -/
def Response.empty : Response :=
  ⟨.empty, 0, 0, .ok, 0, false, false, 0, [], false⟩

/-- The initial words of SHA-256 (FIPS 180-4). -/
def ShaState.initial : ShaState :=
  ⟨[0x6a09e667, 0xbb67ae85, 0x3c6ef372, 0xa54ff53a,
    0x510e527f, 0x9b05688c, 0x1f83d9ab, 0x5be0cd19], [], 0⟩

/-- The Verification Engine with nothing to verify. Its cursor 0 and its digest not begun are the model's
(DESIGN CHOICE, assumptions 16 and 43). -/
def VerEngine.idle : VerEngine := ⟨.none, [], 0, ShaState.initial⟩

/-- An EMPTY slot (R76). -/
def SlotRec.empty : SlotRec := ⟨.empty, .empty, .none, Option.none⟩

/-- The use condition Table 8-1 fixes for a slot while it is EMPTY. -/
def KeyRec.slotCond (i : Fin 16) : Cond :=
  if i = 0 then Cond.always else if i = 3 then Cond.atOrAbove2 else Cond.never

/-- An EMPTY key record of a slot (R133). -/
def KeyRec.empty (i : Fin 16) : KeyRec :=
  ⟨false, [], Option.none, KeyRec.slotCond i, false, []⟩

/-- No fuse burned. -/
def FuseRows.unburned : FuseRows := ⟨0, 0, 0, 0, 0⟩

/-- A Record Store that has never been written (R123). -/
def Store.blank : Store :=
  ⟨none, Vector.replicate 16 none, Vector.replicate 24 none, none, none, none, none⟩

/-- 32 zero bytes. -/
def zeroDigest : List Byte := List.replicate 32 0

/-- A part right after power-on: the fuse images sensed, the records read (all absent on a part never
provisioned), step 1 of the power-on boot flow made, the flow waiting at step 2 (R89). -/
def State.reset : State where
  pending := []
  powered := true
  stage := Stage.s0
  up := ⟨false, false, none, []⟩
  filter := ⟨.passthrough, Geometry.default, RegionTable.unloaded⟩
  down := ⟨.idle, Chunk.absent, 0xff, 0xff, 0xff⟩
  ve := VerEngine.idle
  slots := ⟨SlotRec.empty, SlotRec.empty, 0, 0, false, 0, .powerOn⟩
  keys := Vector.ofFn KeyRec.empty
  cred := ⟨Vector.replicate 24 .empty, false, 0, 0, false, Config.defaultGateIdle⟩
  presence := ⟨false, false, 0, .idle, Config.defaultHoldTime⟩
  log := ⟨[], zeroDigest⟩
  events := ⟨0, 0, [], 0⟩
  fuses := ⟨FuseRows.unburned, FuseRows.unburned, [], none, []⟩
  records := ⟨Store.blank, [], none⟩
  config := none
  cert := none
  supply := ⟨false, 0, 0, Config.defaultThreshold, Config.defaultHysteresis, Config.defaultSamples,
    Config.defaultCalibration, true⟩
  timers := ⟨Channel.stopped, Channel.stopped, Channel.stopped, Channel.stopped⟩
  aperture := ⟨none, Response.empty, none, none⟩
  engine := ⟨.idle, false, false, false, none⟩
  flow := ⟨.wait, .powerOn⟩
  resetIn := false
  draws := 0
  out := ⟨[], []⟩

end Sys2Proof.Machine
end

