-- ==== Sys2Proof/Machine/Bytes.lean ====
section
/-! DEFINITION. Byte strings: little-endian numbers (R185), and the value encodings of Tables 12-1 and
12-2. -/

namespace Sys2Proof.Machine

/-- `n` bytes of a number, least significant first (R185). -/
def leBytes (n value : Nat) : List Byte :=
  (List.range n).map fun i => BitVec.ofNat 8 (value / 256 ^ i)

/-- The number that little-endian bytes carry (R185). -/
def fromLe : List Byte → Nat
  | [] => 0
  | b :: bs => b.toNat + 256 * fromLe bs

/-- The number that big-endian bytes carry: coordinates and signature components (R185). -/
def fromBe (bs : List Byte) : Nat := bs.foldl (fun acc b => acc * 256 + b.toNat) 0

/-- `n` bytes of a number, most significant first (R185). -/
def beBytes (n value : Nat) : List Byte := (leBytes n value).reverse

/-- Byte `i` of a string; 0 past its end. -/
def byteAt (bs : List Byte) (i : Nat) : Byte := bs.getD i 0

/-- The `n` bytes of a string from offset `i` on. -/
def slice (bs : List Byte) (i n : Nat) : List Byte := (bs.drop i).take n

/-- The little-endian number of the `n` bytes at offset `i`. -/
def leAt (bs : List Byte) (i n : Nat) : Nat := fromLe (slice bs i n)

/-- One-byte field. -/
def u8 (n : Nat) : List Byte := [BitVec.ofNat 8 n]

/-- Two-byte field. -/
def u16 (n : Nat) : List Byte := leBytes 2 n

/-- Four-byte field. -/
def u32 (n : Nat) : List Byte := leBytes 4 n

/-- A flag's byte (Table 12-2). -/
def flagByte (b : Bool) : List Byte := if b then [1] else [0]

def Stage.toByte : Stage → Byte
  | .num n => BitVec.ofNat 8 n.val
  | .unset => 0xff

def Lifecycle.toByte : Lifecycle → Byte
  | .factory => 0
  | .deployed => 1

def Mode.toByte : Mode → Byte
  | .passthrough => 0
  | .runA => 1
  | .runB => 2
  | .recovery => 3

def SlotId.toByte : SlotId → Byte
  | .a => 1
  | .b => 2

/-- The slot value of a payload: none 0, A 1, B 2 (Table 12-2). -/
def slotByte : Option SlotId → Byte
  | none => 0
  | some x => x.toByte

/-- The ASCII letter naming a slot in a log label (R94, Table 9-1). -/
def SlotId.label : SlotId → List Byte
  | .a => [0x41]
  | .b => [0x42]

def SlotState.toByte : SlotState → Byte
  | .empty => 0
  | .staged => 1
  | .verifying => 2
  | .verified => 3
  | .armed => 4
  | .trial => 5
  | .active => 6
  | .spare => 7
  | .failed => 8

/-- The values of Table 5-3. -/
def FailReason.toByte : FailReason → Byte
  | .none => 0
  | .manifestFormat => 1
  | .authorityAbsent => 2
  | .authorityRevoked => 3
  | .signature => 4
  | .rollback => 5
  | .imageLength => 6
  | .imageDigest => 7
  | .policyBad => 8
  | .trialUnconfirmed => 9

def BootReason.toByte : BootReason → Byte
  | .powerOn => 0
  | .resetIn => 1
  | .reboot => 2
  | .trialExpiry => 3
  | .deploy => 4

def Anchor.toByte : Anchor → Byte
  | .absolute => 0
  | .runningSlot => 1
  | .otherSlot => 2

def Anchor.ofByte? (b : Byte) : Option Anchor :=
  if b = 0 then some .absolute else if b = 1 then some .runningSlot
  else if b = 2 then some .otherSlot else none

def Fill.toByte : Fill → Byte
  | .ones => 0xff
  | .zeros => 0x00

def Fill.ofByte? (b : Byte) : Option Fill :=
  if b = 0xff then some .ones else if b = 0 then some .zeros else none

/-- The violation class codes of Table 12-2; the classes that never violate have none and read 0. -/
def TxClass.toByte : TxClass → Byte
  | .read => 1
  | .program => 2
  | .erase4k => 3
  | .erase64k => 4
  | .eraseChip => 5
  | .statusWrite => 6
  | .other => 7
  | .wren => 0
  | .wrdi => 0
  | .statusRead1 => 0
  | .statusRead2 => 0
  | .ident => 0
  | .flashReset => 0

/-- The decider codes of Table 12-2. -/
def Decider.toByte : Decider → Byte
  | .entry i => BitVec.ofNat 8 i
  | .tight i => BitVec.ofNat 8 (28 + i)
  | .dflt => 32
  | .slotLock => 33
  | .unmapped => 34
  | .apertureStray => 35
  | .chipErase => 36
  | .statusWrite => 37
  | .otherCommand => 38

/-- The result codes of Table 12-7. -/
def Result.toByte : Result → Byte
  | .ok => 0x00
  | .frameBad => 0x01
  | .unknownCommand => 0x02
  | .paramBad => 0x03
  | .lifecycleDenied => 0x04
  | .stageDenied => 0x05
  | .wrongState => 0x06
  | .supplyLow => 0x07
  | .gateClosed => 0x08
  | .throttled => 0x09
  | .locked => 0x0a
  | .mismatch => 0x0b
  | .full => 0x0c
  | .aborted => 0x0d
  | .verifyFailed => 0x0e
  | .missingItem => 0x0f
  | .fuseFault => 0x10
  | .emptyItem => 0x11

/-- The log record kind codes of Table 9-1. -/
def LogKind.toByte : LogKind → Byte
  | .part => 1
  | .manifest => 2
  | .image => 3
  | .policy => 4
  | .recovery => 5
  | .stage => 6
  | .external => 7
  | .ownerReset => 8
  | .overflow => 9

def RespState.toByte : RespState → Byte
  | .empty => 0
  | .queued => 1
  | .running => 2
  | .done => 3

/-- The job field codes (R64). -/
def JobKind.toByte : JobKind → Byte
  | .ownerReset => 0xf0
  | .floorBurn => 0xf1

def PresenceState.toByte : PresenceState → Byte
  | .idle => 0
  | .pressed => 1
  | .proven => 2
  | .waitRelease => 3

/-- The bit of a cause in a cause set field (Table 12-2). -/
def Cause.bit : Cause → Nat
  | .serviceDone => 0
  | .violation => 1
  | .supplyLow => 2
  | .supplyOk => 3
  | .presenceShort => 4
  | .ownerResetDone => 5
  | .gateClosed => 6
  | .locked => 7
  | .fuseFault => 8
  | .floorSettled => 9
  | .fallback => 10

/-- The condition byte: code in the high four bits, bound in the low four (R7). -/
def Cond.toByte (c : Cond) : Byte := c.code ++ c.bound

/-- The condition a condition byte carries (R7). -/
def Cond.ofByte (b : Byte) : Cond := ⟨b.extractLsb' 4 4, b.extractLsb' 0 4⟩

end Sys2Proof.Machine
end

