-- ==== Sys2Proof/Machine/Events.lean ====
section
/-! DEFINITION. The Event Unit: causes, ALERT_OUT and the violation list (R179 to R183). -/

namespace Sys2Proof.Machine

/-- The set of one cause. -/
def Cause.mask (c : Cause) : BitVec 11 := 1#11 <<< c.bit

/-- Sets a cause pending (R179). -/
def State.raise (s : State) (c : Cause) : State :=
  { s with events := { s.events with pending := s.events.pending ||| c.mask } }

/-- Whether a cause is pending. -/
def State.isPending (s : State) (c : Cause) : Bool := s.events.pending.getLsbD c.bit

/-- ALERT_OUT is asserted while a cause is in both sets (R180). -/
def State.alertOut (s : State) : Bool := decide (s.events.pending &&& s.events.enabled ≠ 0)

/-- Whether a violation merges into a record: same class, decider and stage (R181). -/
def ViolationRec.merges (r : ViolationRec) (v : Violation) : Bool :=
  decide (r.first.cls = v.cls ∧ r.first.decider = v.decider ∧ r.first.stage = v.stage)

/-- The violation list after a violation is taken; the newest record is the last (R181). -/
def mergeViolation (list : List ViolationRec) (v : Violation) : List ViolationRec :=
  match list.getLast? with
  | some r =>
    if r.merges v then list.dropLast ++ [{ r with repeats := min (r.repeats + 1) 65535 }]
    else if list.length < Config.violationCapacity then list ++ [⟨v, 1⟩]
    else list
  | none => [⟨v, 1⟩]

/-- Takes a violation: list, total and the cause VIOLATION change as one event (R181). Its stage is the
one it arrives with, that of its transaction's snapshot, as R57 says; R1 and R5 read otherwise
(DEDUCED, assumption 36). -/
def State.violate (s : State) (v : Violation) : State :=
  { s with events := { s.events with
      pending := s.events.pending ||| Cause.mask .violation
      violations := mergeViolation s.events.violations v
      total := min (s.events.total + 1) 4294967295 } }

/-- The set a two-byte cause set field names; bits 11 to 15 are not held (R180, R186). -/
def causeSet (field : Nat) : BitVec 11 := BitVec.ofNat 11 field

/-- The Event Unit after the first step of a boot flow (R184). -/
def EventUnit.cleared : EventUnit := ⟨0, 0, [], 0⟩

end Sys2Proof.Machine
end

