-- ==== Sys2Proof/Machine/Conditions.lean ====
section
/-! DEFINITION. Stage conditions: evaluation, validity, and the no-wider relation (R6, R7, R9). -/

namespace Sys2Proof.Machine

/-- The nine stage values. -/
def allStages : List Stage :=
  [.num 0, .num 1, .num 2, .num 3, .num 4, .num 5, .num 6, .num 7, .unset]

/-- A condition holds when N differs from (L and below) or (E and at) or (U and unset); the code is
8N + 4L + 2E + U (R6). -/
def Cond.holds (c : Cond) (s : Stage) : Bool :=
  let negate := c.code.getLsbD 3
  let selects :=
    match s with
    | .num n =>
      (c.code.getLsbD 2 && decide (n.val < c.bound.toNat))
        || (c.code.getLsbD 1 && decide (n.val = c.bound.toNat))
    | .unset => c.code.getLsbD 0
  negate != selects

/-- A condition is valid when its bound is in 0..7; every 4-bit code is one of the sixteen (R7). -/
def Cond.valid (c : Cond) : Bool := decide (c.bound.toNat < 8)

/-- A condition is no wider than another when no stage value is allowed by it and refused by the
other (R9). -/
def Cond.noWider (c d : Cond) : Bool := allStages.all fun s => !c.holds s || d.holds s

/-- The allowed set of a condition, as a list of the stage values in order (R6). -/
def Cond.allowed (c : Cond) : List Stage := allStages.filter c.holds

end Sys2Proof.Machine
end

