-- ==== Sys2Proof/Machine/Fuses.lean ====
section
/-! DEFINITION. The Fuse Array: reading the row images, and the single-bit burn (R116 to R122). -/

namespace Sys2Proof.Machine

/-- Whether a bit reads burned (R116). -/
def FuseRows.burned (f : FuseRows) (b : FuseBit) : Bool :=
  match b.row with
  | .lifecycle => f.lifecycle.getLsbD b.bit
  | .counter => f.counter.getLsbD b.bit
  | .revoke => f.revoke.getLsbD b.bit

/-- The rows with one more bit burned. -/
def FuseRows.set (f : FuseRows) (b : FuseBit) : FuseRows :=
  match b.row with
  | .lifecycle => { f with lifecycle := f.lifecycle ||| (1#4 <<< b.bit) }
  | .counter => { f with counter := f.counter ||| (1#64 <<< b.bit) }
  | .revoke => { f with revoke := f.revoke ||| (1#2 <<< b.bit) }

/-- The count of a thermometer row: burned bits from bit 0 before the first unburned bit (R117). -/
def thermometer (v : BitVec 64) : Nat := ((List.range 64).takeWhile fun i => v.getLsbD i).length

/-- The count of the COUNTER row (R117). -/
def FuseRows.count (f : FuseRows) : Nat := thermometer f.counter

/-- The lifecycle: DEPLOYED when at least one bit is burned (R117). -/
def FuseRows.life (f : FuseRows) : Lifecycle :=
  if f.lifecycle = 0 then .factory else .deployed

/-- The lifecycle every reader reads (R117, R122). -/
def State.life (s : State) : Lifecycle := s.fuses.image.life

/-- The COUNTER count every reader reads (R117). -/
def State.fuseCount (s : State) : Nat := s.fuses.image.count

/-- cal_mV and check of the CALIBRATION row: cal_mV is named first and stands in the low half
(assumption 10). -/
def FuseRows.calMv (f : FuseRows) : Nat := (f.calibration.extractLsb' 0 16).toNat
def FuseRows.calCheck (f : FuseRows) : Nat := (f.calibration.extractLsb' 16 16).toNat

/-- Whether the CALIBRATION row is valid (R118). -/
def FuseRows.calValid (f : FuseRows) : Bool :=
  decide (1100 ≤ f.calMv) && decide (f.calMv ≤ 1300) && decide (f.calCheck + f.calMv = 65535)

/-- The calibration value (R118). -/
def FuseRows.calibrationValue (f : FuseRows) : Nat :=
  if f.calValid then f.calMv else Config.defaultCalibration

/-- The rows sensed at power-on: what is burned in the array, and of the doubtful bits those that are
sensed burned (R116). -/
def FuseArray.sensedRows (f : FuseArray) (sensed : List FuseBit) : FuseRows :=
  (f.doubtful.filter fun b => sensed.contains b).foldl FuseRows.set f.array

/-- The sensing at power-on: the images take what is sensed (R116). A doubtful bit sensed burned is
burned from then on, so that no fuse-recorded value goes back (R120); one sensed unburned stays
doubtful (assumption 14). -/
def FuseArray.sense (f : FuseArray) (sensed : List FuseBit) : FuseArray :=
  { f with
    image := f.sensedRows sensed
    array := f.sensedRows sensed
    doubtful := f.doubtful.filter fun b => !sensed.contains b }

/-- How a bit burn ends (R119). -/
inductive BurnOutcome where
  | burned | supplyStop | failed
  deriving DecidableEq, Repr

/-- Takes a burn request while no bit burn is in progress: a bit that reads burned ends at once, a LOW
supply stops it, else its first attempt begins (R119). For a request that has waited, that its bit is looked
at when it is taken, and not when it was requested, is the model's choice: DESIGN CHOICE (assumption
42). -/
def State.takeBurn (s : State) (b : FuseBit) (owner : BurnOwner) : State × Option BurnOutcome :=
  if s.fuses.image.burned b then (s, some .burned)
  else if s.supply.normal then
    ({ s with fuses := { s.fuses with burn := some ⟨b, 0, owner⟩ } }, none)
  else (s, some .supplyStop)

/-- Requests a bit burn: it waits while another is in progress (R119), its bit looked at when it is taken
(assumption 42). -/
def State.requestBurn (s : State) (b : FuseBit) (owner : BurnOwner) : State × Option BurnOutcome :=
  match s.fuses.burn with
  | some _ => ({ s with fuses := { s.fuses with queue := s.fuses.queue ++ [⟨b, owner⟩] } }, none)
  | none => s.takeBurn b owner

/-- The read-back of the attempt in progress, and whether the bit burn ends: a burned bit is burned in
the image and in the array; an unburned read-back leaves the bit doubtful, and the next attempt
follows under the supply check until three have been made (R116, R119). -/
def State.readBack (s : State) (b : BitBurn) (readsBurned : Bool) : State × Option BurnOutcome :=
  if readsBurned then
    ({ s with fuses := { s.fuses with
        image := s.fuses.image.set b.target
        array := s.fuses.array.set b.target
        doubtful := s.fuses.doubtful.filter fun d => d ≠ b.target
        burn := none } }, some .burned)
  else
    let doubtful :=
      if s.fuses.doubtful.contains b.target then s.fuses.doubtful
      else s.fuses.doubtful ++ [b.target]
    let ended (o : BurnOutcome) : State × Option BurnOutcome :=
      ({ s with fuses := { s.fuses with doubtful := doubtful, burn := none } }, some o)
    if b.attempts + 1 = Config.burnAttempts then ended .failed
    else if s.supply.normal then
      ({ s with fuses := { s.fuses with
          doubtful := doubtful, burn := some { b with attempts := b.attempts + 1 } } }, none)
    else ended .supplyStop

/-- The waiting requests taken in order while no bit burn is in progress, with the outcomes of those
that end at once (R119): a bit that the burn just ended has burned ends BURNED here, with no attempt and no
supply check (assumption 42). -/
def takeQueue : List BurnRequest → State → State × List (BurnRequest × BurnOutcome)
  | [], s => ({ s with fuses := { s.fuses with queue := [] } }, [])
  | r :: rs, s =>
    match s.fuses.burn with
    | some _ => ({ s with fuses := { s.fuses with queue := r :: rs } }, [])
    | none =>
      match s.takeBurn r.target r.owner with
      | (s1, none) => takeQueue rs s1
      | (s1, some o) =>
        let (s2, more) := takeQueue rs s1
        (s2, (r, o) :: more)

/-- The first pending revocation whose REVOKE bit is not burned, bit 0 before bit 1 (R121). -/
def revokeDue (image : FuseRows) (pending : BitVec 2) : Option Nat :=
  [0, 1].find? fun i => pending.getLsbD i && !image.revoke.getLsbD i

/-- What the burns of R111 do next. -/
inductive BurnNext where
  | finished (seq : BurnSeq)
  | bit (b : FuseBit) (seq : BurnSeq)
  deriving DecidableEq, Repr

/-- The REVOKE half of the burns. -/
def nextRevoke (image : FuseRows) (pending : BitVec 2) (seq : BurnSeq) : BurnNext :=
  if seq.revokeDone then .finished seq
  else
    match revokeDue image pending with
    | none => .finished { seq with revokeDone := true }
    | some i => .bit ⟨.revoke, i⟩ seq

/-- The next burn toward a pending floor and the pending revocations: the COUNTER raise first, one bit
at a time and never past the target, then REVOKE (R111, R114, R120). -/
def nextBurn (image : FuseRows) (target : Nat) (pending : BitVec 2) (seq : BurnSeq) : BurnNext :=
  if seq.counterDone then nextRevoke image pending seq
  else
    let c := image.count
    if target ≤ c then nextRevoke image pending { seq with counterDone := true }
    else if target < (image.set ⟨.counter, c⟩).count then
      nextRevoke image pending { seq with counterDone := true, failed := true }
    else .bit ⟨.counter, c⟩ seq

/-- The burns from their start. -/
def BurnSeq.start : BurnSeq := ⟨false, false, false⟩

/-- The burns after a bit of them has failed: its row is left, the other row is still made (R111). -/
def BurnSeq.afterFail (seq : BurnSeq) (row : FuseRow) : BurnSeq :=
  match row with
  | .counter => { seq with counterDone := true, failed := true }
  | .revoke => { seq with revokeDone := true, failed := true }
  | .lifecycle => { seq with failed := true }

/-- Where the burns stand after the requester has gone on with them. -/
inductive BurnStatus where
  /-- a bit burn is in progress or waits for one in progress -/
  | busy (seq : BurnSeq)
  /-- the supply was found LOW before a burn -/
  | stopped (seq : BurnSeq)
  | finished (seq : BurnSeq)
  deriving DecidableEq, Repr

/-- Goes on with the burns: the requester looks at the supply before each burn (R111, R114). -/
def State.goOnBurns (s : State) (owner : BurnOwner) (seq : BurnSeq) : State × BurnStatus :=
  match nextBurn s.fuses.image s.slots.pendingFloor s.slots.pendingRevoke seq with
  | .finished q => (s, .finished q)
  | .bit b q =>
    if s.supply.normal then ((s.requestBurn b owner).1, .busy q)
    else (s, .stopped q)

/-- Goes on with the burns after a bit burn of theirs has ended (R111, R114). -/
def State.afterBurn (s : State) (owner : BurnOwner) (seq : BurnSeq) (row : FuseRow)
    (o : BurnOutcome) : State × BurnStatus :=
  match o with
  | .burned => s.goOnBurns owner seq
  | .failed => s.goOnBurns owner (seq.afterFail row)
  | .supplyStop => (s, .stopped seq)

/-- A platform restart: a bit burn in progress goes on for nobody, waiting requests are discarded
(R119). -/
def FuseArray.abandon (f : FuseArray) : FuseArray :=
  { f with burn := f.burn.map fun b => { b with owner := .orphan }, queue := [] }

/-- Loss of power: the bit whose attempt was cut short is doubtful (R116, R119). -/
def FuseArray.powerLost (f : FuseArray) : FuseArray :=
  match f.burn with
  | none => { f with queue := [] }
  | some b =>
    { f with
      doubtful :=
        if f.doubtful.contains b.target || f.array.burned b.target then f.doubtful
        else f.doubtful ++ [b.target]
      burn := none, queue := [] }

end Sys2Proof.Machine
end

