-- ==== Sys2Proof/Machine/Records.lean ====
section
/-! DEFINITION. The waiting list of the Record Store: requests, joining, withdrawal, and what a
platform restart keeps (R124, R127). -/

namespace Sys2Proof.Machine

/-- Adds a requester to an entry's set. A block that is already in it adds nothing; a second owner
reset joins for the first one's change (R124, R177). -/
def Entry.join (e : Entry) (r : Requester) : Entry :=
  if r.change = .ownerReset ∧ e.requesters.any (fun q => q.change = .ownerReset) then
    { e with requesters := e.requesters ++ [⟨r.who, .asIs⟩] }
  else if r.change = .asIs ∧ r ∈ e.requesters then e
  else { e with requesters := e.requesters ++ [r] }

/-- A request: it joins the record's waiting entry, else it is added at the tail (R124). -/
def requestIn : List Entry → RecordId → Requester → List Entry
  | [], rec, r => [⟨rec, [r]⟩]
  | e :: es, rec, r => if e.record = rec then e.join r :: es else e :: requestIn es rec r

/-- Requests a record's write (R124). -/
def State.request (s : State) (rec : RecordId) (who : Who) (change : Change) : State :=
  { s with records := { s.records with waiting := requestIn s.records.waiting rec ⟨who, change⟩ } }

/-- Requests several writes, in order, each with its change (R135, R176). -/
def State.requestAll (s : State) (who : Who) (writes : List (RecordId × Change)) : State :=
  writes.foldl (fun t w => t.request w.1 who w.2) s

/-- The list with requesters mapped or removed; an entry left without one leaves the list (R124). -/
def mapRequesters (f : Requester → Option Requester) (list : List Entry) : List Entry :=
  list.filterMap fun e =>
    match e.requesters.filterMap f with
    | [] => none
    | rs => some { e with requesters := rs }

/-- Withdraws the requests of the command in progress (R124, R135). -/
def State.withdrawCommand (s : State) : State :=
  { s with records := { s.records with
      waiting := mapRequesters (fun r => if r.who = .command then none else some r)
        s.records.waiting } }

/-- Whether a change outlives the platform restart that abandons its requester: CRED_CHECK's changes
of f and everything the owner reset asked for do (R166, R167, R177); the rest is withdrawn (R135). -/
def Requester.kept (r : Requester) : Option Requester :=
  match r.who with
  | .block => some r
  | .orphan => some r
  | .job => some { r with who := .orphan }
  | .command =>
    match r.change with
    | .credIncrement => some { r with who := .orphan }
    | .credClear => some { r with who := .orphan }
    | .asIs => none
    | .verify _ => none
    | .confirm _ _ => none
    | .ownerReset => none
    | .key _ => none
    | .cred _ => none
    | .config _ => none
    | .cert _ => none

/-- A requester that nobody is behind any more (R125). -/
def Requester.orphaned (r : Requester) : Requester :=
  match r.who with
  | .block => r
  | .orphan => r
  | .job => { r with who := .orphan }
  | .command => { r with who := .orphan }

/-- The Record Store at a platform restart: the waiting list kept but for the withdrawals, the write in
progress finishing for nobody (R125, R127). -/
def RecordStore.abandon (r : RecordStore) : RecordStore :=
  { r with
    waiting := mapRequesters Requester.kept r.waiting
    writing := r.writing.map fun w => { w with requesters := w.requesters.map Requester.orphaned } }

/-- Whether the command in progress has a request that has not begun. -/
def State.commandWaits (s : State) : Bool :=
  s.records.waiting.any fun e => e.requesters.any fun r => decide (r.who = .command)

/-- Whether a write of the command in progress has begun and not completed. -/
def State.commandWrites (s : State) : Bool :=
  match s.records.writing with
  | none => false
  | some w => w.requesters.any fun r => decide (r.who = .command)

/-- A record's content put into the store at completion (R125). A content of another record's kind
stores nothing; no begin forms one. -/
def Store.put (t : Store) (rec : RecordId) (content : RecContent) : Store :=
  match rec, content with
  | .config, .config c => { t with config := some c }
  | .key i, .key k => { t with keys := t.keys.set i (some k) }
  | .cred i, .cred c => { t with creds := t.creds.set i (some c) }
  | .slot .a, .slot x => { t with slotA := some x }
  | .slot .b, .slot x => { t with slotB := some x }
  | .counters, .counters c => { t with counters := some c }
  | .cert, .cert bytes => { t with cert := some bytes }
  | _, _ => t

end Sys2Proof.Machine
end

