-- ==== Sys2Proof/Machine/Slots.lean ====
section
/-! DEFINITION. The Slot Table: slot records, the mode's slots, the floor and the revocations (R36, R76
to R79, R99, R100, R109). -/

namespace Sys2Proof.Machine

/-- The other of the two slots. -/
def SlotId.other : SlotId → SlotId
  | .a => .b
  | .b => .a

/-- The slot record of a slot. -/
def SlotTable.get (t : SlotTable) : SlotId → SlotRec
  | .a => t.slotA
  | .b => t.slotB

/-- The Slot Table with a slot's record replaced. -/
def SlotTable.put (t : SlotTable) (x : SlotId) (r : SlotRec) : SlotTable :=
  match x with
  | .a => { t with slotA := r }
  | .b => { t with slotB := r }

/-- The current slot record. -/
def State.slot (s : State) (x : SlotId) : SlotRec := s.slots.get x

/-- Changes a slot record without a record write: entering and leaving VERIFYING (R79). -/
def State.setSlot (s : State) (x : SlotId) (r : SlotRec) : State :=
  { s with slots := s.slots.put x r }

/-- Changes a slot's state, reason or summary: at once in the current state, with a SLOT record write
requested (R79). -/
def State.changeSlot (s : State) (x : SlotId) (r : SlotRec) : State :=
  (s.setSlot x r).request (.slot x) .block .asIs

/-- The running slot of a mode (R36). -/
def Mode.running : Mode → Option SlotId
  | .runA => some .a
  | .runB => some .b
  | .recovery => none
  | .passthrough => none

/-- The other slot of a mode (R36). -/
def Mode.otherSlot : Mode → Option SlotId
  | .runA => some .b
  | .runB => some .a
  | .recovery => some .a
  | .passthrough => none

/-- The mode in which a slot runs (R94). -/
def SlotId.mode : SlotId → Mode
  | .a => .runA
  | .b => .runB

/-- Whether the slot lock drops writes to a slot in this state (R47, Table 5-1). -/
def SlotState.locked : SlotState → Bool
  | .active => true
  | .trial => true
  | .armed => true
  | .verifying => true
  | .empty => false
  | .staged => false
  | .verified => false
  | .spare => false
  | .failed => false

/-- Whether a slot in this state always has a summary (R77). -/
def SlotState.hasSummary : SlotState → Bool
  | .verified => true
  | .armed => true
  | .trial => true
  | .active => true
  | .spare => true
  | .empty => false
  | .staged => false
  | .verifying => false
  | .failed => false

/-- The security version a slot's summary records; 0 where it has none. -/
def SlotRec.version (r : SlotRec) : Nat :=
  match r.summary with
  | some m => m.securityVersion
  | none => 0

/-- A slot STAGED: summary discarded, reason cleared (R51, R77). -/
def SlotRec.staged : SlotRec := ⟨.staged, .staged, .none, none⟩

/-- A slot record in another state, its reason cleared (R76). -/
def SlotRec.into (r : SlotRec) (st : SlotState) : SlotRec :=
  { r with state := st, prior := st, reason := .none }

/-- A slot FAILED, its summary kept (R77). -/
def SlotRec.failKeep (r : SlotRec) (why : FailReason) : SlotRec :=
  { r with state := .failed, prior := .failed, reason := why }

/-- A slot FAILED through a failed verification, its summary discarded (R77, R87). -/
def SlotRec.failDrop (why : FailReason) : SlotRec := ⟨.failed, .failed, why, none⟩

/-- A slot made VERIFYING, its prior state kept beside the marker (R76, R101). -/
def SlotRec.verifying (r : SlotRec) : SlotRec := { r with state := .verifying, prior := r.state }

/-- A slot that leaves VERIFYING for its prior state; any other is unchanged (R76, R104). -/
def SlotRec.leaveVerifying (r : SlotRec) : SlotRec :=
  if r.state = .verifying then { r with state := r.prior } else r

/-- The target once UPDATE_VERIFY's outcome is applied (R103). -/
def SlotRec.outcome : VerifyOutcome → SlotRec
  | .pass m => ⟨.verified, .verified, .none, some m⟩
  | .fail why => SlotRec.failDrop why

/-- What a SLOT write stores: a VERIFYING slot is stored with its prior state (R79). -/
def SlotRec.stored (r : SlotRec) : SlotStored :=
  ⟨if r.state = .verifying then r.prior else r.state, r.reason, r.summary⟩

/-- A slot record loaded at power-on (R76). -/
def SlotRec.load : Option SlotStored → SlotRec
  | none => SlotRec.empty
  | some x => ⟨x.state, x.state, x.reason, x.summary⟩

/-- A slot whose recorded version lies below a floor while its state needs one at or above it. -/
def SlotRec.belowFloor (r : SlotRec) (floor : Nat) : Bool :=
  r.state.hasSummary &&
    (match r.summary with
      | some m => decide (m.securityVersion < floor)
      | none => false)

/-- The effective floor (R100). -/
def State.effFloor (s : State) : Nat := max s.fuseCount s.slots.pendingFloor

/-- The effective revocation of an authority (R100). -/
def State.effRevoked (s : State) (i : Nat) : Bool :=
  s.fuses.image.revoke.getLsbD i || s.slots.pendingRevoke.getLsbD i

/-- The other slot as UPDATE_CONFIRM settles it against the new floor (R109). -/
def settleOther (r : SlotRec) (floor : Nat) : Option SlotRec :=
  match r.state with
  | .active =>
    if floor ≤ r.version then some (r.into .spare) else some (r.failKeep .rollback)
  | .verified => if floor ≤ r.version then none else some (r.failKeep .rollback)
  | .spare => if floor ≤ r.version then none else some (r.failKeep .rollback)
  | .empty => none
  | .staged => none
  | .verifying => none
  | .armed => none
  | .trial => none
  | .failed => none

/-- The authority bit a confirmed trial revokes (R108). -/
def revokesOther (m : Summary) : BitVec 2 :=
  if m.revokeOther then (if m.authority = 0 then 2#2 else 1#2) else 0

end Sys2Proof.Machine
end

