-- ==== Sys2Proof/Machine/Windows.lean ====
section
/-! DEFINITION. The Path Filter: translation, the aperture test, region entries, the slot lock and the
decisions on read bytes and write units (R35 to R49, R52). -/

namespace Sys2Proof.Machine

/-- Whether a logical address lies in the aperture (R37). -/
def Geometry.inAperture (g : Geometry) (l : Nat) : Bool :=
  decide (g.apBase ≤ l) && decide (l < g.apBase + Config.apertureSize)

/-- Translation of a logical address; `none` is unmapped (R36, Table 3-1). -/
def translate (m : Mode) (g : Geometry) (l : Nat) : Option Nat :=
  match m with
  | .passthrough => some l
  | .runA => some l
  | .runB =>
    if l < g.slotSize then some (l + g.slotSize)
    else if l < 2 * g.slotSize then some (l - g.slotSize)
    else some l
  | .recovery =>
    if l < g.recSize then some (g.recBase + l)
    else if l < g.slotSize then none
    else if l < 2 * g.slotSize then some (l - g.slotSize)
    else some l

/-- Physical base of a slot (R41, R81). -/
def slotBase (g : Geometry) : SlotId → Nat
  | .a => 0
  | .b => g.slotSize

/-- The slot a physical address lies in (R47). -/
def slotOfPhys (g : Geometry) (phys : Nat) : Option SlotId :=
  if phys < g.slotSize then some .a
  else if phys < 2 * g.slotSize then some .b
  else none

/-- Whether a region entry is valid (R41). -/
def Region.valid (r : Region) (g : Geometry) : Bool :=
  decide (r.offset % 4096 = 0) && decide (r.size % 4096 = 0) && decide (4096 ≤ r.size)
    && (match r.anchor with
        | .absolute => decide (r.offset + r.size ≤ g.flashSize)
        | .runningSlot => decide (r.offset + r.size ≤ g.slotSize)
        | .otherSlot => decide (r.offset + r.size ≤ g.slotSize))
    && r.readCond.valid && r.writeCond.valid

/-- Physical base of an anchor in a mode; `none` covers nothing (R41). -/
def anchorBase (m : Mode) (g : Geometry) : Anchor → Option Nat
  | .absolute => some 0
  | .runningSlot => m.running.map (slotBase g)
  | .otherSlot => m.otherSlot.map (slotBase g)

/-- Whether a region's physical range holds an address (R41). -/
def Region.covers (r : Region) (m : Mode) (g : Geometry) (phys : Nat) : Bool :=
  match anchorBase m g r.anchor with
  | none => false
  | some base => decide (base + r.offset ≤ phys) && decide (phys < base + r.offset + r.size)

/-- The two kinds of access a condition is held for (R42). -/
inductive Access where
  | read | write
  deriving DecidableEq, Repr

/-- The effective condition of a manifest entry for an access. -/
def ManifestEntry.cond (e : ManifestEntry) : Access → Cond
  | .read => e.effRead
  | .write => e.effWrite

/-- The effective condition of the default entry for an access. -/
def DefaultEntry.cond (e : DefaultEntry) : Access → Cond
  | .read => e.effRead
  | .write => e.effWrite

/-- The condition of a tightening entry for an access. -/
def Region.cond (r : Region) : Access → Cond
  | .read => r.readCond
  | .write => r.writeCond

/-- What decides a byte: the condition, the fill and the decider (R42). -/
structure Deciding where
  cond : Cond
  fill : Fill
  decider : Decider
  deriving DecidableEq, Repr

/-- The deciding entry of a physical byte: the lowest-indexed manifest entry that holds it, else the
default entry; nothing decides where no table is loaded (R42, R46). -/
def RegionTable.deciding (t : RegionTable) (m : Mode) (g : Geometry) (a : Access) (phys : Nat) :
    Option Deciding :=
  match t.entries.findIdx? fun e => e.loaded.covers m g phys with
  | some i =>
    (t.entries[i]?).map fun e => ⟨e.cond a, e.loaded.fill, .entry i⟩
  | none => t.dflt.map fun d => ⟨d.cond a, d.fill, .dflt⟩

/-- The lowest-positioned tightening entry that covers a byte and does not allow the access (R48). -/
def RegionTable.tightDenier (t : RegionTable) (m : Mode) (g : Geometry) (a : Access)
    (stage : Stage) (phys : Nat) : Option (Fill × Decider) :=
  match t.tight.findIdx? fun r => r.covers m g phys && !(r.cond a).holds stage with
  | some i => (t.tight[i]?).map fun r => (r.fill, .tight i)
  | none => none

/-- The judgement of one physical byte: `none` when it is allowed, else the fill and the decider
(R42, R48, R49, R52). In PASSTHROUGH every byte passes (R46). Outside it a table that judges has its default
entry (R44, R45, R58): a byte that no entry decides is a corner no run reaches, judged by the tightening entries
alone (DESIGN CHOICE, assumption 34). -/
def Snapshot.judge (s : Snapshot) (a : Access) (phys : Nat) : Option (Fill × Decider) :=
  match s.mode with
  | .passthrough => none
  | _ =>
    match s.table.deciding s.mode s.geo a phys with
    | some d =>
      if d.cond.holds s.stage then s.table.tightDenier s.mode s.geo a s.stage phys
      else some (d.fill, d.decider)
    | none => s.table.tightDenier s.mode s.geo a s.stage phys

/-- The state of a slot in a snapshot. -/
def Snapshot.slot (s : Snapshot) : SlotId → SlotState
  | .a => s.slotA
  | .b => s.slotB

/-- Whether the slot lock drops a unit at a physical address, given the slots' states (R47). It is
judged in RUN_A, RUN_B and RECOVERY. -/
def slotLocks (m : Mode) (g : Geometry) (states : SlotId → SlotState) (phys : Nat) : Bool :=
  match m with
  | .passthrough => false
  | _ =>
    match slotOfPhys g phys with
    | some x => (states x).locked
    | none => false

/-- The physical offsets of a unit, ascending, searched for the first byte that is not allowed: its
offset and its decider (R40, R49). `n` bytes are still to be judged, the next at offset `i`. -/
def firstDeniedFrom (s : Snapshot) (physBase : Nat) (covers : Nat → Bool) :
    Nat → Nat → Option (Nat × Decider)
  | 0, _ => none
  | n + 1, i =>
    if covers i then
      match s.judge .write (physBase + i) with
      | some (_, d) => some (i, d)
      | none => firstDeniedFrom s physBase covers n (i + 1)
    else firstDeniedFrom s physBase covers n (i + 1)

/-- The Region Table loaded from entries and a default: effective conditions are the loaded ones and
no tightening entry is held (R44). -/
def RegionTable.load (entries : List Region) (fill : Fill) (r w : Cond) : RegionTable :=
  ⟨entries.map fun e => ⟨e, e.readCond, e.writeCond⟩, some ⟨fill, r, w, r, w⟩, []⟩

/-- The built-in RECOVERY policy (R45). The bounds of its ALWAYS and NEVER, which POLICY_READ shows and no
evaluation uses, are the model's: bound 0 (DESIGN CHOICE, assumption 37). -/
def recoveryTable (g : Geometry) : RegionTable :=
  RegionTable.load [⟨.absolute, g.recBase, g.recSize, Cond.always, Cond.never, .ones⟩]
    .ones Cond.always Cond.always

/-- The BUSY view is set from the forwarding of an operation until the port leaves FLASH_BUSY
(R23, R30). -/
def State.busy (s : State) : Bool := decide (s.down.port = .flashBusy)

/-- The snapshot the port takes at an arrival (R17, R50). -/
def State.snapshot (s : State) : Snapshot where
  stage := s.stage
  mode := s.filter.mode
  geo := s.filter.geo
  table := s.filter.table
  slotA := s.slots.slotA.state
  slotB := s.slots.slotB.state
  busy := s.busy

end Sys2Proof.Machine
end

