-- ==== Sys2Proof/Machine/Flags.lean ====
section
/-! DEFINITION. The flags the SoC sees: the two status bytes (R24, Table 12-13), the flags byte and the
other fields of the response header (R64, Table 12-4), SOC_RST_OUT (R2). -/

namespace Sys2Proof.Machine

/-- A bit of a status byte. -/
def bitIf (b : Bool) (mask : Byte) : Byte := if b then mask else 0

/-- Status byte 1: BUSY bit 0, WEL bit 1, DENIED bit 5 (R24). -/
def State.statusByte1 (s : State) : Byte :=
  bitIf s.busy 0x01 ||| bitIf s.up.wel 0x02 ||| bitIf s.up.denied 0x20

/-- The internal job the Service Engine runs (R68). -/
def EngineState.job? : EngineState → Option JobKind
  | .idle => none
  | .command _ => none
  | .job (.wipe _) => some .ownerReset
  | .job .wipeCounters => some .ownerReset
  | .job (.floorBurn _) => some .floorBurn

/-- SERVICE: the response state is QUEUED or RUNNING, or an internal job runs (R24). -/
def State.serviceBusy (s : State) : Bool :=
  decide (s.aperture.resp.state = .queued) || decide (s.aperture.resp.state = .running)
    || s.engine.state.job?.isSome

/-- Status byte 2: SERVICE bit 0, ALERT bit 1 (R24). -/
def State.statusByte2 (s : State) : Byte :=
  bitIf s.serviceBusy 0x01 ||| bitIf s.alertOut 0x02

/-- The status byte a STATUS_READ names (R24). -/
def State.statusByte (s : State) : StatusByte → Byte
  | .one => s.statusByte1
  | .two => s.statusByte2

/-- The job field: the code of the running job while a frame is QUEUED, else 0 (R64). -/
def State.jobField (s : State) : Byte :=
  if s.aperture.resp.state = .queued then
    match s.engine.state.job? with
    | some k => k.toByte
    | none => 0
  else 0

/-- The flags byte of the header (Table 12-4). -/
def Response.flags (r : Response) : Byte :=
  bitIf r.previousUnread 0x01 ||| bitIf r.floorDeferred 0x02

/-- The response header in each state (R64, Table 12-4): FLOOR_DEFERRED shows in DONE alone. -/
def State.responseHeader (s : State) : List Byte :=
  let r := s.aperture.resp
  match r.state with
  | .empty => List.replicate 16 0
  | .queued =>
    [r.state.toByte, r.code, r.tag, 0, 0, bitIf r.previousUnread 0x01] ++ u8 r.refused ++ [s.jobField] ++
      List.replicate 8 0
  | .running =>
    [r.state.toByte, r.code, r.tag, 0, 0, bitIf r.previousUnread 0x01] ++ u8 r.refused ++ [0] ++ List.replicate 8 0
  | .done =>
    [r.state.toByte, r.code, r.tag, r.result.toByte, r.detail, r.flags] ++ u8 r.refused ++ [0] ++
      u16 r.payload.length ++ List.replicate 6 0

/-- The response image: the header followed by the payload of a DONE response (R59, R64). -/
def State.responseImage (s : State) : List Byte :=
  s.responseHeader ++ (if s.aperture.resp.state = .done then s.aperture.resp.payload else [])

/-- The byte the aperture answers at an offset (R59). -/
def State.apertureByte (s : State) (off : Nat) : Byte :=
  if Config.responseBase ≤ off ∧ off < 2 * Config.responseBase then
    s.responseImage.getD (off - Config.responseBase) 0xff
  else 0xff

/-- SOC_RST_OUT is asserted exactly when the stage is S0 (R2). -/
def State.socRstOut (s : State) : Bool := decide (s.stage = .s0)

end Sys2Proof.Machine
end

