-- ==== Sys2Proof/Machine/Sha256.lean ====
section
/-! DEFINITION. SHA-256, used as its public definition (FIPS 180-4) gives it (00_scope.md section 2,
assumption 9), in the running form the Verification Engine holds (R85). -/

namespace Sys2Proof.Machine

/-- The round constants of FIPS 180-4. -/
def shaConstants : List (BitVec 32) :=
  [0x428a2f98, 0x71374491, 0xb5c0fbcf, 0xe9b5dba5, 0x3956c25b, 0x59f111f1, 0x923f82a4, 0xab1c5ed5] ++
  [0xd807aa98, 0x12835b01, 0x243185be, 0x550c7dc3, 0x72be5d74, 0x80deb1fe, 0x9bdc06a7, 0xc19bf174] ++
  [0xe49b69c1, 0xefbe4786, 0x0fc19dc6, 0x240ca1cc, 0x2de92c6f, 0x4a7484aa, 0x5cb0a9dc, 0x76f988da] ++
  [0x983e5152, 0xa831c66d, 0xb00327c8, 0xbf597fc7, 0xc6e00bf3, 0xd5a79147, 0x06ca6351, 0x14292967] ++
  [0x27b70a85, 0x2e1b2138, 0x4d2c6dfc, 0x53380d13, 0x650a7354, 0x766a0abb, 0x81c2c92e, 0x92722c85] ++
  [0xa2bfe8a1, 0xa81a664b, 0xc24b8b70, 0xc76c51a3, 0xd192e819, 0xd6990624, 0xf40e3585, 0x106aa070] ++
  [0x19a4c116, 0x1e376c08, 0x2748774c, 0x34b0bcb5, 0x391c0cb3, 0x4ed8aa4a, 0x5b9cca4f, 0x682e6ff3] ++
  [0x748f82ee, 0x78a5636f, 0x84c87814, 0x8cc70208, 0x90befffa, 0xa4506ceb, 0xbef9a3f7, 0xc67178f2]

/-- The eight working variables. -/
structure ShaVars where
  a : BitVec 32
  b : BitVec 32
  c : BitVec 32
  d : BitVec 32
  e : BitVec 32
  f : BitVec 32
  g : BitVec 32
  h : BitVec 32

/-- A word of a block, big-endian. -/
def shaWord (b0 b1 b2 b3 : Byte) : BitVec 32 := b0 ++ b1 ++ b2 ++ b3

/-- The words of a block of bytes. -/
def shaWords : List Byte → List (BitVec 32)
  | b0 :: b1 :: b2 :: b3 :: rest => shaWord b0 b1 b2 b3 :: shaWords rest
  | _ => []

/-- The next word of the message schedule from the sixteen before it, oldest first. -/
def shaNextWord (w : List (BitVec 32)) : BitVec 32 :=
  let w0 := w.getD 0 0
  let w1 := w.getD 1 0
  let w9 := w.getD 9 0
  let w14 := w.getD 14 0
  let s0 := w1.rotateRight 7 ^^^ w1.rotateRight 18 ^^^ (w1 >>> 3)
  let s1 := w14.rotateRight 17 ^^^ w14.rotateRight 19 ^^^ (w14 >>> 10)
  w0 + s0 + w9 + s1

/-- One round with its constant and its schedule word. -/
def shaRound (v : ShaVars) (k w : BitVec 32) : ShaVars :=
  let s1 := v.e.rotateRight 6 ^^^ v.e.rotateRight 11 ^^^ v.e.rotateRight 25
  let ch := (v.e &&& v.f) ^^^ (~~~v.e &&& v.g)
  let t1 := v.h + s1 + ch + k + w
  let s0 := v.a.rotateRight 2 ^^^ v.a.rotateRight 13 ^^^ v.a.rotateRight 22
  let maj := (v.a &&& v.b) ^^^ (v.a &&& v.c) ^^^ (v.b &&& v.c)
  ⟨t1 + (s0 + maj), v.a, v.b, v.c, v.d + t1, v.e, v.f, v.g⟩

/-- The rounds, the schedule kept as a window of sixteen words. -/
def shaRounds : List (BitVec 32) → List (BitVec 32) → ShaVars → ShaVars
  | [], _, v => v
  | k :: ks, w, v => shaRounds ks (w.drop 1 ++ [shaNextWord w]) (shaRound v k (w.getD 0 0))

/-- The compression of one 64-byte block. -/
def shaBlock (words : List (BitVec 32)) (block : List Byte) : List (BitVec 32) :=
  let g := fun i => words.getD i 0
  let v := shaRounds shaConstants (shaWords block) ⟨g 0, g 1, g 2, g 3, g 4, g 5, g 6, g 7⟩
  [g 0 + v.a, g 1 + v.b, g 2 + v.c, g 3 + v.d, g 4 + v.e, g 5 + v.f, g 6 + v.g, g 7 + v.h]

/-- Takes one byte into a running digest: a whole block is compressed at once. -/
def shaByte (s : ShaState) (b : Byte) : ShaState :=
  let buf := s.buf ++ [b]
  if buf.length < 64 then { s with buf := buf, taken := s.taken + 1 }
  else { words := shaBlock s.words buf, buf := [], taken := s.taken + 1 }

/-- Takes bytes into a running digest (R85). -/
@[irreducible] def shaUpdate (s : ShaState) (bytes : List Byte) : ShaState := bytes.foldl shaByte s

/-- The padding of FIPS 180-4: a one bit, zeros to 56 modulo 64, the length in bits. -/
def shaPadding (taken : Nat) : List Byte :=
  let zeros := (119 - taken % 64) % 64
  (0x80 : Byte) :: List.replicate zeros 0 ++ beBytes 8 (taken * 8)

/-- Finishes a running digest: 32 bytes, first byte first (R185). -/
@[irreducible] def shaFinish (s : ShaState) : List Byte :=
  ((shaUpdate s (shaPadding s.taken)).words.map fun w => beBytes 4 w.toNat).flatten

/-- The SHA-256 of a byte string. -/
@[irreducible] def sha256 (bytes : List Byte) : List Byte := shaFinish (shaUpdate ShaState.initial bytes)

end Sys2Proof.Machine
end

