-- ==== Sys2Proof/Machine/Log.lean ====
section
/-! DEFINITION. The Measurement Log: records, chain and capacity rule (R148 to R150). -/

namespace Sys2Proof.Machine

/-- A record's bytes, as LOG_READ returns them and as they enter the chain (R149, Table 12-11). -/
def LogRec.bytes (r : LogRec) : List Byte :=
  u8 r.index ++ [r.kind.toByte, r.stage.toByte] ++ u8 r.label.length ++ r.digest ++ r.label

/-- The chain value after a record (R149). -/
def chainNext (chain : List Byte) (r : LogRec) : List Byte := sha256 (chain ++ r.bytes)

/-- Appends a record as it stands: record and chain value change together (R149). -/
def MeasLog.push (l : MeasLog) (kind : LogKind) (stage : Stage) (digest label : List Byte) :
    MeasLog :=
  let r : LogRec := ⟨l.records.length, kind, stage, digest, label⟩
  ⟨l.records ++ [r], chainNext l.chain r⟩

/-- What the log tells its appender (R150). -/
inductive AppendOutcome where
  | appended | overflowed | dropped
  deriving DecidableEq, Repr

/-- The outcome of an append at this count (R150). -/
def MeasLog.outcome (l : MeasLog) : AppendOutcome :=
  if l.records.length < 63 then .appended
  else if l.records.length = 63 then .overflowed
  else .dropped

/-- An append through the capacity rule (R150). -/
def MeasLog.append (l : MeasLog) (kind : LogKind) (stage : Stage) (digest label : List Byte) :
    MeasLog :=
  match l.outcome with
  | .appended => l.push kind stage digest label
  | .overflowed => l.push .overflow stage zeroDigest []
  | .dropped => l

/-- The overflow flag is set while the last record is OVERFLOW (R150). -/
def MeasLog.overflow (l : MeasLog) : Bool :=
  match l.records.getLast? with
  | some r => decide (r.kind = .overflow)
  | none => false

/-- The log at the first step of a boot flow (R148). -/
def MeasLog.empty : MeasLog := ⟨[], zeroDigest⟩

/-- Appends to the part's log. -/
def State.logAppend (s : State) (kind : LogKind) (stage : Stage) (digest label : List Byte) :
    State :=
  { s with log := s.log.append kind stage digest label }

/-- Whole records from a list while they fit in the bytes left (R156). -/
def takeFitting (room : Nat) : List LogRec → List LogRec
  | [] => []
  | r :: rs => if r.bytes.length ≤ room then r :: takeFitting (room - r.bytes.length) rs else []

end Sys2Proof.Machine
end

