-- ==== Sys2Proof/Machine/Operands.lean ====
section
/-! DEFINITION. Operand forms: addresses and units (R18), page images (R21), frame parameters, region
entries and the CONFIG parameters (Tables 12-5, 12-10). -/

namespace Sys2Proof.Machine

/-- The address number a transaction carries; the 3-byte form's missing high byte is 0 (R18). -/
def addressValue : Address → Nat
  | .three a => a.toNat
  | .four a => a.toNat

/-- The logical address of an address number (R18). -/
def Geometry.logical (g : Geometry) (a : Nat) : Nat := a % g.flashSize

/-- The data byte that ends at page position `p`: the last of those whose position wraps to it (R18,
R21). -/
def pageByte (start : Nat) (data : List Byte) (p : Nat) : Option Byte :=
  ((data.zipIdx.filter fun d => (start + d.2) % 256 = p).getLast?).map Prod.fst

/-- The page image of a PROGRAM: the page positions written, ascending, with their bytes (R21). -/
def pageImage (start : Nat) (data : List Byte) : List (Nat × Byte) :=
  (List.range 256).filterMap fun p => (pageByte start data p).map fun b => (p, b)

/-- A parameter byte as a number; 0 past the end. -/
def Frame.p (f : Frame) (i : Nat) : Nat := (byteAt f.params i).toNat

/-- The length field of a frame (R62, Table 12-3). -/
def Frame.length (f : Frame) : Nat := 8 + f.params.length

/-- Whether the parameter bytes of a range are all zero: a reserved field (R73, R186). -/
def zeroBytes (bs : List Byte) (i n : Nat) : Bool := (slice bs i n).all fun b => decide (b = 0)

/-- A completed frame from its bytes (Table 12-3). -/
def parseFrame (bs : List Byte) : Frame :=
  ⟨byteAt bs 2, byteAt bs 3,
    byteAt bs 7 ++ byteAt bs 6 ++ byteAt bs 5 ++ byteAt bs 4, bs.drop 8⟩

/-- The bytes of a frame (Table 12-3). -/
def frameBytes (f : Frame) : List Byte :=
  u16 f.length ++ [f.code, f.tag] ++ leBytes 4 f.reserved.toNat ++ f.params

/-- The frame a command row stands for (assumption 2). -/
def requestFrame (code : Byte) (r : Request) : Frame := ⟨code, r.tag, r.reserved, r.params⟩

/-- A flag parameter; `none` when it is neither set nor clear (R139, R169). -/
def flagOf (n : Nat) : Option Bool :=
  if n = 0 then some false else if n = 1 then some true else none

/-- The region entry in 16 bytes; `none` where its anchor or its fill is no listed value
(Table 12-10). The annotation bytes at 3 and 5 are not interpreted (R186). -/
def parseRegion (bs : List Byte) : Option Region :=
  match Anchor.ofByte? (byteAt bs 0), Fill.ofByte? (byteAt bs 1) with
  | some a, some f =>
    some ⟨a, leAt bs 8 4, leAt bs 12 4, Cond.ofByte (byteAt bs 2), Cond.ofByte (byteAt bs 4), f⟩
  | _, _ => none

/-- The CONFIG values of PROV_CONFIG's parameters (Table 12-5). -/
def parseConfig (bs : List Byte) : ConfigRec :=
  ⟨⟨leAt bs 0 4, leAt bs 4 4, leAt bs 8 4, leAt bs 12 4, leAt bs 16 4⟩,
    leAt bs 20 2, leAt bs 22 2, leAt bs 24 1, leAt bs 25 2, leAt bs 27 1⟩

/-- The checks of R141 on the values of a CONFIG. -/
def ConfigRec.valid (c : ConfigRec) : Bool :=
  let g := c.geo
  (decide (g.flashSize = 16777216) || decide (g.flashSize = 33554432)
      || decide (g.flashSize = 67108864))
    && decide (g.slotSize % 65536 = 0) && decide (1048576 ≤ g.slotSize)
    && decide (2 * g.slotSize + 65536 ≤ g.flashSize)
    && decide (g.apBase % 65536 = 0) && decide (2 * g.slotSize ≤ g.apBase)
    && decide (g.apBase + 65536 ≤ g.flashSize)
    && decide (g.recSize % 65536 = 0) && decide (65536 ≤ g.recSize)
    && decide (g.recSize ≤ g.slotSize)
    && decide (g.recBase % 65536 = 0) && decide (2 * g.slotSize ≤ g.recBase)
    && decide (g.recBase + g.recSize ≤ g.flashSize)
    && (decide (g.recBase + g.recSize ≤ g.apBase) || decide (g.apBase + 65536 ≤ g.recBase))
    && decide (2600 ≤ c.threshold) && decide (c.threshold ≤ 3400)
    && decide (50 ≤ c.hysteresis) && decide (c.hysteresis ≤ 300)
    && decide (1 ≤ c.samples) && decide (c.samples ≤ 16)
    && decide (60 ≤ c.gateIdle) && decide (c.gateIdle ≤ 3600)
    && decide (3 ≤ c.holdTime) && decide (c.holdTime ≤ 30)

/-- The CONFIG values in force when CONFIG is absent (R35, R130, R152, R162, R174). -/
def ConfigRec.default : ConfigRec :=
  ⟨Geometry.default, Config.defaultThreshold, Config.defaultHysteresis, Config.defaultSamples,
    Config.defaultGateIdle, Config.defaultHoldTime⟩

/-- The CONFIG working copy, or the defaults (R35, R152). While CONFIG's first write, begun before a restart, is
still in progress, R123 has the record absent and R141 has the working copy hold the new values: a flow that
takes the geometry then takes the working copy's (DESIGN CHOICE, assumption 48). -/
def State.configOrDefault (s : State) : ConfigRec := s.config.getD ConfigRec.default

/-- CRED_SET's parameters; `none` where they are outside their ranges (R169, Table 12-5). -/
def parseCredSet (bs : List Byte) : Option (Fin 24 × List Byte × (List Byte ⊕ (Cond × Bool × List Byte))) :=
  let id := (byteAt bs 0).toNat
  let kind := (byteAt bs 1).toNat
  let labelLen := (byteAt bs 3).toNat
  let label := slice bs 4 labelLen
  let rest := bs.drop (4 + labelLen)
  if hid : id < 24 then
    if labelLen < 1 ∨ 16 < labelLen then none
    else if kind = 1 then
      let len := (byteAt rest 0).toNat
      if 1 ≤ len ∧ len ≤ 64 ∧ bs.length = 5 + labelLen + len then
        some (⟨id, hid⟩, label, .inl (rest.drop 1))
      else none
    else if kind = 2 then
      let cond := Cond.ofByte (byteAt rest 0)
      let len := (byteAt rest 2).toNat
      match flagOf (byteAt rest 1).toNat with
      | some gate =>
        if id ≠ 0 ∧ cond.valid ∧ 1 ≤ len ∧ len ≤ 128 ∧ bs.length = 7 + labelLen + len then
          some (⟨id, hid⟩, label, .inr (cond, gate, rest.drop 3))
        else none
      | none => none
    else none
  else none

end Sys2Proof.Machine
end

