-- ==== Sys2Proof/Machine/P256.lean ====
section
/-! DEFINITION. ECDSA over the NIST P-256 curve, used as its public definition (FIPS 186-4, SEC 1)
gives it (00_scope.md section 2, assumption 9): the point check of R143, verification (R83), key
generation and signing (R134). -/

namespace Sys2Proof.Machine.P256

/-- The field prime. -/
def p : Nat := 0xffffffff00000001000000000000000000000000ffffffffffffffffffffffff

/-- The order of the group. -/
def n : Nat := 0xffffffff00000000ffffffffffffffffbce6faada7179e84f3b9cac2fc632551

/-- The curve constant b; the constant a is p - 3. -/
def b : Nat := 0x5ac635d8aa3a93e7b3ebbd55769886bc651d06b0cc53b0f63bce3c3e27d2604b

/-- The base point. -/
def gx : Nat := 0x6b17d1f2e12c4247f8bce6e563a440f277037d812deb33a0f4a13945d898c296
def gy : Nat := 0x4fe342e2fe1a7f9b8ee7eb4a7c0f9e162bce33576b315ececbb6406837bf51f5

/-- A point of the curve; `none` is the point at infinity. -/
abbrev Point := Option (Nat × Nat)

def base : Point := some (gx, gy)

/-- `a ^ e` modulo `m`, over the `k` low bits of `e`. -/
def powMod (m : Nat) : Nat → Nat → Nat → Nat
  | 0, _, _ => 1 % m
  | k + 1, a, e =>
    let half := powMod m k (a * a % m) (e / 2)
    if e % 2 = 1 then a * half % m else half

/-- The inverse modulo a prime, by Fermat. -/
@[irreducible] def invMod (m a : Nat) : Nat := powMod m 256 (a % m) (m - 2)

/-- Subtraction modulo `m` of reduced numbers. -/
def subMod (m a c : Nat) : Nat := (a + (m - c % m)) % m

/-- The chord or tangent construction with slope `l` through the points of abscissas `x1`, `x2`. -/
def third (l x1 y1 x2 : Nat) : Point :=
  let x3 := subMod p (subMod p (l * l % p) x1) x2
  some (x3, subMod p (l * subMod p x1 x3 % p) y1)

def add : Point → Point → Point
  | none, q => q
  | q, none => q
  | some (x1, y1), some (x2, y2) =>
    if x1 = x2 then
      if (y1 + y2) % p = 0 then none
      else third ((3 * (x1 * x1) + (p - 3)) * invMod p (2 * y1) % p) x1 y1 x2
    else third (subMod p y2 y1 * invMod p (subMod p x2 x1) % p) x1 y1 x2

/-- The multiple of a point by the `k` low bits of a scalar. -/
def mulBits : Nat → Nat → Point → Point
  | 0, _, _ => none
  | k + 1, e, q =>
    let rest := mulBits k (e / 2) (add q q)
    if e % 2 = 1 then add q rest else rest

@[irreducible] def mul (e : Nat) (q : Point) : Point := mulBits 256 e q

/-- The curve equation, both coordinates below the field prime (R143). -/
def onCurve (x y : Nat) : Bool :=
  decide (x < p) && decide (y < p) && decide (y * y % p = (x * x * x + (p - 3) * x + b) % p)

/-- The coordinates of a 64-byte public key (R185). -/
def keyX (pub : List Byte) : Nat := fromBe (slice pub 0 32)
def keyY (pub : List Byte) : Nat := fromBe (slice pub 32 32)

/-- A public key is a point of the curve; the point at infinity has no 64-byte form that meets the
curve equation (R143). -/
def validKey (pub : List Byte) : Bool := onCurve (keyX pub) (keyY pub)

/-- A public key's 64 bytes (R185). -/
def encodePoint : Point → List Byte
  | none => List.replicate 64 0
  | some (x, y) => beBytes 32 x ++ beBytes 32 y

/-- ECDSA verification of a 64-byte signature over a 32-byte digest: components outside 1..n-1 fail. -/
def verify (pub digest sig : List Byte) : Bool :=
  let r := fromBe (slice sig 0 32)
  let s := fromBe (slice sig 32 32)
  if r = 0 ∨ n ≤ r ∨ s = 0 ∨ n ≤ s then false
  else
    let w := invMod n s
    let q : Point := some (keyX pub, keyY pub)
    match add (mul (fromBe digest * w % n) base) (mul (r * w % n) q) with
    | none => false
    | some (x, _) => decide (x % n = r)

/-- A scalar in 1..n-1 from a draw (R134). -/
def scalarOf (draw : BitVec 256) : Nat := 1 + draw.toNat % (n - 1)

/-- The public key of a scalar (R134). -/
def publicOf (d : Nat) : List Byte := encodePoint (mul d base)

/-- The signature of a digest with scalar `d` and per-signature secret `k`; `none` where a component
is 0 and ECDSA asks for another secret. -/
def signWith (d k : Nat) (digest : List Byte) : Option (List Byte) :=
  match mul k base with
  | none => none
  | some (x, _) =>
    let r := x % n
    let s := invMod n k * ((fromBe digest + r * d) % n) % n
    if r = 0 ∨ s = 0 then none else some (beBytes 32 r ++ beBytes 32 s)

/-- Signs with the draws from number `i` on, at most `tries` of them: the signature, and the number
of the next draw (R134). -/
def signDraws (d : Nat) (digest : List Byte) : Nat → Nat → List Byte × Nat
  | 0, i => (beBytes 64 (Config.signatureAfterBound i).toNat, i)
  | tries + 1, i =>
    match signWith d (scalarOf (Config.randomScalar i)) digest with
    | some sig => (sig, i + 1)
    | none => signDraws d digest tries (i + 1)

end Sys2Proof.Machine.P256
end

