-- ==== Sys2Proof/Machine/Timers.lean ====
section
/-! DEFINITION. The Timer Unit: START, STOP, the passing of a base tick and the taking of an expiry
(R11 to R16). -/

namespace Sys2Proof.Machine

/-- START with a length: the length becomes the count, the phase is zero, the channel runs, and an
expiry not yet taken is not delivered (R12, R15). -/
def Channel.start (len : Nat) : Channel := ⟨len, 0, .running, false⟩

/-- STOP: a running channel holds its count, an expired one has count 0, and an expiry not yet taken
is not delivered (R14, R15). A running channel's phase is discarded (R14): that it reads 0 from then on, as
an expired one's does, is the model's (DESIGN CHOICE, assumption 44). -/
def Channel.stop (c : Channel) : Channel :=
  match c.state with
  | .running => { c with phase := 0, state := .stopped, due := false }
  | .expired => ⟨0, 0, .stopped, false⟩
  | .stopped => c

/-- A base tick: the prescaler of a running channel divides by `period`, and at the end of a period
the count falls by one; at 0 the channel is EXPIRED and its expiry is produced (R11, R13). The EXPIRED
channel's phase 0 is the model's (DESIGN CHOICE, assumption 44). -/
def Channel.tick (period : Nat) (c : Channel) : Channel :=
  match c.state with
  | .running =>
    if c.phase + 1 < period then { c with phase := c.phase + 1 }
    else if c.count ≤ 1 then ⟨0, 0, .expired, true⟩
    else { c with count := c.count - 1, phase := 0 }
  | .expired => c
  | .stopped => c

/-- Whether an expiry of the channel can be taken: its count has reached 0, and neither the owner nor an
earlier delivery has taken the expiry away since (R11, R13, R15). -/
def Channel.canExpire (c : Channel) : Bool := c.due

/-- The channel once its expiry is taken (R13); its phase 0 is the model's (DESIGN CHOICE, assumption
44). -/
def Channel.expired : Channel := ⟨0, 0, .expired, false⟩

/-- The time a status command reports: the count while RUNNING, else 0 (R16). -/
def Channel.remaining (c : Channel) : Nat := if c.state = .running then c.count else 0

/-- Base ticks of a period of one second (Table 1-3). -/
def secondTicks : Nat := 1000

/-- Base ticks of a period of 100 ms (Table 1-3). -/
def tenthTicks : Nat := 100

/-- Counts of PRESENCE in one second of hold time (R174). -/
def holdCounts (seconds : Nat) : Nat := seconds * 10

/-- The proof window in counts of PRESENCE (R174). -/
def proofCounts : Nat := 1200

end Sys2Proof.Machine
end

