-- ==== Sys2Proof/Machine/Ops.lean ====
section
/-! DEFINITION. The shared operations: bus outputs, the arbiter, the gate and the timers' owners, the
response's end and the gating order. -/

namespace Sys2Proof.Machine

/-! ### Outputs -/

/-- Nothing put on the buses yet (assumption 3). -/
def State.clearOut (s : State) : State := { s with out := ⟨[], []⟩ }

/-- Bytes clocked out to the SoC. -/
def State.toSoc (s : State) (bytes : List Byte) : State :=
  { s with out := { s.out with toSoc := s.out.toSoc ++ bytes } }

/-- Operations sent to the flash. -/
def State.toFlash (s : State) (ops : List DownOp) : State :=
  { s with out := { s.out with toFlash := s.out.toFlash ++ ops } }

/-- A command on the downstream bus: its command byte, its address, and the data bytes that the part sends
after it (R30, Table 12-14). -/
structure BusCommand where
  command : Byte
  address : Option Address
  data : List Byte
  deriving DecidableEq, Repr

/-- A physical address in the 4-byte form, which the port uses downstream whatever form the SoC used (R30). -/
def fourByte (phys : Nat) : Option Address := some (.four (BitVec.ofNat 32 phys))

/-- The page position that a forwarded PROGRAM's data starts at: the written one whose predecessor in the page,
where the flash wraps as R18 does, is not written. A page written whole has none, and its start is a free value
(assumption 47). -/
def programStart (page : Nat) (image : List (Nat × Byte)) : Nat :=
  ((image.find? fun e => !image.any fun d => decide (e.1 = (d.1 + 1) % 256)).map Prod.fst).getD
    (Config.fullPageStart page (image.map Prod.snd)).toNat

/-- The bytes of a page image from a position on, wrapping within the page (R18). -/
def imageFrom (start : Nat) (image : List (Nat × Byte)) : List Byte :=
  (image.filter fun e => decide (start ≤ e.1)).map Prod.snd ++
    (image.filter fun e => decide (e.1 < start)).map Prod.snd

/-- What an operation is on the downstream bus: the 4-byte forms 13, 12, 21 and DC, 05 for the polling and 9F
for the capture (R30, Table 12-14). The write enable's 06 and the status write's 01 are that table's only bytes
of their classes (DEDUCED, assumption 46); a chip erase's byte is one of its two, a free value (assumption
46). -/
def DownOp.sent : DownOp → BusCommand
  | .identify => ⟨0x9f, none, []⟩
  | .statusPoll => ⟨0x05, none, []⟩
  | .writeEnable => ⟨0x06, none, []⟩
  | .readFrom phys => ⟨0x13, fourByte phys, []⟩
  | .program page image =>
    let start := programStart page image
    ⟨0x12, fourByte (page + start), imageFrom start image⟩
  | .erase4k phys => ⟨0x21, fourByte phys, []⟩
  | .erase64k phys => ⟨0xdc, fourByte phys, []⟩
  | .eraseChip => ⟨if Config.chipEraseIsC7 then 0xc7 else 0x60, none, []⟩
  | .statusWrite data => ⟨0x01, none, data⟩

/-- The commands that the latest command of the queue has put on the downstream bus (R30). -/
def State.downstreamBus (s : State) : List BusCommand := s.out.toFlash.map DownOp.sent

/-! ### The Downstream Port and the Flash Arbiter -/

/-- The port in a state. -/
def State.setPort (s : State) (p : PortState) : State := { s with down := { s.down with port := p } }

/-- A chunk IN_FLIGHT that is preempted becomes WAITING and keeps its delivered bytes (R32). -/
def Chunk.preempted (c : Chunk) : Chunk :=
  match c.st with
  | .inFlight => { c with st := .waiting }
  | .waiting => c
  | .none => c

/-- A SoC READ takes the port at its first byte that needs the flash (R30, R32). -/
def State.takePort (s : State) : State :=
  match s.down.port with
  | .idle => s.setPort .carryingSoc
  | .carryingChunk =>
    { s with down := { s.down with port := .carryingSoc, chunk := s.down.chunk.preempted } }
  | .carryingSoc => s
  | .flashBusy => s

/-- The port becomes free: a waiting chunk goes on at its first undelivered byte, else the port is
IDLE (R30, R32). -/
def State.freePort (s : State) : State :=
  match s.down.chunk.st with
  | .waiting =>
    { s with down := { s.down with
        port := .carryingChunk, chunk := { s.down.chunk with st := .inFlight } } }.toFlash
      [.readFrom (s.down.chunk.start + s.down.chunk.got.length)]
  | .none => s.setPort .idle
  | .inFlight => s.setPort .idle

/-- A program, erase or status write is forwarded: the flash's write enable, then the operation, and
the port goes to FLASH_BUSY, preempting a chunk in flight (R30, R32). -/
def State.forward (s : State) (op : DownOp) : State :=
  { s with down := { s.down with port := .flashBusy, chunk := s.down.chunk.preempted } }.toFlash
    [.writeEnable, op]

/-- The Verification Engine asks for a chunk (R31). -/
def State.requestChunk (s : State) (start len : Nat) : State :=
  match s.down.port with
  | .idle =>
    { s with down := { s.down with
        port := .carryingChunk, chunk := ⟨start, len, [], .inFlight⟩ } }.toFlash [.readFrom start]
  | _ => { s with down := { s.down with chunk := ⟨start, len, [], .waiting⟩ } }

/-! ### Timers and the owner gate -/

/-- START of GATE with the gate idle time: the restart of a gated acceptance, and the start at the
opening (R162). -/
def State.startGate (s : State) : State :=
  { s with timers := { s.timers with gate := Channel.start s.cred.gateIdle } }

/-- The gate opens and GATE starts (R162). -/
def State.openGate (s : State) : State :=
  { s with cred := { s.cred with gateOpen := true } }.startGate

/-- The gate closes and GATE is stopped; nothing is raised (R163). -/
def State.shutGate (s : State) : State :=
  { s with
    cred := { s.cred with gateOpen := false }
    timers := { s.timers with gate := s.timers.gate.stop } }

/-- The gate closes, raising GATE_CLOSED if it was OPEN (R163). -/
def State.closeGate (s : State) : State :=
  if s.cred.gateOpen then s.shutGate.raise .gateClosed else s.shutGate

/-- penalty(f) in seconds; 0 where none is started (R164). -/
def penalty (f : Nat) : Nat := if f < 5 ∨ 20 ≤ f then 0 else min (30 * 2 ^ (f - 5)) 3600

/-- START of PENALTY with penalty(f) when that is above 0 (R12, R164). -/
def State.startPenalty (s : State) : State :=
  if penalty s.cred.failCount = 0 then s
  else { s with timers := { s.timers with penalty := Channel.start (penalty s.cred.failCount) } }

/-- START of TRIAL (R11, R94). -/
def State.startTrial (s : State) (len : Nat) : State :=
  { s with timers := { s.timers with trial := Channel.start len } }

/-- STOP of TRIAL (R108). -/
def State.stopTrial (s : State) : State :=
  { s with timers := { s.timers with trial := s.timers.trial.stop } }

/-- START of PRESENCE (R174). -/
def State.startPresence (s : State) (len : Nat) : State :=
  { s with timers := { s.timers with presence := Channel.start len } }

/-! ### Responses -/

/-- How a command ends: result, detail, payload, and FLOOR_DEFERRED (R67). -/
structure Reply where
  result : Result
  detail : Byte
  payload : List Byte
  floorDeferred : Bool
  deriving DecidableEq, Repr

/-- OK with a payload. -/
def Reply.ok (payload : List Byte) : Reply := ⟨.ok, 0, payload, false⟩

/-- A result with no detail and no payload. -/
def Reply.plain (r : Result) : Reply := ⟨r, 0, [], false⟩

/-- A refusal with a detail. -/
def Reply.detailed (r : Result) (d : Byte) : Reply := ⟨r, d, [], false⟩

/-- PARAM_BAD's details and STAGE_DENIED's item detail (Table 12-8). -/
def Reply.range : Reply := .detailed .paramBad 1
def Reply.reservedField : Reply := .detailed .paramBad 2
def Reply.widening : Reply := .detailed .paramBad 3
def Reply.itemStage : Reply := .detailed .stageDenied 1

/-- A DONE response of a reply; the frame's code, tag, refused-frame count and PREVIOUS_UNREAD pass
into it (R64 to R67). -/
def Response.finish (r : Response) (a : Reply) : Response :=
  { r with
    state := .done, result := a.result, detail := a.detail, payload := a.payload
    floorDeferred := a.floorDeferred, unread := true }

/-- The command in progress ends: the response is written and DONE, SERVICE_DONE is set pending, the
engine is IDLE and its abort request cleared (R67, R71). -/
def State.endCommand (s : State) (a : Reply) : State :=
  { s with
    aperture := { s.aperture with resp := s.aperture.resp.finish a }
    engine := { s.engine with state := .idle, abortRequest := false } }.raise .serviceDone

/-- The engine works on a command. -/
def State.work (s : State) (w : CmdWork) : State :=
  { s with engine := { s.engine with state := .command w } }

/-- The engine works on a job. -/
def State.jobOn (s : State) (w : JobWork) : State :=
  { s with engine := { s.engine with state := .job w } }

/-- PREVIOUS_UNREAD of a new response: the one it replaces is DONE and unread (R65). -/
def Response.lost (r : Response) : Bool := decide (r.state = .done) && r.unread

/-- A RUNNING response for a frame (R64, R66). -/
def Response.running (f : Frame) (previousUnread : Bool) (refused : Nat) : Response :=
  { Response.empty with
    state := .running, code := f.code, tag := f.tag, previousUnread := previousUnread
    refused := refused }

/-- A QUEUED response for a frame (R64, R66). -/
def Response.queued (f : Frame) (previousUnread : Bool) : Response :=
  { Response.empty with
    state := .queued, code := f.code, tag := f.tag, previousUnread := previousUnread }

/-- One more refused frame, saturating at 255 (R63, R66). -/
def Response.countRefused (r : Response) : Response := { r with refused := min (r.refused + 1) 255 }

/-! ### The abort points of a supply wait -/

/-- Whether the wait of a command for its record write is an abort point (R71, R108, R111, R146,
R167). -/
def CmdWork.waitAborts : CmdWork → Bool
  | .verifyStore _ _ => true
  | .store _ _ => true
  | .credIncrement _ _ => true
  | .verify _ => false
  | .confirmCounters _ _ _ => false
  | .confirmSlots _ => false
  | .confirmBurn _ => false
  | .sign _ _ _ => false
  | .generate _ => false
  | .credClear _ => false
  | .deployBurn _ _ => false
  | .deploySlots _ _ => false

/-- What an aborted command leaves: its requests withdrawn, UPDATE_VERIFY's target in its prior state,
result ABORTED with an empty payload (R71, R104, R135, R166). -/
def State.abortCommand (s : State) (w : CmdWork) : State :=
  let t := s.withdrawCommand
  let u :=
    match w with
    | .verify x => { t.setSlot x (t.slot x).leaveVerifying with ve := VerEngine.idle }
    | .verifyStore x _ => t.setSlot x (t.slot x).leaveVerifying
    | _ => t
  u.endCommand (.plain .aborted)

/-- The abort request observed at a supply wait: the supply is LOW, the command waits for a write that
has not begun, and none of its own is in progress (R71, R103, R135). -/
def State.observeAbort (s : State) : State :=
  match s.engine.state with
  | .command w =>
    if s.engine.abortRequest && !s.supply.normal && w.waitAborts && s.commandWaits
        && !s.commandWrites then
      s.abortCommand w
    else s
  | .idle => s
  | .job _ => s

/-! ### Gating -/

/-- A check of the gating order: whether it passes, and the refusal when it does not. -/
abbrev Check := Bool × Reply

/-- The first check that fails (R72). -/
def firstFailing : List Check → Option Reply
  | [] => none
  | c :: cs => if c.1 then firstFailing cs else some c.2

/-- The lifecycle step: a command limited to one lifecycle is refused in the other (R72). -/
def lifecycleCheck (s : State) (only : Option Lifecycle) : Check :=
  match only with
  | none => (true, .plain .lifecycleDenied)
  | some l => (decide (s.life = l), .plain .lifecycleDenied)

/-- The six checks of R72 after the command code, then the command: `reservedOk` are the reserved
fields of the parameters, `params` the other parameter checks, `state` the state preconditions, and
`supply` says whether the command is checked at step 6. -/
def State.gated (s : State) (f : Frame) (only : Option Lifecycle) (cond : Cond) (reservedOk : Bool)
    (params state : List Check) (supply : Bool) (act : State → State) : State :=
  match firstFailing
      ([lifecycleCheck s only,
        (cond.holds s.stage, .detailed .stageDenied 0),
        (decide (f.reserved = 0) && reservedOk, Reply.reservedField)] ++ params ++ state ++
        [(!supply || s.supply.normal, Reply.plain .supplyLow)]) with
  | some refusal => s.endCommand refusal
  | none => act s

/-- The frame carries exactly `n` parameter bytes (R73). -/
def exactParams (f : Frame) (n : Nat) : Check := (decide (f.params.length = n), Reply.range)

/-- The owner gate is OPEN (R72, R162). -/
def gateCheck (s : State) : Check := (s.cred.gateOpen, .plain .gateClosed)

end Sys2Proof.Machine
end

