-- ==== Sys2Proof/Machine/Verification.lean ====
section
/-! DEFINITION. Manifests and the verification procedure (R80 to R87), run chunk by chunk by the
Verification Engine (R31, R85, R102). -/

namespace Sys2Proof.Machine

/-! ### Manifest fields (R80, Table 12-9) -/

/-- Entry count n. -/
def manifestCount (m : List Byte) : Nat := (byteAt m 7).toNat
/-- Authority index. -/
def manifestAuthority (m : List Byte) : Nat := (byteAt m 5).toNat
/-- Trial time. -/
def manifestTrial (m : List Byte) : Nat := leAt m 10 2
/-- Security version. -/
def manifestVersion (m : List Byte) : Nat := (byteAt m 12).toNat
/-- Image length. -/
def manifestImageLength (m : List Byte) : Nat := leAt m 20 4
/-- The signed bytes: everything before the signature. -/
def manifestSigned (m : List Byte) : List Byte := slice m 0 (64 + 16 * manifestCount m)
/-- The signature. -/
def manifestSignature (m : List Byte) : List Byte := slice m (64 + 16 * manifestCount m) 64
/-- The policy bytes: default entry and region entries. -/
def manifestPolicy (m : List Byte) : List Byte := slice m 56 (8 + 16 * manifestCount m)
/-- The 16 bytes of each region entry, in order. -/
def manifestEntryBytes (m : List Byte) : List (List Byte) :=
  (List.range (manifestCount m)).map fun i => slice m (64 + 16 * i) 16
/-- The region entries whose anchor and fill are listed values. -/
def manifestRegions (m : List Byte) : List Region := (manifestEntryBytes m).filterMap parseRegion

/-- The summary of a manifest that has passed (R77, R87). -/
def manifestSummary (m : List Byte) : Summary where
  securityVersion := manifestVersion m
  imageVersion := leAt m 16 4
  imageLength := manifestImageLength m
  imageDigest := slice m 24 32
  policyDigest := sha256 (manifestPolicy m)
  manifestDigest := sha256 (slice m 0 (128 + 16 * manifestCount m))
  authority := manifestAuthority m
  trialTime := manifestTrial m
  revokeOther := (byteAt m 6).getLsbD 0

/-! ### The steps -/

/-- Step 1: the format (R82). -/
def formatOk (m : List Byte) : Bool :=
  decide (slice m 0 4 = [0x43, 0x50, 0x4c, 0x4d]) && decide (byteAt m 4 = 1)
    && decide (manifestAuthority m ≤ 1) && decide ((byteAt m 6).toNat ≤ 1)
    && decide (manifestCount m ≤ 28) && decide (leAt m 8 2 = 128 + 16 * manifestCount m)
    && decide (30 ≤ manifestTrial m) && decide (manifestTrial m ≤ 3600)
    && decide (manifestVersion m ≤ 64) && zeroBytes m 13 3

/-- The key slot of an authority (R83). -/
def authoritySlot (i : Nat) : Fin 16 := if i = 0 then 1 else 2

/-- Steps 1 to 5 on the manifest chunk's bytes: the first that fails gives the reason (R81 to R84). -/
def checkManifest (s : State) (g : Geometry) (m : List Byte) : Option FailReason :=
  let key := s.keys[authoritySlot (manifestAuthority m)]
  if !formatOk m then some .manifestFormat
  else if !key.present then some .authorityAbsent
  else if s.effRevoked (manifestAuthority m) then some .authorityRevoked
  else if !P256.verify key.pub (sha256 (manifestSigned m)) (manifestSignature m) then
    some .signature
  else if manifestVersion m < s.effFloor then some .rollback
  else if g.slotSize < manifestImageLength m + 4096 then some .imageLength
  else none

/-- Step 7: the region policy (R86). -/
def policyOk (g : Geometry) (m : List Byte) : Bool :=
  (Fill.ofByte? (byteAt m 60)).isSome && (Cond.ofByte (byteAt m 56)).valid
    && (Cond.ofByte (byteAt m 58)).valid && zeroBytes m 61 3
    && (manifestEntryBytes m).all fun e =>
        match parseRegion e with
        | some r => r.valid g && zeroBytes e 6 2
        | none => false

/-- Steps 6 and 7 once the image digest is finished (R85 to R87). -/
def judgeImage (g : Geometry) (m digest : List Byte) : VerifyOutcome :=
  if digest ≠ slice m 24 32 then .fail .imageDigest
  else if !policyOk g m then .fail .policyBad
  else .pass (manifestSummary m)

/-! ### Chunk by chunk -/

/-- What the procedure answers after a chunk. -/
inductive VerifyProgress where
  | going
  | ended (o : VerifyOutcome)
  deriving DecidableEq, Repr

/-- The procedure begins: the manifest chunk of the slot is requested (R81). R85 gives the cursor and the
digest from step 6 on: that the cursor is 0, the digest not begun and no manifest held while the manifest
chunk is read is the model's (DESIGN CHOICE, assumption 43). -/
def State.startVerify (s : State) (g : Geometry) (x : SlotId) : State :=
  { s with ve := ⟨.manifest x, [], 0, ShaState.initial⟩ }.requestChunk (slotBase g x) Config.chunkSize

/-- Step 6 goes on: the next image chunk is requested, or the digest is finished and judged (R85). That the
cursor and the digest stay as the last chunk has left them is the model's (DESIGN CHOICE, assumption 43). -/
def State.goOnImage (s : State) (g : Geometry) (x : SlotId) : State × VerifyProgress :=
  let stop := Config.chunkSize + manifestImageLength s.ve.manifest
  if s.ve.cursor < stop then
    (s.requestChunk (slotBase g x + s.ve.cursor) (min Config.chunkSize (stop - s.ve.cursor)), .going)
  else
    ({ s with ve := { s.ve with work := .none } }, .ended (judgeImage g s.ve.manifest (shaFinish s.ve.sha)))

/-- A completed chunk's bytes go to the procedure (R31, R81, R85). The cursor and the digest that a failed
manifest leaves are the model's (DESIGN CHOICE, assumption 43). -/
def State.feedVerify (s : State) (g : Geometry) (bytes : List Byte) : State × VerifyProgress :=
  match s.ve.work with
  | .manifest x =>
    match checkManifest s g bytes with
    | some why => ({ s with ve := { s.ve with work := .none } }, .ended (.fail why))
    | none =>
      { s with ve := ⟨.image x, bytes, Config.chunkSize, ShaState.initial⟩ }.goOnImage g x
  | .image x =>
    { s with ve := { s.ve with
        cursor := s.ve.cursor + bytes.length, sha := shaUpdate s.ve.sha bytes } }.goOnImage g x
  | .loader => (s, .going)
  | .none => (s, .going)

/-- The recovery loader's digest goes on: the next chunk of [RB, RB+R), or the finished digest (R95). The
spec names no cursor for the loader: one that counts its bytes from 0 is the model's (DESIGN CHOICE,
assumption 43). -/
def State.goOnLoader (s : State) (g : Geometry) : State × Option (List Byte) :=
  if s.ve.cursor < g.recSize then
    (s.requestChunk (g.recBase + s.ve.cursor) (min Config.chunkSize (g.recSize - s.ve.cursor)), none)
  else ({ s with ve := { s.ve with work := .none } }, some (shaFinish s.ve.sha))

/-- A completed chunk of the loader (R95), which moves the model's cursor on (DESIGN CHOICE, assumption
43). -/
def State.feedLoader (s : State) (g : Geometry) (bytes : List Byte) : State × Option (List Byte) :=
  { s with ve := { s.ve with
      cursor := s.ve.cursor + bytes.length, sha := shaUpdate s.ve.sha bytes } }.goOnLoader g

end Sys2Proof.Machine
end

