-- ==== Sys2Proof/Machine/BootFlow.lean ====
section
/-! DEFINITION. The boot flow (R88 to R96): its first step, its resumption, the pending burns, the
candidates, the load step, RECOVERY and the release step. -/

namespace Sys2Proof.Machine

/-! ### Step 1 -/

/-- A transaction in progress is ended for the part: the rest of it falls under R19 (R34). -/
def Snapshot.ended (p : Snapshot) : Snapshot := { p with stage := .s0 }

/-- The Upstream Port at the first step (R34): an unreleased transaction is discarded without being
judged, a READ clocks out 0xFF for its remaining bytes and releases the port. -/
def Upstream.restart (u : Upstream) : Upstream where
  wel := false
  denied := false
  arrived := u.arrived.map fun a => { a with snap := a.snap.ended }
  reads := u.reads.map fun r => { r with snap := r.snap.ended, holds := false }

/-- The Downstream Port at the first step: FLASH_BUSY stays, the chunk is abandoned, the captured
identification is kept (R34). -/
def Downstream.restart (d : Downstream) : Downstream :=
  { d with port := if d.port = .flashBusy then .flashBusy else .idle, chunk := Chunk.absent }

/-- The Slot Table at the first step: a VERIFYING slot takes its prior state, the deferral flag is
cleared (R76, R113, R115). -/
def SlotTable.restart (t : SlotTable) : SlotTable :=
  { t with
    slotA := t.slotA.leaveVerifying, slotB := t.slotB.leaveVerifying, deferral := false }

/-- The first step of a boot flow (R89), for either kind of reset: S0, the flash path, the aperture,
the engine, the timers, the table, the gate, the Presence Unit, the log and the events reset, and
what the abandoned work leaves (R75, R104, R119, R127, R130, R135). -/
def State.startFlow (s : State) (reason : BootReason) : State :=
  let c := s.configOrDefault
  { s with
    stage := .s0
    up := s.up.restart
    filter := { s.filter with table := RegionTable.unloaded }
    down := s.down.restart
    ve := VerEngine.idle
    slots := s.slots.restart
    cred := { s.cred with gateOpen := false, gateIdle := c.gateIdle }
    presence := { s.presence with state := .idle, holdTime := c.holdTime }
    log := MeasLog.empty
    events := EventUnit.cleared
    fuses := s.fuses.abandon
    records := s.records.abandon
    supply := { s.supply with
      threshold := c.threshold, hysteresis := c.hysteresis, samples := c.samples }
    timers := ⟨Channel.stopped, Channel.stopped, Channel.stopped, Channel.stopped⟩
    aperture := ⟨none, Response.empty, none, none⟩
    engine := ⟨.idle, false, false, false, none⟩
    flow := ⟨.wait, reason⟩ }

/-! ### Jobs -/

/-- A job added to the pending-job set (R68). -/
def State.requestJob (s : State) (k : JobKind) : State :=
  match k with
  | .ownerReset => { s with engine := { s.engine with ownerResetPending := true } }
  | .floorBurn => { s with engine := { s.engine with floorBurnPending := true } }

/-! ### Steps 10 and 11 -/

/-- The stage the release step hands over (R3). -/
def Mode.handedStage : Mode → Stage
  | .runA => .num 1
  | .runB => .num 1
  | .recovery => .unset
  | .passthrough => .unset

/-- The release step (R3, R11, R96, R175, R177). -/
def State.release (s : State) : State :=
  let t : State := { s with
    stage := s.filter.mode.handedStage
    presence := { s.presence with
      state := if s.presence.level then .waitRelease else .idle }
    flow := { s.flow with phase := .none } }
  let u := t.startPenalty
  if u.cred.wipeUnfinished then u.requestJob .ownerReset else u

/-! ### The records a flow makes -/

/-- The PART input (R152). -/
def State.partInput (s : State) : List Byte :=
  let c := s.configOrDefault
  u32 c.geo.flashSize ++ u32 c.geo.slotSize ++ u32 c.geo.apBase ++ u32 c.geo.recBase ++
    u32 c.geo.recSize ++ u16 c.threshold ++ u16 c.hysteresis ++ u8 c.samples ++ u16 c.gateIdle ++
    u8 c.holdTime ++ [s.life.toByte] ++ u8 s.fuseCount ++ u8 s.fuses.image.revoke.toNat

/-- Appends the PART record (R153). -/
def State.logPart (s : State) : State := s.logAppend .part s.stage (sha256 s.partInput) []

/-! ### RECOVERY -/

/-- RECOVERY once the loader's digest is finished: its two records, FALLBACK, release (R95, R96). -/
def State.finishRecovery (s : State) (digest : List Byte) : State :=
  ((s.logPart.logAppend .recovery s.stage digest []).raise .fallback).release

/-- The flow goes on with the loader's digest (R95). -/
def State.onLoader (r : State × Option (List Byte)) : State :=
  match r.2 with
  | none => { r.1 with flow := { r.1.flow with phase := .loader } }
  | some digest => r.1.finishRecovery digest

/-- The flow enters RECOVERY (R95). The cursor that starts at 0 over the loader's bytes is the model's
(DESIGN CHOICE, assumption 43). -/
def State.enterRecovery (s : State) : State :=
  let g := s.configOrDefault.geo
  let t : State := { s with
    filter := ⟨.recovery, g, recoveryTable g⟩
    ve := ⟨.loader, [], 0, ShaState.initial⟩ }
  State.onLoader (t.goOnLoader g)

/-! ### Steps 6 to 8 -/

/-- Step 6 for one slot: an unconfirmed trial fails, its summary kept (R92). -/
def State.failTrial (s : State) (x : SlotId) : State :=
  if (s.slot x).state = .trial then s.changeSlot x ((s.slot x).failKeep .trialUnconfirmed) else s

/-- Step 7: ARMED, ACTIVE, SPARE, VERIFIED, STAGED, and slot A before slot B (R93). -/
def State.candidates (s : State) : List SlotId :=
  [SlotState.armed, .active, .spare, .verified, .staged].flatMap fun st =>
    [SlotId.a, .b].filter fun x => (s.slot x).state = st

/-- Step 8: the next candidate is verified; with none left the flow enters RECOVERY (R93, R95). -/
def State.tryCandidates (s : State) (first : Bool) : List SlotId → State
  | [] => s.enterRecovery
  | x :: rest =>
    let t := s.startVerify s.configOrDefault.geo x
    { t with flow := { t.flow with phase := .verifying x rest first } }

/-- Steps 6 to 8 begin (R92, R93). -/
def State.selectSlot (s : State) : State :=
  let t := (s.failTrial .a).failTrial .b
  t.tryCandidates true t.candidates

/-! ### The booted slot -/

/-- The booted slot's record: an ACTIVE one stays ACTIVE, any other becomes TRIAL, each with the new
summary; a record write is requested where the record has changed (R79, R94). -/
def State.bootSlot (s : State) (x : SlotId) (m : Summary) : State :=
  if (s.slot x).state = .active then
    let r := { s.slot x with summary := some m }
    if r = s.slot x then s else s.changeSlot x r
  else (s.changeSlot x ⟨.trial, .trial, .none, some m⟩).startTrial m.trialTime

/-- The policy of a verified manifest (R44). -/
def manifestTable (m : List Byte) : RegionTable :=
  RegionTable.load (manifestRegions m) ((Fill.ofByte? (byteAt m 60)).getD .ones)
    (Cond.ofByte (byteAt m 56)) (Cond.ofByte (byteAt m 58))

/-- The load step (R94), then steps 10 and 11 (R96). -/
def State.bootVerified (s : State) (x : SlotId) (m : Summary) (first : Bool) : State :=
  let t := s.bootSlot x m
  let u : State := { t with
    filter := ⟨x.mode, t.configOrDefault.geo, manifestTable t.ve.manifest⟩ }
  let v := ((u.logPart.logAppend .manifest u.stage m.manifestDigest x.label).logAppend .image u.stage
    m.imageDigest x.label).logAppend .policy u.stage m.policyDigest x.label
  (if first then v else v.raise .fallback).release

/-- The verification of a candidate has ended (R87, R93). -/
def State.candidateEnded (s : State) (x : SlotId) (rest : List SlotId) (first : Bool) :
    VerifyOutcome → State
  | .pass m => s.bootVerified x m first
  | .fail why => (s.changeSlot x (SlotRec.failDrop why)).tryCandidates false rest

/-! ### Steps 2 to 5 -/

/-- Step 5's burns have gone on: the flow waits for them, or goes on to step 6, with FUSE_FAULT set
pending where a bit has failed (R91). -/
def State.onFlowBurns (r : State × BurnStatus) : State :=
  match r.2 with
  | .busy q => { r.1 with flow := { r.1.flow with phase := .burns q false } }
  | .stopped q => { r.1 with flow := { r.1.flow with phase := .burns q true } }
  | .finished q => (if q.failed then r.1.raise .fuseFault else r.1).selectSlot

/-- The identification captured at the flow's first downstream access (R25). -/
def State.capture (s : State) (id0 id1 id2 : Byte) : State :=
  { s with down := { s.down with id0 := id0, id1 := id1, id2 := id2 } }.toFlash [.identify]

/-- Step 3: the boot counter and the last boot reason, and one COUNTERS write (R90). -/
def State.countBoot (s : State) : State :=
  { s with slots := { s.slots with
      bootCounter := min (s.slots.bootCounter + 1) 4294967295
      lastReason := s.flow.reason } }.request .counters .block .asIs

/-- Step 4: a FACTORY flow ends (R90). -/
def State.factoryExit (s : State) : State :=
  { s with filter :=
      ⟨.passthrough, s.configOrDefault.geo, RegionTable.unloaded⟩ }.logPart.release

/-- Whether step 2's three conditions hold (R89). -/
def State.flowCanResume (s : State) : Bool :=
  s.supply.normal && !s.resetIn && !s.busy

/-- Steps 2 to 8 once the wait is over (R89 to R93). -/
def State.resumeFlow (s : State) (id0 id1 id2 : Byte) : State :=
  let t := (s.capture id0 id1 id2).countBoot
  match t.life with
  | .factory => t.factoryExit
  | .deployed => State.onFlowBurns (t.goOnBurns .flow BurnSeq.start)

/-- A completed chunk goes to the flow (R31, R85, R95). -/
def State.flowChunk (s : State) (bytes : List Byte) : State :=
  let g := s.configOrDefault.geo
  match s.flow.phase with
  | .verifying x rest first =>
    match s.feedVerify g bytes with
    | (t, .going) => t
    | (t, .ended o) => t.candidateEnded x rest first o
  | .loader => State.onLoader (s.feedLoader g bytes)
  | .none => s
  | .wait => s
  | .burns _ _ => s

end Sys2Proof.Machine
end

