-- ==== Sys2Proof/Machine/Queries.lean ====
section
/-! DEFINITION. The commands that report and change nothing: IDENTIFY, SLOT_STATUS, POLICY_READ,
LOG_READ, CERT_READ, KEY_PUBLIC, CRED_LIST and EVENTS_READ, with their payloads (R56, R98, R136, R156,
R159, R160, R173, R182, R187). -/

namespace Sys2Proof.Machine

/-- F, S, AP, RB and R (Table 12-1). -/
def Geometry.bytes (g : Geometry) : List Byte :=
  u32 g.flashSize ++ u32 g.slotSize ++ u32 g.apBase ++ u32 g.recBase ++ u32 g.recSize

/-! ### IDENTIFY -/

/-- The IDENTIFY payload (R160). The DEVICE_ID row is sent bit 0 first (R117, R185). -/
def State.identifyPayload (s : State) : List Byte :=
  leBytes 16 s.fuses.image.deviceId.toNat ++ [s.life.toByte, s.filter.mode.toByte, s.stage.toByte] ++
    s.filter.geo.bytes ++
    flagByte s.supply.normal ++ u16 s.supply.reading ++ u16 s.supply.threshold ++
    u16 s.supply.hysteresis ++ u8 s.supply.samples ++ u16 s.supply.calibration ++
    flagByte s.supply.calDefault ++
    u32 s.slots.bootCounter ++ u32 s.cred.ownerEpoch ++ [s.slots.lastReason.toByte] ++
    u8 s.fuseCount ++ [s.down.id0, s.down.id1, s.down.id2]

/-- IDENTIFY (R160). -/
def cmdIdentify (f : Frame) (s : State) : State :=
  s.gated f none Cond.always true [exactParams f 0] [] false fun t =>
    t.endCommand (.ok t.identifyPayload)

/-! ### SLOT_STATUS -/

/-- The fields of a summary in the order of R77; zeros where it is absent (R187). -/
def summaryBytes : Option Summary → List Byte
  | some m =>
    u8 m.securityVersion ++ u32 m.imageVersion ++ u32 m.imageLength ++ m.imageDigest ++
      m.policyDigest ++ m.manifestDigest ++ u8 m.authority ++ u16 m.trialTime ++
      flagByte m.revokeOther
  | none => List.replicate 109 0

/-- A slot's part of SLOT_STATUS (R98). -/
def SlotRec.statusBytes (r : SlotRec) : List Byte :=
  [r.state.toByte, (if r.state = .verifying then r.prior else r.state).toByte,
    (if r.state = .failed then r.reason else .none).toByte] ++
    flagByte r.summary.isSome ++ summaryBytes r.summary

/-- The SLOT_STATUS payload (R98); the two effective revocations are two flags (assumption 11). -/
def State.slotStatusPayload (s : State) : List Byte :=
  s.slots.slotA.statusBytes ++ s.slots.slotB.statusBytes ++
    [slotByte s.filter.mode.running, s.filter.mode.toByte] ++ u16 s.timers.trial.remaining ++
    u8 s.effFloor ++ u8 s.fuseCount ++ flagByte (s.effRevoked 0) ++ flagByte (s.effRevoked 1) ++
    [s.slots.lastReason.toByte]

/-- SLOT_STATUS (R98). -/
def cmdSlotStatus (f : Frame) (s : State) : State :=
  s.gated f none Cond.always true [exactParams f 0] [] false fun t =>
    t.endCommand (.ok t.slotStatusPayload)

/-! ### POLICY_READ -/

/-- The default entry's part; an absent one has fill byte 0x01 and zero conditions (R187). -/
def defaultBytes : Option DefaultEntry → List Byte
  | some d =>
    [d.fill.toByte, d.readCond.toByte, d.writeCond.toByte, d.effRead.toByte, d.effWrite.toByte]
  | none => [0x01, 0, 0, 0, 0]

/-- A manifest entry's part (R56). -/
def ManifestEntry.bytes (e : ManifestEntry) : List Byte :=
  [e.loaded.anchor.toByte] ++ u32 e.loaded.offset ++ u32 e.loaded.size ++
    [e.loaded.fill.toByte, e.loaded.readCond.toByte, e.loaded.writeCond.toByte, e.effRead.toByte,
      e.effWrite.toByte]

/-- A tightening entry's part, after its position (R56). -/
def Region.tightBytes (r : Region) : List Byte :=
  [r.anchor.toByte] ++ u32 r.offset ++ u32 r.size ++
    [r.readCond.toByte, r.writeCond.toByte, r.fill.toByte]

/-- The POLICY_READ payload (R56). In PASSTHROUGH it shows no tightening entry, as R56 says, but between
PROV_DEPLOY's OK and its restart: an entry that form (b) of POLICY_TIGHTEN has added there is reported in mode
PASSTHROUGH (DESIGN CHOICE, assumption 20). -/
def State.policyPayload (s : State) : List Byte :=
  let t := s.filter.table
  [s.filter.mode.toByte] ++ s.filter.geo.bytes ++ [slotByte s.filter.mode.running] ++
    u8 t.entries.length ++ defaultBytes t.dflt ++ t.entries.flatMap ManifestEntry.bytes ++
    u8 t.tight.length ++ t.tight.zipIdx.flatMap fun e => u8 (28 + e.2) ++ e.1.tightBytes

/-- POLICY_READ (R56). -/
def cmdPolicyRead (f : Frame) (s : State) : State :=
  s.gated f none Cond.always true [exactParams f 0] [] false fun t =>
    t.endCommand (.ok t.policyPayload)

/-! ### LOG_READ -/

/-- The bytes of a LOG_READ payload left for records after the 36-byte summary (R156). -/
def logRoom : Nat := Config.payloadMax - 36

/-- The LOG_READ payload from a start index (R156, section 12.3). -/
def MeasLog.payload (l : MeasLog) (start : Nat) : List Byte :=
  let returned := takeFitting logRoom (l.records.drop start)
  u8 l.records.length ++ flagByte l.overflow ++ u8 start ++ u8 returned.length ++ l.chain ++
    returned.flatMap LogRec.bytes

/-- LOG_READ (R156). -/
def cmdLogRead (f : Frame) (s : State) : State :=
  s.gated f none Cond.always true [exactParams f 1] [] false fun t =>
    t.endCommand (.ok (t.log.payload (f.p 0)))

/-! ### CERT_READ -/

/-- CERT_READ (R159). -/
def cmdCertRead (f : Frame) (s : State) : State :=
  s.gated f none Cond.always true [exactParams f 0] [(s.cert.isSome, .plain .emptyItem)] false
    fun t => t.endCommand (.ok (t.cert.getD []))

/-! ### KEY_PUBLIC -/

/-- The key slot a parameter names; read only once its range is checked. -/
def keySlot (f : Frame) (i : Nat) : Fin 16 := Fin.ofNat 16 (f.p i)

/-- The kind of a key slot: SIGN_P256 1, VERIFY_P256 2 (Table 8-1, Table 12-2). -/
def keyKind (i : Fin 16) : Byte := if i = 1 ∨ i = 2 then 2 else 1

/-- The role of a key slot (Table 8-1, Table 12-2). -/
def keyRole (i : Fin 16) : Byte :=
  if i = 0 then 1 else if i = 1 then 2 else if i = 2 then 3 else if i = 3 then 4 else 5

/-- The KEY_PUBLIC payload (R136). -/
def KeyRec.payload (k : KeyRec) (i : Fin 16) : List Byte :=
  u8 i.val ++ flagByte k.present ++ [keyKind i, keyRole i, k.cond.toByte] ++
    flagByte k.gateRequired ++ u8 k.label.length ++ k.label ++ k.pub

/-- KEY_PUBLIC (R136). -/
def cmdKeyPublic (f : Frame) (s : State) : State :=
  s.gated f none Cond.always true [exactParams f 1, (decide (f.p 0 ≤ 15), Reply.range)]
    [(s.keys[keySlot f 0].present, .plain .emptyItem)] false
    fun t => t.endCommand (.ok (t.keys[keySlot f 0].payload (keySlot f 0)))

/-! ### CRED_LIST -/

/-- A credential's part of CRED_LIST (R173). -/
def Cred.listBytes (c : Cred) (id : Fin 24) : List Byte :=
  match c with
  | .empty => [0, if id = 0 then 1 else 0, 0]
  | .verifier label _ _ => [1, 1] ++ u8 label.length ++ label
  | .secret label _ cond gate => [1, 2] ++ u8 label.length ++ label ++ [cond.toByte] ++ flagByte gate

/-- The CRED_LIST payload (R173). -/
def State.credListPayload (s : State) : List Byte :=
  u8 s.cred.failCount ++ u16 s.timers.penalty.remaining ++ u16 s.timers.gate.remaining ++
    flagByte s.cred.gateOpen ++ [s.presence.state.toByte] ++
    (List.finRange 24).flatMap fun id => s.cred.creds[id].listBytes id

/-- CRED_LIST (R173). -/
def cmdCredList (f : Frame) (s : State) : State :=
  s.gated f none Cond.atOrAbove2 true [exactParams f 0] [] false fun t =>
    t.endCommand (.ok t.credListPayload)

/-! ### EVENTS_READ -/

/-- A violation record's nine bytes (section 12.3). -/
def ViolationRec.bytes (r : ViolationRec) : List Byte :=
  u32 r.first.addr ++ [TxClass.toByte r.first.cls, r.first.stage.toByte, r.first.decider.toByte] ++
    u16 r.repeats

/-- The EVENTS_READ payload (R182). -/
def State.eventsPayload (s : State) : List Byte :=
  u16 s.events.pending.toNat ++ u16 s.events.enabled.toNat ++ u32 s.events.total ++
    u8 s.events.violations.length ++ s.events.violations.flatMap ViolationRec.bytes

/-- EVENTS_READ (R182). -/
def cmdEventsRead (f : Frame) (s : State) : State :=
  s.gated f none Cond.always true [exactParams f 0] [] false fun t =>
    t.endCommand (.ok t.eventsPayload)

end Sys2Proof.Machine
end

