-- ==== Sys2Proof/Machine/StageCommands.lean ====
section
/-! DEFINITION. STAGE_ADVANCE (R4), MEASURE_EXTEND (R155), POLICY_TIGHTEN (R53 to R55) and QUOTE
(R157, R158). -/

namespace Sys2Proof.Machine

/-! ### STAGE_ADVANCE -/

/-- Whether the stage can be raised to `n`: it is numeric and below it (R4). -/
def Stage.below (st : Stage) (n : Nat) : Bool :=
  match st with
  | .num k => decide (k.val < n)
  | .unset => false

/-- The effect of an accepted STAGE_ADVANCE to `n` (R4). -/
def State.advanceStage (s : State) (n : Nat) : State :=
  let new := Stage.num (Fin.ofNat 8 n)
  let t := (State.closeGate { s with stage := new }).logAppend .stage new zeroDigest []
  t.endCommand (.ok [s.stage.toByte, new.toByte])

/-- STAGE_ADVANCE (R4). -/
def cmdStageAdvance (f : Frame) (s : State) : State :=
  s.gated f none Cond.always true
    [exactParams f 1, (decide (1 ≤ f.p 0) && decide (f.p 0 ≤ 7), Reply.range)]
    [(s.stage.below (f.p 0), .plain .wrongState)] false
    fun t => t.advanceStage (f.p 0)

/-! ### MEASURE_EXTEND -/

/-- The effect of an accepted MEASURE_EXTEND (R155). -/
def State.measureExtend (s : State) (digest label : List Byte) : State :=
  let n := s.log.records.length
  let t := s.logAppend .external s.stage digest label
  t.endCommand ⟨if s.log.outcome = .appended then .ok else .full, 0, u8 n ++ t.log.chain, false⟩

/-- MEASURE_EXTEND (R155). -/
def cmdMeasureExtend (f : Frame) (s : State) : State :=
  s.gated f (some .deployed) Cond.always true
    [(decide (f.p 32 ≤ 32) && decide (f.params.length = 33 + f.p 32), Reply.range)]
    [(decide (s.log.records.length < Config.logCapacity), .plain .full)] false
    fun t => t.measureExtend (slice f.params 0 32) (slice f.params 33 (f.p 32))

/-! ### POLICY_TIGHTEN -/

/-- The effective condition of a target: an entry's index, or 32 for DEFAULT (R54). -/
def RegionTable.target (t : RegionTable) (target : Nat) (a : Access) : Option Cond :=
  if target = 32 then t.dflt.map fun d => d.cond a
  else (t.entries[target]?).map fun e => e.cond a

/-- Replaces an effective condition of a manifest entry. -/
def ManifestEntry.tighten (e : ManifestEntry) (a : Access) (c : Cond) : ManifestEntry :=
  match a with
  | .read => { e with effRead := c }
  | .write => { e with effWrite := c }

/-- Replaces an effective condition of the default entry. -/
def DefaultEntry.tighten (d : DefaultEntry) (a : Access) (c : Cond) : DefaultEntry :=
  match a with
  | .read => { d with effRead := c }
  | .write => { d with effWrite := c }

/-- Form (a)'s effect on the table (R54). -/
def RegionTable.tighten (t : RegionTable) (target : Nat) (a : Access) (c : Cond) : RegionTable :=
  if target = 32 then { t with dflt := t.dflt.map fun d => d.tighten a c }
  else { t with entries := t.entries.modify target fun e => e.tighten a c }

/-- The table replaced. -/
def State.setTable (s : State) (t : RegionTable) : State :=
  { s with filter := { s.filter with table := t } }

/-- The which-selector: READ 0, WRITE 1 (Table 12-5). -/
def accessOf (n : Nat) : Option Access :=
  if n = 0 then some .read else if n = 1 then some .write else none

/-- Form (a): the checks of R54 in order, then the effect. -/
def cmdTightenA (f : Frame) (s : State) : State :=
  let target := f.p 1
  let access := (accessOf (f.p 2)).getD .read
  let cond := Cond.ofByte (byteAt f.params 3)
  let held := s.filter.table.target target access
  s.gated f (some .deployed) Cond.always true
    [exactParams f 4, (held.isSome, Reply.range), ((accessOf (f.p 2)).isSome, Reply.range),
      (cond.valid, Reply.range), (cond.noWider (held.getD cond), Reply.widening)] [] false
    fun t =>
      (t.setTable (t.filter.table.tighten target access cond)).endCommand
        (.ok [byteAt f.params 1, byteAt f.params 2, (held.getD cond).toByte, cond.toByte])

/-- Form (b): the checks of R55, then the effect. Between the end of PROV_DEPLOY and its restart the part
is DEPLOYED with no table loaded, and the entry is held until that restart (DESIGN CHOICE, assumption
20). -/
def cmdTightenB (f : Frame) (s : State) : State :=
  let entry := slice f.params 1 16
  let held := s.filter.table.tight.length
  s.gated f (some .deployed) Cond.always
    (zeroBytes entry 3 1 && zeroBytes entry 5 1 && zeroBytes entry 6 2)
    [exactParams f 17,
      ((match parseRegion entry with
        | some r => r.valid s.filter.geo
        | none => false), Reply.range)]
    [(decide (held < Config.tighteningMax), .plain .full)] false
    fun t =>
      match parseRegion entry with
      | some r =>
        (t.setTable { t.filter.table with tight := t.filter.table.tight ++ [r] }).endCommand
          (.ok (u8 (28 + held)))
      | none => t

/-- POLICY_TIGHTEN (R53): the form selector, then the form. -/
def cmdPolicyTighten (f : Frame) (s : State) : State :=
  if byteAt f.params 0 = 1 then cmdTightenA f s
  else if byteAt f.params 0 = 2 then cmdTightenB f s
  else s.gated f (some .deployed) Cond.always true [(false, Reply.range)] [] false id

/-! ### QUOTE -/

/-- The running slot's summary. -/
def State.runningSummary (s : State) : Option Summary :=
  s.filter.mode.running.bind fun x => (s.slot x).summary

/-- The running slot's versions and image digest in the quote body; zeros when none (R158). -/
def quoteImage : Option Summary → List Byte
  | some m => u8 m.securityVersion ++ u32 m.imageVersion ++ m.imageDigest
  | none => List.replicate 37 0

/-- The quote body (R158, Table 12-12). Between PROV_DEPLOY's OK and its restart the mode is PASSTHROUGH,
which R158's item does not list: the body then carries Table 12-12's code 0, no running slot and zeros
(DESIGN CHOICE, assumption 39). -/
def State.quoteBody (s : State) (nonce : List Byte) : List Byte :=
  leBytes 16 s.fuses.image.deviceId.toNat ++
    [s.life.toByte, s.filter.mode.toByte, s.stage.toByte, slotByte s.filter.mode.running] ++
    quoteImage s.runningSummary ++ u8 s.fuseCount ++ u8 s.effFloor ++ u32 s.slots.bootCounter ++
    u32 s.cred.ownerEpoch ++ [s.slots.lastReason.toByte] ++ u8 s.log.records.length ++
    flagByte s.log.overflow ++ s.log.chain ++ u8 nonce.length ++ nonce

/-- The private part of a key slot. -/
def State.scalar (s : State) (i : Fin 16) : Nat := (s.keys[i].scalar).getD 0

/-- QUOTE (R157, R158): the body is signed with the IDENTITY key. It is gated by the lifecycle alone, so it
is taken between PROV_DEPLOY's OK and its restart too (DESIGN CHOICE, assumption 39). -/
def cmdQuote (f : Frame) (s : State) : State :=
  s.gated f (some .deployed) Cond.always true
    [(decide (8 ≤ f.params.length) && decide (f.params.length ≤ 64), Reply.range)]
    [(s.keys[(0 : Fin 16)].present, .plain .emptyItem),
      (s.keys[(0 : Fin 16)].cond.holds s.stage, Reply.itemStage)] false
    fun t => t.work (.sign (t.scalar 0) (sha256 (t.quoteBody f.params)) (t.quoteBody f.params))

end Sys2Proof.Machine
end

