-- ==== Sys2Proof/Machine/KeyCommands.lean ====
section
/-! DEFINITION. KEY_SIGN (R137, R138), KEY_GENERATE (R139), KEY_ERASE (R140), and the completion of a
signature and of a pair (R134). -/

namespace Sys2Proof.Machine

/-- GATE is restarted by a gated acceptance (R162). -/
def State.gateUse (s : State) (required : Bool) : State := if required then s.startGate else s

/-- KEY_SIGN (R137, R138). -/
def cmdKeySign (f : Frame) (s : State) : State :=
  let k := s.keys[keySlot f 0]
  s.gated f none Cond.always true
    [exactParams f 33, (decide (3 ≤ f.p 0) && decide (f.p 0 ≤ 15), Reply.range)]
    [(k.present, .plain .emptyItem), (k.cond.holds s.stage, Reply.itemStage),
      (!k.gateRequired || s.cred.gateOpen, .plain .gateClosed)] false
    fun t =>
      (t.gateUse k.gateRequired).work
        (.sign (t.scalar (keySlot f 0)) (slice f.params 1 32) [byteAt f.params 0])

/-- KEY_GENERATE (R139). Parameters: slot, use condition, gate_required, reserved, label length,
label. -/
def cmdKeyGenerate (f : Frame) (s : State) : State :=
  s.gated f none Cond.atOrAbove2 (zeroBytes f.params 3 1)
    [(decide (4 ≤ f.p 0) && decide (f.p 0 ≤ 15), Reply.range),
      ((Cond.ofByte (byteAt f.params 1)).valid, Reply.range),
      ((flagOf (f.p 2)).isSome, Reply.range), (decide (f.p 4 ≤ 16), Reply.range),
      exactParams f (5 + f.p 4)]
    [gateCheck s, (!s.keys[keySlot f 0].present, .plain .wrongState)] true
    fun t =>
      t.startGate.work (.generate (.owner (keySlot f 0) (Cond.ofByte (byteAt f.params 1))
        ((flagOf (f.p 2)).getD false) (slice f.params 5 (f.p 4))))

/-- KEY_ERASE (R140). -/
def cmdKeyErase (f : Frame) (s : State) : State :=
  let i := keySlot f 0
  s.gated f none Cond.atOrAbove2 true
    [exactParams f 1, (decide (4 ≤ f.p 0) && decide (f.p 0 ≤ 15), Reply.range)]
    [gateCheck s, (s.keys[i].present, .plain .emptyItem)] true
    fun t =>
      (t.startGate.request (.key i) .command (.key (KeyRec.empty i))).work
        (.store [.key i] (u8 i.val))

/-! ### Completions -/

/-- How many draws the model lets a signature make before `Config.signatureAfterBound`
(assumption 4). -/
def signTries : Nat := 64

/-- The signature is finished and the command ends OK (R134, R138, R158). -/
def State.finishSignature (s : State) : State :=
  match s.engine.state with
  | .command (.sign scalar digest before) =>
    let r := P256.signDraws scalar digest signTries s.draws
    State.endCommand { s with draws := r.2 } (.ok (before ++ r.1))
  | _ => s

/-- A PRESENT record of a generated pair (R139, R142). -/
def KeyRec.pair (draw : BitVec 256) (cond : Cond) (gate : Bool) (label : List Byte) : KeyRec :=
  let d := P256.scalarOf draw
  ⟨true, P256.publicOf d, some d, cond, gate, label⟩

/-- The pairs are finished and the command requests its KEY writes (R134, R139, R142). -/
def State.finishGeneration (s : State) : State :=
  match s.engine.state with
  | .command (.generate (.owner i cond gate label)) =>
    let k := KeyRec.pair (Config.randomScalar s.draws) cond gate label
    (State.request { s with draws := s.draws + 1 } (.key i) .command (.key k)).work
      (.store [.key i] (u8 i.val ++ k.pub))
  | .command (.generate .device) =>
    let k0 := KeyRec.pair (Config.randomScalar s.draws) (KeyRec.slotCond 0) false []
    let k3 := KeyRec.pair (Config.randomScalar (s.draws + 1)) (KeyRec.slotCond 3) false []
    (State.requestAll { s with draws := s.draws + 2 } .command
      [(.key 0, .key k0), (.key 3, .key k3)]).work (.store [.key 0, .key 3] (k0.pub ++ k3.pub))
  | _ => s

end Sys2Proof.Machine
end

