-- ==== Sys2Proof/Machine/Updates.lean ====
section
/-! DEFINITION. UPDATE_VERIFY (R101 to R104), UPDATE_ARM (R105), UPDATE_DISARM (R106), UPDATE_CONFIRM
(R108 to R111), REBOOT (R97) and the FLOOR_BURN job (R114). -/

namespace Sys2Proof.Machine

/-- The state of the running slot; `none` where the mode has none. -/
def State.runningState (s : State) : Option SlotState :=
  s.filter.mode.running.map fun x => (s.slot x).state

/-- The state of the other slot of RUN_A or RUN_B; `none` in RECOVERY and PASSTHROUGH (R101). -/
def State.otherState (s : State) : Option SlotState :=
  s.filter.mode.running.map fun x => (s.slot x.other).state

/-- The other slot of RUN_A or RUN_B. -/
def State.target (s : State) : SlotId := ((s.filter.mode.running).map SlotId.other).getD .b

/-! ### UPDATE_VERIFY -/

/-- Whether UPDATE_VERIFY takes a target in this state (R101). -/
def SlotState.verifiable : SlotState → Bool
  | .staged => true
  | .verified => true
  | .spare => true
  | .failed => true
  | .empty => false
  | .verifying => false
  | .armed => false
  | .trial => false
  | .active => false

/-- UPDATE_VERIFY (R101). -/
def cmdUpdateVerify (f : Frame) (s : State) : State :=
  s.gated f (some .deployed) Cond.atOrAbove2 true [exactParams f 0]
    [((s.otherState.map SlotState.verifiable).getD false, .plain .wrongState)] false
    fun t =>
      ((t.setSlot t.target (t.slot t.target).verifying).startVerify t.filter.geo t.target).work
        (.verify t.target)

/-- The procedure has ended: the command holds its outcome and asks for the SLOT write (R103). -/
def State.verifyEnded (s : State) (x : SlotId) (o : VerifyOutcome) : State :=
  ((s.request (.slot x) .command (.verify o)).work (.verifyStore x o)).observeAbort

/-- How UPDATE_VERIFY ends once its write has completed (R103). -/
def verifyReply (x : SlotId) : VerifyOutcome → Reply
  | .pass m => .ok ([x.toByte] ++ summaryBytes (some m))
  | .fail why => .detailed .verifyFailed why.toByte

/-! ### UPDATE_ARM, UPDATE_DISARM -/

/-- The versions of a slot in UPDATE_ARM's payload (R105). -/
def SlotRec.versionBytes (r : SlotRec) : List Byte :=
  match r.summary with
  | some m => u8 m.securityVersion ++ u32 m.imageVersion
  | none => List.replicate 5 0

/-- UPDATE_ARM (R105). -/
def cmdUpdateArm (f : Frame) (s : State) : State :=
  s.gated f none Cond.atOrAbove2 true [exactParams f 0]
    [(decide (s.runningState = some .active) && decide (s.otherState = some .verified),
      .plain .wrongState)] true
    fun t =>
      (t.changeSlot t.target ((t.slot t.target).into .armed)).endCommand
        (.ok ([t.target.toByte] ++ (t.slot t.target).versionBytes))

/-- UPDATE_DISARM (R106). -/
def cmdUpdateDisarm (f : Frame) (s : State) : State :=
  s.gated f none Cond.atOrAbove2 true [exactParams f 0]
    [(decide (s.otherState = some .armed), .plain .wrongState)] true
    fun t =>
      (t.changeSlot t.target ((t.slot t.target).into .verified)).endCommand
        (.ok [t.target.toByte])

/-! ### UPDATE_CONFIRM -/

/-- The new pending floor and revocation of a confirmed trial (R108). -/
def State.confirmFloor (s : State) : Nat :=
  match s.runningSummary with
  | some m => max s.slots.pendingFloor m.securityVersion
  | none => s.slots.pendingFloor

def State.confirmRevoke (s : State) : BitVec 2 :=
  match s.runningSummary with
  | some m => s.slots.pendingRevoke ||| revokesOther m
  | none => s.slots.pendingRevoke

/-- UPDATE_CONFIRM (R108): STOP to TRIAL, the new pending values, and the COUNTERS request. -/
def cmdUpdateConfirm (f : Frame) (s : State) : State :=
  s.gated f none Cond.atOrAbove2 true [exactParams f 0]
    [(decide (s.runningState = some .trial), .plain .wrongState)] true
    fun t =>
      (t.stopTrial.request .counters .command (.confirm t.confirmFloor t.confirmRevoke)).work
        (.confirmCounters t.confirmFloor t.confirmRevoke [])

/-- Changes a slot for the command in progress: the Slot Table and the command both ask for the
write, so that the command is told of it (R79, R109, R146). -/
def State.changeSlotTold (s : State) (x : SlotId) (r : SlotRec) : State :=
  (s.changeSlot x r).request (.slot x) .command .asIs

/-- The settling of the slots at the begin of the COUNTERS write: the other slot first, then the trial
slot, and the SLOT writes the command then awaits (R109). -/
def State.settleSlots (s : State) (floor : Nat) : State × List RecordId :=
  match s.filter.mode.running with
  | some x =>
    let new := max s.fuseCount floor
    let other := x.other
    let (t, awaited) :=
      match settleOther (s.slot other) new with
      | some r => (s.changeSlotTold other r, [RecordId.slot other])
      | none => (s, [])
    if (t.slot x).state = .trial then
      (t.changeSlotTold x ((t.slot x).into .active), awaited ++ [.slot x])
    else (t, awaited)
  | none => (s, [])

/-- UPDATE_CONFIRM's payload (R111). -/
def State.confirmPayload (s : State) : List Byte :=
  u8 s.slots.pendingFloor ++ u8 s.fuseCount ++ u8 s.slots.pendingRevoke.toNat ++
    u8 s.fuses.image.revoke.toNat ++ [(s.slot .a).state.toByte, (s.slot .b).state.toByte]

/-- FUSE_FAULT set pending once a bit of the burns has failed (R111, R114). -/
def State.faultIf (s : State) (q : BurnSeq) : State := if q.failed then s.raise .fuseFault else s

/-- The deferral flag (R113). -/
def State.setDeferral (s : State) (b : Bool) : State :=
  { s with slots := { s.slots with deferral := b } }

/-- UPDATE_CONFIRM's result after its burns (R111). -/
def State.confirmEnd (s : State) (q : BurnSeq) (deferred : Bool) : State :=
  s.endCommand ⟨if q.failed then .fuseFault else .ok, 0, s.confirmPayload, deferred⟩

/-- UPDATE_CONFIRM after its burns have gone on (R111). -/
def State.onCommandBurns (r : State × BurnStatus) : State :=
  match r.2 with
  | .busy q => (r.1.faultIf q).work (.confirmBurn q)
  | .stopped q => ((r.1.faultIf q).setDeferral true).confirmEnd q true
  | .finished q => (r.1.faultIf q).confirmEnd q false

/-- UPDATE_CONFIRM begins its burns, once no SLOT write of the settling is outstanding (R111). -/
def State.confirmNext (s : State) : List RecordId → State
  | [] => State.onCommandBurns (s.goOnBurns .command BurnSeq.start)
  | r :: rs => s.work (.confirmSlots (r :: rs))

/-! ### FLOOR_BURN -/

/-- The engine has nothing more to do for its job (R68, R69). -/
def State.endJob (s : State) : State := { s with engine := { s.engine with state := .idle } }

/-- The FLOOR_BURN job after its burns have gone on (R114). -/
def State.onJobBurns (r : State × BurnStatus) : State :=
  match r.2 with
  | .busy q => (r.1.faultIf q).jobOn (.floorBurn q)
  | .stopped q => ((r.1.faultIf q).setDeferral true).endJob
  | .finished q => (if q.failed then r.1.raise .fuseFault else r.1.raise .floorSettled).endJob

/-- The FLOOR_BURN job starts: it leaves the pending-job set and clears the deferral flag (R68, R113,
R114). -/
def State.startFloorBurn (s : State) : State :=
  let t : State := { s with engine := { s.engine with floorBurnPending := false } }
  State.onJobBurns ((t.setDeferral false).goOnBurns .job BurnSeq.start)

/-! ### REBOOT -/

/-- The platform restart that follows the response of REBOOT or PROV_DEPLOY (R97, R146). One restart can
be due: a REBOOT that ends while PROV_DEPLOY's is due replaces it (DEDUCED, assumption 27). -/
def State.restartAfter (s : State) (why : BootReason) : State :=
  { s with engine := { s.engine with restartDue := some why } }

/-- REBOOT (R97). -/
def cmdReboot (f : Frame) (s : State) : State :=
  s.gated f none Cond.always true [exactParams f 0] [] false
    fun t => (t.endCommand (.ok [])).restartAfter .reboot

end Sys2Proof.Machine
end

