-- ==== Sys2Proof/Machine/Credentials.lean ====
section
/-! DEFINITION. CRED_CHECK (R165 to R167), CRED_SET (R169, R170), CRED_GET (R171), CRED_DELETE (R172),
GATE_CLOSE (R163), and the OWNER_RESET job (R176, R177). -/

namespace Sys2Proof.Machine

/-- The credential a parameter names; read only once its range is checked. -/
def credId (f : Frame) : Fin 24 := Fin.ofNat 24 (f.p 0)

/-- A SET record of kind SECRET. -/
def Cred.isSecret : Cred → Bool
  | .secret _ _ _ _ => true
  | .verifier _ _ _ => false
  | .empty => false

/-- A SET record of kind VERIFIER. -/
def Cred.isVerifier : Cred → Bool
  | .verifier _ _ _ => true
  | .secret _ _ _ _ => false
  | .empty => false

/-- A SET record. -/
def Cred.isSet : Cred → Bool
  | .empty => false
  | .verifier _ _ _ => true
  | .secret _ _ _ _ => true

/-! ### CRED_CHECK -/

/-- CRED_CHECK's gating and first act (R165, R166). -/
def cmdCredCheck (f : Frame) (s : State) : State :=
  let id := credId f
  let c := s.cred.creds[id]
  s.gated f none Cond.atOrAbove2 true
    [(decide (f.p 0 ≤ 23), Reply.range), (decide (1 ≤ f.p 1) && decide (f.p 1 ≤ 64), Reply.range),
      exactParams f (2 + f.p 1), (!c.isSecret, Reply.range)]
    [(c.isSet, .plain .emptyItem),
      (decide (s.cred.failCount < Config.lockCount), .plain .locked),
      (decide (s.timers.penalty.state ≠ .running),
        ⟨.throttled, 0, u16 s.timers.penalty.remaining, false⟩)] true
    fun t =>
      (t.request .counters .command .credIncrement).work (.credIncrement id (f.params.drop 2))

/-- Whether a candidate matches a record's verifier (R166). A record that is no verifier any more
matches nothing (assumption 12). -/
def Cred.accepts (c : Cred) (candidate : List Byte) : Bool :=
  match c with
  | .verifier _ salt digest => decide (sha256 (salt ++ candidate) = digest)
  | .secret _ _ _ _ => false
  | .empty => false

/-- A mismatch (R167). -/
def State.credMismatch (s : State) : State :=
  let n := s.cred.failCount
  let t := if n = Config.lockCount then s.raise .locked else s.startPenalty
  t.endCommand ⟨.mismatch, 0, u8 (Config.lockCount - n) ++ u16 (penalty n), false⟩

/-- The comparison, once the increment is stored (R166, R167). -/
def State.credCompare (s : State) (id : Fin 24) (candidate : List Byte) : State :=
  if s.cred.creds[id].accepts candidate then
    (s.request .counters .command .credClear).work (.credClear id)
  else s.credMismatch

/-- The match, once the return to 0 is stored (R162, R167). -/
def State.credMatched (s : State) (id : Fin 24) : State :=
  (if id = 0 then s.openGate else s).endCommand (.ok (u8 id.val))

/-! ### CRED_SET -/

/-- A verifier with a drawn salt (R170). -/
def Cred.drawn (draw : BitVec 128) (label passphrase : List Byte) : Cred :=
  let salt := leBytes 16 draw.toNat
  .verifier label salt (sha256 (salt ++ passphrase))

/-- The record CRED_SET builds; a verifier takes a draw (R170). -/
def State.buildCred (s : State) (label : List Byte) :
    List Byte ⊕ (Cond × Bool × List Byte) → State × Cred
  | .inl pass => ({ s with draws := s.draws + 1 }, Cred.drawn (Config.randomSalt s.draws) label pass)
  | .inr (cond, gate, value) => (s, .secret label value cond gate)

/-- The presence proof is consumed (R170, R174). -/
def State.consumeProof (s : State) : State :=
  { s with
    presence := { s.presence with state := .idle }
    timers := { s.timers with presence := s.timers.presence.stop } }

/-- Whether CRED_SET of this id is the presence proof's case (R169). -/
def State.proofCase (s : State) (id : Fin 24) : Bool := decide (id = 0) && !s.cred.creds[id].isSet

/-- The effect of an accepted CRED_SET (R170). -/
def State.setCred (s : State) (id : Fin 24) (label : List Byte)
    (rest : List Byte ⊕ (Cond × Bool × List Byte)) : State :=
  let t := if s.proofCase id then s.consumeProof else s.startGate
  let (u, c) := t.buildCred label rest
  (u.request (.cred id) .command (.cred c)).work (.store [.cred id] (u8 id.val))

/-- CRED_SET (R169). -/
def cmdCredSet (f : Frame) (s : State) : State :=
  s.gated f none Cond.atOrAbove2 (zeroBytes f.params 2 1)
    [((parseCredSet f.params).isSome, Reply.range)]
    [(if s.proofCase (credId f) then decide (s.presence.state = .proven) else s.cred.gateOpen,
      .plain .gateClosed)] true
    fun t =>
      match parseCredSet f.params with
      | some (id, label, rest) => t.setCred id label rest
      | none => t

/-! ### CRED_GET -/

/-- The release condition of a SECRET. -/
def Cred.release : Cred → Cond
  | .secret _ _ cond _ => cond
  | .verifier _ _ _ => Cond.never
  | .empty => Cond.never

/-- gate_required of a SECRET. -/
def Cred.gated : Cred → Bool
  | .secret _ _ _ gate => gate
  | .verifier _ _ _ => false
  | .empty => false

/-- The value of a SECRET. -/
def Cred.value : Cred → List Byte
  | .secret _ value _ _ => value
  | .verifier _ _ _ => []
  | .empty => []

/-- CRED_GET (R171). -/
def cmdCredGet (f : Frame) (s : State) : State :=
  let c := s.cred.creds[credId f]
  s.gated f none Cond.atOrAbove2 true
    [exactParams f 1, (decide (1 ≤ f.p 0) && decide (f.p 0 ≤ 23), Reply.range),
      (!c.isVerifier, Reply.range)]
    [(c.isSet, .plain .emptyItem), (c.release.holds s.stage, Reply.itemStage),
      (!c.gated || s.cred.gateOpen, .plain .gateClosed)] false
    fun t =>
      (t.gateUse c.gated).endCommand (.ok ([byteAt f.params 0] ++ u8 c.value.length ++ c.value))

/-! ### CRED_DELETE, GATE_CLOSE -/

/-- CRED_DELETE (R172). -/
def cmdCredDelete (f : Frame) (s : State) : State :=
  let id := credId f
  s.gated f none Cond.atOrAbove2 true
    [exactParams f 1, (decide (1 ≤ f.p 0) && decide (f.p 0 ≤ 23), Reply.range)]
    [gateCheck s, (s.cred.creds[id].isSet, .plain .emptyItem)] true
    fun t =>
      (t.startGate.request (.cred id) .command (.cred .empty)).work
        (.store [.cred id] (u8 id.val))

/-- GATE_CLOSE (R163, R173). -/
def cmdGateClose (f : Frame) (s : State) : State :=
  s.gated f none Cond.always true [exactParams f 0] [] false
    fun t => t.shutGate.endCommand (.ok (flagByte t.cred.gateOpen))

/-! ### The owner reset -/

/-- The owner key slots, in slot order (Table 8-1). -/
def ownerSlots : List (Fin 16) := (List.finRange 16).filter fun i => decide (4 ≤ i.val)

/-- Phase 1's writes, in the order of R176. -/
def State.wipeWrites (s : State) : List (RecordId × Change) :=
  ((List.finRange 24).filter fun i => s.cred.creds[i].isSet).map (fun i => (.cred i, .cred .empty)) ++
    (ownerSlots.filter fun i => s.keys[i].present).map fun i => (.key i, .key (KeyRec.empty i))

/-- Phase 3: the OWNER_RESET record, the event, the end (R154, R176). -/
def State.ownerResetEnd (s : State) : State :=
  ((s.logAppend .ownerReset s.stage zeroDigest []).raise .ownerResetDone).endJob

/-- Phase 2; a rerun whose flag a kept write has already cleared goes on to phase 3 (R176, R177). -/
def State.wipeCounters (s : State) : State :=
  if s.cred.wipeUnfinished then (s.request .counters .job .ownerReset).jobOn .wipeCounters
  else s.ownerResetEnd

/-- Phase 1 goes on while writes are awaited (R176). -/
def State.wipeNext (s : State) : List RecordId → State
  | [] => s.wipeCounters
  | r :: rs => s.jobOn (.wipe (r :: rs))

/-- The OWNER_RESET job starts (R68, R176). -/
def State.startOwnerReset (s : State) : State :=
  let t : State := { s with engine := { s.engine with ownerResetPending := false } }
  let u := t.closeGate
  let v : State := { u with cred := { u.cred with wipeUnfinished := true } }
  (v.requestAll .job v.wipeWrites).wipeNext (v.wipeWrites.map Prod.fst)

end Sys2Proof.Machine
end

