-- ==== Sys2Proof/Machine/Provisioning.lean ====
section
/-! DEFINITION. EVENTS_ACK (R183), EVENTS_ENABLE (R180), and the provisioning commands PROV_CONFIG
(R141), PROV_IDENTITY (R142), PROV_AUTHORITY (R143), PROV_CERT (R144) and PROV_DEPLOY (R145, R146). -/

namespace Sys2Proof.Machine

/-! ### EVENTS_ACK, EVENTS_ENABLE -/

/-- The Event Unit after an acknowledgement (R183). -/
def EventUnit.ack (e : EventUnit) (mask : BitVec 11) : EventUnit :=
  { e with
    pending := e.pending &&& ~~~mask
    violations := if mask.getLsbD Cause.violation.bit then [] else e.violations }

/-- EVENTS_ACK (R183). -/
def cmdEventsAck (f : Frame) (s : State) : State :=
  s.gated f none Cond.always true [exactParams f 2] [] false
    fun t =>
      let e := t.events.ack (causeSet (leAt f.params 0 2))
      State.endCommand { t with events := e } (.ok (u16 e.pending.toNat))

/-- EVENTS_ENABLE (R180). -/
def cmdEventsEnable (f : Frame) (s : State) : State :=
  s.gated f none Cond.always true [exactParams f 2] [] false
    fun t =>
      let e := causeSet (leAt f.params 0 2)
      State.endCommand { t with events := { t.events with enabled := e } } (.ok (u16 e.toNat))

/-! ### PROV_CONFIG, PROV_IDENTITY, PROV_AUTHORITY, PROV_CERT -/

/-- A command asks for one write and ends OK with a payload when it completes (R135). -/
def State.storeOne (s : State) (rec : RecordId) (c : Change) (payload : List Byte) : State :=
  (s.request rec .command c).work (.store [rec] payload)

/-- PROV_CONFIG (R141). -/
def cmdProvConfig (f : Frame) (s : State) : State :=
  s.gated f (some .factory) Cond.always (zeroBytes f.params 28 4)
    [exactParams f 32, ((parseConfig f.params).valid, Reply.range)] [] true
    fun t => t.storeOne .config (.config (parseConfig f.params)) []

/-- PROV_IDENTITY (R142). -/
def cmdProvIdentity (f : Frame) (s : State) : State :=
  s.gated f (some .factory) Cond.always true [exactParams f 0] [] true
    fun t => t.work (.generate .device)

/-- PROV_AUTHORITY (R143). -/
def cmdProvAuthority (f : Frame) (s : State) : State :=
  let pub := slice f.params 4 64
  let i := authoritySlot (f.p 0)
  s.gated f (some .factory) Cond.always (zeroBytes f.params 1 3)
    [exactParams f 68, (decide (f.p 0 ≤ 1), Reply.range), (P256.validKey pub, Reply.range)] [] true
    fun t => t.storeOne (.key i) (.key ⟨true, pub, none, Cond.never, false, []⟩) (u8 i.val)

/-- PROV_CERT (R144); the certificate's length is sent in two bytes (assumption 13). -/
def cmdProvCert (f : Frame) (s : State) : State :=
  s.gated f (some .factory) Cond.always true
    [(decide (1 ≤ f.params.length) && decide (f.params.length ≤ 1536), Reply.range)] [] true
    fun t => t.storeOne .cert (.cert f.params) (u16 f.params.length)

/-! ### PROV_DEPLOY -/

/-- Whether a stored KEY record is PRESENT. -/
def keyStored : Option KeyRec → Bool
  | some k => k.present
  | none => false

/-- The items of R145: the MISSING_ITEM code and whether the Record Store holds the item. -/
def Store.items (t : Store) : List (Byte × Bool) :=
  [(1, t.config.isSome), (2, keyStored t.keys[(0 : Fin 16)]), (3, keyStored t.keys[(3 : Fin 16)]),
    (4, keyStored t.keys[(1 : Fin 16)]), (5, t.cert.isSome)]

/-- The codes of the absent items (R145). -/
def Store.missing (t : Store) : List Byte := (t.items.filter fun e => !e.2).map Prod.fst

/-- The LIFECYCLE burn has ended COMPLETE: phase 2 (R146). -/
def State.deployBurned (s : State) (bit : Nat) : State :=
  ((s.changeSlotTold .a SlotRec.staged).changeSlotTold .b SlotRec.staged).work
    (.deploySlots bit [.slot .a, .slot .b])

/-- Phase 1 tries a LIFECYCLE bit (R122, R146). -/
def State.deployTry (s : State) (bit : Nat) : State :=
  match s.requestBurn ⟨.lifecycle, bit⟩ .command with
  | (t, none) => t.work (.deployBurn bit false)
  | (t, some .burned) => t.deployBurned bit
  | (t, some .supplyStop) => t.work (.deployBurn bit true)
  | (t, some .failed) => t.work (.deployBurn bit true)

/-- A LIFECYCLE bit burn of PROV_DEPLOY has ended (R122, R146). -/
def State.onDeployBurn (s : State) (bit : Nat) : BurnOutcome → State
  | .burned => s.deployBurned bit
  | .supplyStop => s.work (.deployBurn bit true)
  | .failed =>
    if bit < 3 then s.deployTry (bit + 1)
    else (s.raise .fuseFault).endCommand (.plain .fuseFault)

/-- PROV_DEPLOY (R145, R146). -/
def cmdProvDeploy (f : Frame) (s : State) : State :=
  let missing := s.records.store.missing
  s.gated f (some .factory) Cond.always true [exactParams f 0]
    [(missing.isEmpty, ⟨.missingItem, 0, u8 missing.length ++ missing, false⟩)] true
    fun t => t.deployTry 0

/-- PROV_DEPLOY ends OK and the platform restart is due (R146). -/
def State.deployEnd (s : State) (bit : Nat) : State :=
  (s.endCommand (.ok (u8 bit))).restartAfter .deploy

end Sys2Proof.Machine
end

