-- ==== Sys2Proof/Machine/Engine.lean ====
section
/-! DEFINITION. The Service Engine: the command a code names (R72, Table 4-3), the taking and holding of
frames (R66), the arbitration (R68), and the frame of every command of the block. -/

namespace Sys2Proof.Machine

/-- The taken frame's command by its code; a code that is not in Table 4-3 is refused
UNKNOWN_COMMAND (R72). -/
def dispatch (f : Frame) (s : State) : State :=
  match f.code.toNat with
  | 0x01 => cmdIdentify f s
  | 0x02 => cmdSlotStatus f s
  | 0x03 => cmdPolicyRead f s
  | 0x04 => cmdLogRead f s
  | 0x05 => cmdCertRead f s
  | 0x06 => cmdKeyPublic f s
  | 0x07 => cmdCredList f s
  | 0x08 => cmdEventsRead f s
  | 0x10 => cmdStageAdvance f s
  | 0x11 => cmdMeasureExtend f s
  | 0x12 => cmdPolicyTighten f s
  | 0x13 => cmdQuote f s
  | 0x20 => cmdUpdateVerify f s
  | 0x21 => cmdUpdateArm f s
  | 0x22 => cmdUpdateDisarm f s
  | 0x23 => cmdUpdateConfirm f s
  | 0x24 => cmdReboot f s
  | 0x30 => cmdKeySign f s
  | 0x31 => cmdKeyGenerate f s
  | 0x32 => cmdKeyErase f s
  | 0x40 => cmdCredCheck f s
  | 0x41 => cmdCredSet f s
  | 0x42 => cmdCredGet f s
  | 0x43 => cmdCredDelete f s
  | 0x44 => cmdGateClose f s
  | 0x50 => cmdEventsAck f s
  | 0x51 => cmdEventsEnable f s
  | 0x60 => cmdProvConfig f s
  | 0x61 => cmdProvIdentity f s
  | 0x62 => cmdProvAuthority f s
  | 0x63 => cmdProvCert f s
  | 0x64 => cmdProvDeploy f s
  | _ => s.endCommand (.plain .unknownCommand)

/-- The response area replaced. -/
def State.setResponse (s : State) (r : Response) : State :=
  { s with aperture := { s.aperture with resp := r } }

/-- A completed frame taken by an idle engine (R64 to R66). -/
def State.takeFrame (s : State) (f : Frame) : State :=
  dispatch f (s.setResponse (Response.running f s.aperture.resp.lost 0))

/-- A completed frame held during an internal job; the response before it is kept aside (R64, R66). -/
def State.holdFrame (s : State) (f : Frame) : State :=
  { s with aperture := { s.aperture with
      resp := Response.queued f s.aperture.resp.lost
      aside := some s.aperture.resp
      held := some f } }

/-- A refused frame leaves only its count (R66). -/
def State.refuseFrame (s : State) : State := s.setResponse s.aperture.resp.countRefused

/-- A completed frame is disposed of (R66). -/
def State.dispose (s : State) (f : Frame) : State :=
  match s.engine.state with
  | .idle => s.takeFrame f
  | .job _ => if s.aperture.resp.state = .queued then s.refuseFrame else s.holdFrame f
  | .command _ => s.refuseFrame

/-- The held frame is taken; the kept-aside response is discarded, and the frame's refused count and
PREVIOUS_UNREAD go with it (R64 to R66, R68). -/
def State.takeHeld (s : State) (f : Frame) : State :=
  let r := s.aperture.resp
  dispatch f { s with aperture := { s.aperture with
    resp := Response.running f r.previousUnread r.refused, aside := none, held := none } }

/-- One look of the arbiter: an idle engine starts OWNER_RESET, else FLOOR_BURN, else takes a held
frame (R68). -/
def State.arbitrate (s : State) : State :=
  match s.engine.state with
  | .idle =>
    if s.engine.ownerResetPending then s.startOwnerReset
    else if s.engine.floorBurnPending then s.startFloorBurn
    else
      match s.aperture.held with
      | some f => s.takeHeld f
      | none => s
  | .command _ => s
  | .job _ => s

/-- The arbiter until the engine is at work or has nothing to start: at most two jobs and one held
frame can start and end at once (R68). -/
def State.settled (s : State) : State := s.arbitrate.arbitrate.arbitrate.arbitrate

/-- The frame of every command of the block but POWER_ON: an unpowered part does nothing; a powered one
takes the command and its engine looks for work (R68, assumption 1). -/
def State.perform (s : State) (body : State → State) : Host.Outcome State Fault Refusal :=
  .next (if s.powered then (body s.clearOut).settled else s.clearOut)

/-! ### The service commands' rows -/

/-- A FRAME_BAD report (R63, R65, R67): the code and the tag are those of the discarded frame. The
refused-frame count 0 of the DONE response it writes is the model's choice, for R63 gives none and R66
starts a count at 0 only for a frame taken or held: DESIGN CHOICE (assumption 41). -/
def State.frameBad (s : State) (detail code tag : Byte) : State :=
  match s.aperture.resp.state with
  | .queued => s.refuseFrame
  | .running => s.refuseFrame
  | .empty | .done =>
    State.raise (s.setResponse { Response.empty with
      state := .done, code := code, tag := tag, result := .frameBad, detail := detail
      previousUnread := s.aperture.resp.lost, unread := true }) .serviceDone

/-- The frame in reception is discarded (R61, R63, R70). -/
def State.dropReception (s : State) : State :=
  { s with aperture := { s.aperture with rx := none } }

/-- The largest number of parameter bytes of a frame: 2048 less the header (R62). -/
def paramsMax : Nat := Config.requestSize - 8

/-- A whole frame reaches the aperture as one program at offset 0 (R61, R62, R66, assumption 2): it
replaces a frame in reception; too long a one is FRAME_BAD. During S0 nothing arrives (R19). -/
def State.submit (s : State) (code : Byte) (r : Request) : State :=
  if s.stage = .s0 then s
  else if r.params.length ≤ paramsMax then s.dropReception.dispose (requestFrame code r)
  else s.dropReception.frameBad 1 code r.tag

end Sys2Proof.Machine
end

