-- ==== Sys2Proof/Machine/Aperture.lean ====
section
/-! DEFINITION. The Service Aperture: reception of a frame (R61 to R63), the abort (R70, R71), the
sorting of the writes that reach it (R60). -/

namespace Sys2Proof.Machine

/-- A frame's bytes held so far (R61). -/
def State.keepReception (s : State) (bytes : List Byte) : State :=
  { s with aperture := { s.aperture with rx := some bytes } }

/-- The code and the tag of a frame whose first 8 bytes have been received, else 0 and 0 (R63). -/
def headerOf (bytes : List Byte) : Byte × Byte :=
  if bytes.length < 8 then (0, 0) else (byteAt bytes 2, byteAt bytes 3)

/-- The frame in reception fails (R63). -/
def State.failReception (s : State) (detail : Byte) (bytes : List Byte) : State :=
  s.dropReception.frameBad detail (headerOf bytes).1 (headerOf bytes).2

/-- A program's bytes are placed after those held (R61, R62). -/
def State.receive (s : State) (before data : List Byte) : State :=
  let bytes := (before ++ data).take Config.requestSize
  let len := leAt bytes 0 2
  if bytes.length < 8 then s.keepReception bytes
  else if len < 8 ∨ Config.requestSize < len then s.failReception 1 bytes
  else if bytes.length < len then s.keepReception bytes
  else s.dropReception.dispose (parseFrame (bytes.take len))

/-- A frame program by its start offset and the receive position (R61, R63). -/
def State.frameProgram (s : State) (off : Nat) (data : List Byte) : State :=
  if off = 0 then s.receive [] data
  else
    match s.aperture.rx with
    | some before => if off = before.length then s.receive before data else s.failReception 2 before
    | none => s.failReception 2 []

/-- The abort (R70). The abort request is observed at once where the command stands at an abort point
of a supply wait (R71). -/
def State.abort (s : State) : State :=
  let t := s.dropReception
  match t.aperture.resp.state with
  | .empty => t
  | .queued =>
    { t with aperture := { t.aperture with
        resp := t.aperture.aside.getD Response.empty, aside := none, held := none } }
  | .running => State.observeAbort { t with engine := { t.engine with abortRequest := true } }
  | .done => t.setResponse Response.empty

/-- DENIED set (R22). -/
def State.setDenied (s : State) : State := { s with up := { s.up with denied := true } }

/-- A stray write (R60). That it sets DENIED and hands its violation in PASSTHROUGH too, where R46 and R57
record no violation for PROGRAM traffic and R60 names no mode, is the model's choice: DESIGN CHOICE
(assumption 40). -/
def State.strayWrite (s : State) (p : Snapshot) (addr : Nat) : State :=
  s.setDenied.violate ⟨addr, .program, p.stage, .apertureStray⟩

end Sys2Proof.Machine
end

