-- ==== Sys2Proof/Machine/UpstreamPort.lean ====
section
/-! DEFINITION. The Upstream Port and the Path Filter's handling of transactions: READ and READ_END
(R30, R39, R48), the write units (R21, R40, R47, R49, R51), the port's own answers (R20, R24 to R29), and
ARRIVAL (R17). -/

namespace Sys2Proof.Machine

/-! ### Arrivals and snapshots -/

/-- The snapshot of the transaction of this class and address: the one of its ARRIVAL, or one taken
now (R17). -/
def State.snapFor (s : State) (cls : TxClass) (addr : Nat) : Snapshot :=
  match s.up.arrived with
  | some a => if a.cls = cls ∧ a.addr = addr then a.snap else s.snapshot
  | none => s.snapshot

/-- The transaction is over: no arrival stands (R17). -/
def State.released (s : State) : State := { s with up := { s.up with arrived := none } }

/-- A transaction that is none of the READ's bytes: its snapshot is found, the arrival is used up, and
a transaction that arrived in S0 changes nothing more (R17, R19). -/
def State.transact (s : State) (cls : TxClass) (addr : Nat) (inS0 : State → State)
    (act : Snapshot → State → State) : State :=
  let p := s.snapFor cls addr
  if p.stage = .s0 then inS0 s.released else act p s.released

/-- ARRIVAL (R17). -/
def execArrival (cmd : Byte) (addr : BitVec 32) (s : State) : Host.Outcome State Fault Refusal :=
  s.perform fun t =>
    { t with up := { t.up with
        arrived := some ⟨upstreamClass cmd, carriedAddress cmd addr, t.snapshot⟩ } }

/-! ### READ -/

/-- The flash byte for this byte of a READ: the next the sender supplies, else what the undriven bus
gives (assumption 6). -/
def flashByte (sent : Nat) : List Byte → Byte
  | [] => Config.undrivenBus sent
  | b :: _ => b

/-- A READ with one more byte sent, and where its downstream read stands. -/
def OpenRead.sentOne (r : OpenRead) (next : Option Nat) : OpenRead :=
  { r with sent := r.sent + 1, nextPhys := next }

/-- The part with one byte of a READ clocked out, the READ, and the flash bytes left. -/
abbrev ReadStep := State × OpenRead × List Byte

/-- One byte sent without the flash. -/
def State.sendFill (s : State) (r : OpenRead) (flash : List Byte) (b : Byte) : ReadStep :=
  (s.toSoc [b], r.sentOne none, flash)

/-- The unread flag is cleared by the header's first byte while the response is DONE (R65). -/
def State.readHeader (s : State) (off : Nat) : State :=
  if off = Config.responseBase ∧ s.aperture.resp.state = .done then
    s.setResponse { s.aperture.resp with unread := false }
  else s

/-- One byte of a READ (R19, R23, R37 to R39, R48, R59). -/
def State.readByte (s : State) (r : OpenRead) (flash : List Byte) : ReadStep :=
  let p := r.snap
  let l := p.geo.logical (r.addr + r.sent)
  if p.stage = .s0 then s.sendFill r flash 0xff
  else if p.geo.inAperture l then
    (s.readHeader (l - p.geo.apBase)).sendFill r flash (s.apertureByte (l - p.geo.apBase))
  else if p.busy then s.sendFill r flash 0xff
  else
    match translate p.mode p.geo l with
    | none => s.sendFill r flash 0xff
    | some phys =>
      let t := if r.nextPhys = some phys then s.takePort else s.takePort.toFlash [.readFrom phys]
      let r1 := { r.sentOne (some (phys + 1)) with holds := true }
      match p.judge .read phys with
      | none => (t.toSoc [flashByte r.sent flash], r1, flash.tail)
      | some (fill, d) =>
        ((if r.violated then t else t.violate ⟨l, .read, p.stage, d⟩).toSoc [fill.toByte],
          { r1 with violated := true }, flash.tail)

/-- The bytes of a READ, one after another. -/
def readBytes : Nat → State → OpenRead → List Byte → State × OpenRead
  | 0, s, r, _ => (s, r)
  | n + 1, s, r, flash =>
    let step := s.readByte r flash
    readBytes n step.1 step.2.1 step.2.2

/-- The READs in progress replaced. -/
def State.setReads (s : State) (reads : List OpenRead) : State :=
  { s with up := { s.up with reads := reads } }

/-- A READ that arrives, or goes on, with `count` bytes clocked out. -/
def State.clockRead (s : State) (others : List OpenRead) (r : OpenRead) (count : Nat)
    (flash : List Byte) : State :=
  let done := readBytes count s r flash
  done.1.setReads (others ++ [done.2])

/-- READ (R39): it arrives, or the latest READ in progress goes on (assumption 5). -/
def State.read (s : State) (part : ReadPart) (count : Nat) (flash : List Byte) : State :=
  match part with
  | .start addr =>
    let a := addressValue addr
    s.released.clockRead s.up.reads ⟨a, 0, s.snapFor .read a, false, none, false⟩ count flash
  | .more =>
    match s.up.reads.getLast? with
    | some r => s.clockRead s.up.reads.dropLast r count flash
    | none => s

/-- READ. -/
def execRead (part : ReadPart) (count : Nat) (flash : List Byte) (s : State) :
    Host.Outcome State Fault Refusal :=
  s.perform fun t => t.read part count flash

/-- READ_END (R30, R33): the oldest READ in progress ends; if it held the port and no other READ does,
the port becomes free. -/
def State.endRead (s : State) : State :=
  match s.up.reads with
  | [] => s
  | r :: rest =>
    let t := s.setReads rest
    if r.holds && decide (t.down.port = .carryingSoc) && !rest.any (fun q => q.holds) then t.freePort
    else t

def execReadEnd (s : State) : Host.Outcome State Fault Refusal := s.perform State.endRead

/-! ### Write units -/

/-- WEL (R20). -/
def State.setWel (s : State) (b : Bool) : State := { s with up := { s.up with wel := b } }

/-- A unit dropped whole (R49). -/
def State.dropUnit (s : State) (p : Snapshot) (cls : TxClass) (addr : Nat) (d : Decider) : State :=
  s.setDenied.violate ⟨addr, cls, p.stage, d⟩

/-- A forwarded write makes its slot STAGED (R51), outside PASSTHROUGH (R46). -/
def State.stageSlot (s : State) (m : Mode) (g : Geometry) (phys : Nat) : State :=
  match m with
  | .passthrough => s
  | _ =>
    match slotOfPhys g phys with
    | some x =>
      match (s.slot x).state with
      | .empty | .verified | .spare | .failed => s.changeSlot x SlotRec.staged
      | .staged | .verifying | .armed | .trial | .active => s
    | none => s

/-- The first denied byte of a unit of `n` bytes (R40, R49); in PASSTHROUGH every byte passes (R46). -/
def firstDenied (p : Snapshot) (phys : Nat) (covers : Nat → Bool) (n : Nat) :
    Option (Nat × Decider) :=
  match p.mode with
  | .passthrough => none
  | _ => firstDeniedFrom p phys covers n 0

/-- A write unit outside the aperture (R40, R47, R49): `base` is its aligned logical address, `size` its
extent, `covers` the offsets it writes, `first` the lowest of them, `op` what is forwarded. -/
def State.judgeUnit (s : State) (p : Snapshot) (cls : TxClass) (base size first : Nat)
    (covers : Nat → Bool) (op : Nat → DownOp) : State :=
  match translate p.mode p.geo base with
  | none => s.dropUnit p cls (base + first) .unmapped
  | some phys =>
    if slotLocks p.mode p.geo p.slot phys then s.dropUnit p cls (base + first) .slotLock
    else
      match firstDenied p phys covers size with
      | some (i, d) => s.dropUnit p cls (base + i) d
      | none =>
        if slotLocks p.mode p.geo (fun x => (s.slot x).state) phys then
          s.dropUnit p cls (base + first) .slotLock
        else (s.forward (op phys)).stageSlot p.mode p.geo phys

/-- Whether a write is judged: WEL set and the snapshot not busy (R21). -/
def State.judged (s : State) (p : Snapshot) : Bool := s.up.wel && !p.busy

/-- PROGRAM's judgement (R21, R40, R60). -/
def State.programUnit (s : State) (p : Snapshot) (a : Nat) (data : List Byte) : State :=
  let l := p.geo.logical a
  let base := l - l % 256
  let image := pageImage l data
  if p.geo.inAperture l then
    if l - p.geo.apBase < Config.responseBase then s.frameProgram (l - p.geo.apBase) data
    else s.strayWrite p l
  else
    s.judgeUnit p .program base 256 ((image.head?.map Prod.fst).getD 0)
      (fun i => image.any fun e => e.1 = i) (fun phys => .program phys image)

/-- PROGRAM (R21): the bits of an incomplete last byte are discarded with it. -/
def execProgram (addr : Address) (data : List Byte) (_tailBits : Nat) (s : State) :
    Host.Outcome State Fault Refusal :=
  s.perform fun t =>
    t.transact .program (addressValue addr) id fun p u =>
      if data ≠ [] ∧ u.judged p then (u.programUnit p (addressValue addr) data).setWel false else u

/-- ERASE_4K's judgement (R40, R60, R70). -/
def State.erase4kUnit (s : State) (p : Snapshot) (a : Nat) : State :=
  let l := p.geo.logical a
  let base := l - l % 4096
  if p.geo.inAperture l then if base = p.geo.apBase then s.abort else s
  else s.judgeUnit p .erase4k base 4096 0 (fun _ => true) .erase4k

/-- ERASE_4K (R21, R40). -/
def execErase4k (addr : Address) (s : State) : Host.Outcome State Fault Refusal :=
  s.perform fun t =>
    t.transact .erase4k (addressValue addr) id fun p u =>
      if u.judged p then (u.erase4kUnit p (addressValue addr)).setWel false else u

/-- ERASE_64K's judgement (R40, R60, R70). -/
def State.erase64kUnit (s : State) (p : Snapshot) (a : Nat) : State :=
  let l := p.geo.logical a
  let base := l - l % 65536
  if p.geo.inAperture l then s.abort
  else s.judgeUnit p .erase64k base 65536 0 (fun _ => true) .erase64k

/-- ERASE_64K (R21, R40). -/
def execErase64k (addr : Address) (s : State) : Host.Outcome State Fault Refusal :=
  s.perform fun t =>
    t.transact .erase64k (addressValue addr) id fun p u =>
      if u.judged p then (u.erase64kUnit p (addressValue addr)).setWel false else u

/-! ### The port's own answers -/

/-- ERASE_CHIP (R27). -/
def execEraseChip (s : State) : Host.Outcome State Fault Refusal :=
  s.perform fun t =>
    t.transact .eraseChip 0 id fun p u =>
      if u.judged p then
        (match u.life with
          | .factory => u.forward .eraseChip
          | .deployed => u.dropUnit p .eraseChip 0 .chipErase).setWel false
      else u

/-- WREN (R20, R22). -/
def execWren (s : State) : Host.Outcome State Fault Refusal :=
  s.perform fun t =>
    t.transact .wren 0 id fun p u =>
      if p.busy then u else { u with up := { u.up with wel := true, denied := false } }

/-- WRDI (R20). -/
def execWrdi (s : State) : Host.Outcome State Fault Refusal :=
  s.perform fun t => t.transact .wrdi 0 id fun _ u => u.setWel false

/-- The transaction class of a STATUS_READ. -/
def StatusByte.cls : StatusByte → TxClass
  | .one => .statusRead1
  | .two => .statusRead2

/-- STATUS_READ (R24). -/
def execStatusRead (sel : StatusByte) (count : Nat) (s : State) :
    Host.Outcome State Fault Refusal :=
  s.perform fun t =>
    t.transact (StatusByte.cls sel) 0 (fun u => u.toSoc (List.replicate count 0xff)) fun _ u =>
      u.toSoc (List.replicate count (u.statusByte sel))

/-- STATUS_WRITE (R26). -/
def execStatusWrite (data : List Byte) (s : State) : Host.Outcome State Fault Refusal :=
  s.perform fun t =>
    t.transact .statusWrite 0 id fun p u =>
      match u.life with
      | .factory => if u.judged p then (u.forward (.statusWrite data)).setWel false else u
      | .deployed => (u.violate ⟨0, .statusWrite, p.stage, .statusWrite⟩).setWel false

/-- IDENT (R25). -/
def execIdent (count : Nat) (s : State) : Host.Outcome State Fault Refusal :=
  s.perform fun t =>
    t.transact .ident 0 (fun u => u.toSoc (List.replicate count 0xff)) fun _ u =>
      u.toSoc (([u.down.id0, u.down.id1, u.down.id2] ++ List.replicate count 0xff).take count)

/-- FLASH_RESET (R28). -/
def execFlashReset (s : State) : Host.Outcome State Fault Refusal :=
  s.perform fun t =>
    t.transact .flashReset 0 id fun _ u => { u with up := { u.up with wel := false, denied := false } }

/-- OTHER (R29): what the SoC sends after the command byte is discarded. -/
def execOther (_cmd : Byte) (_data : List Byte) (count : Nat) (s : State) :
    Host.Outcome State Fault Refusal :=
  s.perform fun t =>
    t.transact .other 0 (fun u => u.toSoc (List.replicate count 0xff)) fun p u =>
      (u.toSoc (List.replicate count 0xff)).violate ⟨0, .other, p.stage, .otherCommand⟩

end Sys2Proof.Machine
end

