-- ==== Sys2Proof/Machine/Downstream.lean ====
section
/-! DEFINITION. FLASH_FINISHED (R30), CHUNK_COMPLETE (R31, R85, R95, R102, R103), SIGNATURE_COMPLETE and
GENERATION_COMPLETE (R134). -/

namespace Sys2Proof.Machine

/-- A poll of the flash's own status finds it no longer busy: the port leaves FLASH_BUSY (R30). -/
def State.pollFinished (s : State) : State := (s.toFlash [.statusPoll]).freePort

/-- FLASH_FINISHED (R30, R32): the port's poll finds the flash finished, the port leaves FLASH_BUSY, and a
waiting chunk goes on. The polls before it, which find the flash busy, change nothing and are not rows (DESIGN
CHOICE, assumption 45). -/
def execFlashFinished (s : State) : Host.Outcome State Fault Refusal :=
  s.perform fun t => if t.down.port = .flashBusy then t.pollFinished else t

/-- UPDATE_VERIFY after a completed chunk: the abort request is looked at before anything else
(R102 to R104). -/
def State.commandChunk (s : State) (x : SlotId) (bytes : List Byte) : State :=
  if s.engine.abortRequest then s.abortCommand (.verify x)
  else
    match s.feedVerify s.filter.geo bytes with
    | (t, .going) => t
    | (t, .ended o) => t.verifyEnded x o

/-- A completed chunk's bytes go to the work that asked for them (R31). -/
def State.chunkDone (s : State) (bytes : List Byte) : State :=
  match s.engine.state with
  | .command (.verify x) => s.commandChunk x bytes
  | _ => s.flowChunk bytes

/-- Bytes received for the chunk in flight: short of its length they are kept (R32, assumption 7); with
its length the chunk is complete, its state NONE and the port IDLE (R31). -/
def State.chunkBytes (s : State) (data : List Byte) : State :=
  match s.down.chunk.st with
  | .none => s
  | .waiting => s
  | .inFlight =>
    let c := s.down.chunk
    let got := c.got ++ data
    if got.length < c.length then
      { s with down := { s.down with chunk := { c with got := got } } }
    else
      State.chunkDone { s with down := { s.down with port := .idle, chunk := Chunk.absent } }
        (got.take c.length)

/-- CHUNK_COMPLETE. -/
def execChunkComplete (data : List Byte) (s : State) : Host.Outcome State Fault Refusal :=
  s.perform fun t => t.chunkBytes data

/-- SIGNATURE_COMPLETE (R134). -/
def execSignatureComplete (s : State) : Host.Outcome State Fault Refusal :=
  s.perform State.finishSignature

/-- GENERATION_COMPLETE (R134); the write it asks for may have to wait for the supply, which is an
abort point (R71, R135). -/
def execGenerationComplete (s : State) : Host.Outcome State Fault Refusal :=
  s.perform fun t => t.finishGeneration.observeAbort

end Sys2Proof.Machine
end

