-- ==== Sys2Proof/Machine/RecordEvents.lean ====
section
/-! DEFINITION. RECORD_WRITE_BEGIN and RECORD_WRITE_COMPLETE (R125): what a begin applies in the working
copies, the content it takes, and how a completion lets the command or the job go on. -/

namespace Sys2Proof.Machine

/-! ### The begin -/

/-- The failure count replaced (R164). -/
def State.setFails (s : State) (n : Nat) : State := { s with cred := { s.cred with failCount := n } }

/-- The owner reset's change of the COUNTERS record (R176). -/
def State.applyOwnerReset (s : State) : State :=
  { s with
    cred := { s.cred with
      failCount := 0
      ownerEpoch := min (s.cred.ownerEpoch + 1) 4294967295
      wipeUnfinished := false }
    timers := { s.timers with penalty := s.timers.penalty.stop } }

/-- UPDATE_CONFIRM settles the slots, and then awaits their writes (R109, R111). -/
def State.applyConfirm (s : State) (floor : Nat) : State :=
  let (t, awaited) := s.settleSlots floor
  match t.engine.state with
  | .command (.confirmCounters fl rv _) => t.work (.confirmCounters fl rv awaited)
  | _ => t

/-- What a requester applies at the begin of its record's write (R103, R109, R125, R135, R164, R176). -/
def State.applyChange (s : State) (rec : RecordId) (c : Change) : State :=
  match c with
  | .asIs => s
  | .verify o =>
    match rec with
    | .slot x => s.setSlot x (SlotRec.outcome o)
    | _ => s
  | .confirm floor _ => s.applyConfirm floor
  | .credIncrement => s.setFails (min Config.lockCount (s.cred.failCount + 1))
  | .credClear => s.setFails 0
  | .ownerReset => s.applyOwnerReset
  | .key k =>
    match rec with
    | .key i => { s with keys := s.keys.set i k }
    | _ => s
  | .cred c =>
    match rec with
    | .cred i => { s with cred := { s.cred with creds := s.cred.creds.set i c } }
    | _ => s
  | .config c => { s with config := some c }
  | .cert bytes => { s with cert := some bytes }

/-- The pending values a COUNTERS write stores: those of an UPDATE_CONFIRM in the set, else the working
copy's (R125). -/
def pendingOf (rs : List Requester) (floor : Nat) (revoke : BitVec 2) : Nat × BitVec 2 :=
  match rs with
  | [] => (floor, revoke)
  | r :: rest =>
    match r.change with
    | .confirm f v => (f, v)
    | _ => pendingOf rest floor revoke

/-- The COUNTERS content (Table 7-2, R125). -/
def State.countersContent (s : State) (rs : List Requester) : CountersRec :=
  let p := pendingOf rs s.slots.pendingFloor s.slots.pendingRevoke
  ⟨s.slots.bootCounter, s.slots.lastReason, p.1, p.2, s.cred.ownerEpoch, s.cred.failCount⟩

/-- The content a write takes from the owner's working copy (R125). -/
def State.content (s : State) (rec : RecordId) (rs : List Requester) : RecContent :=
  match rec with
  | .config => .config s.configOrDefault
  | .key i => .key s.keys[i]
  | .cred i => .cred s.cred.creds[i]
  | .slot x => .slot (s.slot x).stored
  | .counters => .counters (s.countersContent rs)
  | .cert => .cert (s.cert.getD [])

/-- The head entry begins: it leaves the list, its requesters apply their changes in the order of
request, and the content is taken (R125, R164). -/
def State.beginWrite (s : State) (e : Entry) (rest : List Entry) : State :=
  let t : State := { s with records := { s.records with waiting := rest } }
  let u := e.requesters.foldl (fun v r => v.applyChange e.record r.change) t
  { u with records := { u.records with
      writing := some ⟨e.record, e.requesters, u.content e.record e.requesters⟩ } }

/-- The begin under the conditions of R125: no write in progress, an entry waiting, the supply NORMAL. -/
def State.recordBegin (s : State) : State :=
  match s.records.writing, s.records.waiting, s.supply.normal with
  | none, e :: rest, true => s.beginWrite e rest
  | _, _, _ => s

/-- RECORD_WRITE_BEGIN. -/
def execRecordWriteBegin (s : State) : Host.Outcome State Fault Refusal := s.perform State.recordBegin

/-! ### The completion -/

/-- The Slot Table's pending values after a completion: those an UPDATE_CONFIRM's write stored, whether
or not the command is still there (R110). -/
def State.takePending (s : State) (rs : List Requester) : State :=
  let p := pendingOf rs s.slots.pendingFloor s.slots.pendingRevoke
  { s with slots := { s.slots with pendingFloor := p.1, pendingRevoke := p.2 } }

/-- The command in progress is told that a write of its own has completed. -/
def State.tellCommand (s : State) (rec : RecordId) (w : CmdWork) : State :=
  match w with
  | .verifyStore x o => s.endCommand (verifyReply x o)
  | .confirmCounters _ _ awaited => s.confirmNext awaited
  | .confirmSlots awaited => s.confirmNext (awaited.erase rec)
  | .store awaited payload =>
    match awaited.erase rec with
    | [] => s.endCommand (.ok payload)
    | r :: rs => s.work (.store (r :: rs) payload)
  | .credIncrement id candidate => s.credCompare id candidate
  | .credClear id => s.credMatched id
  | .deploySlots bit awaited =>
    match awaited.erase rec with
    | [] => s.deployEnd bit
    | r :: rs => s.work (.deploySlots bit (r :: rs))
  | .verify _ => s
  | .confirmBurn _ => s
  | .sign _ _ _ => s
  | .generate _ => s
  | .deployBurn _ _ => s

/-- The job in progress is told that a write of its own has completed (R176). -/
def State.tellJob (s : State) (rec : RecordId) (w : JobWork) : State :=
  match w with
  | .wipe awaited => s.wipeNext (awaited.erase rec)
  | .wipeCounters => s.ownerResetEnd
  | .floorBurn _ => s

/-- Whether a requester of a kind is in a set. -/
def involves (rs : List Requester) (who : Who) : Bool := rs.any fun r => decide (r.who = who)

/-- Every requester is told of the completion (R125). -/
def State.tell (s : State) (rec : RecordId) (rs : List Requester) : State :=
  match s.engine.state with
  | .idle => s
  | .command w => if involves rs .command then s.tellCommand rec w else s
  | .job w => if involves rs .job then s.tellJob rec w else s

/-- A write completes (R125); a command whose other write still waits may then stand at an abort point
(R135). -/
def State.completeWrite (s : State) (w : Writing) : State :=
  let t : State := { s with records := { s.records with
    store := s.records.store.put w.record w.content, writing := none } }
  ((t.takePending w.requesters).tell w.record w.requesters).observeAbort

/-- The completion of the write in progress, if there is one. -/
def State.recordComplete (s : State) : State :=
  match s.records.writing with
  | none => s
  | some w => s.completeWrite w

/-- RECORD_WRITE_COMPLETE. -/
def execRecordWriteComplete (s : State) : Host.Outcome State Fault Refusal :=
  s.perform State.recordComplete

end Sys2Proof.Machine
end

