-- ==== Sys2Proof/Machine/FuseEvents.lean ====
section
/-! DEFINITION. FUSE_ATTEMPT_DONE (R119): the read-back, the waiting requests, and the outcomes as their
requesters act on them (R91, R111, R114, R122). -/

namespace Sys2Proof.Machine

/-- A bit burn's outcome is handed to its requester; nobody takes an orphan's (R119). -/
def State.burnEnded (s : State) (owner : BurnOwner) (target : FuseBit) (o : BurnOutcome) : State :=
  match owner with
  | .orphan => s
  | .command =>
    match s.engine.state with
    | .command (.confirmBurn q) => State.onCommandBurns (s.afterBurn .command q target.row o)
    | .command (.deployBurn bit _) => s.onDeployBurn bit o
    | _ => s
  | .job =>
    match s.engine.state with
    | .job (.floorBurn q) => State.onJobBurns (s.afterBurn .job q target.row o)
    | _ => s
  | .flow =>
    match s.flow.phase with
    | .burns q _ => State.onFlowBurns (s.afterBurn .flow q target.row o)
    | _ => s

/-- The outcomes of the waiting requests that ended as they were taken. -/
def State.queueEnded (s : State) (ended : List (BurnRequest × BurnOutcome)) : State :=
  ended.foldl (fun t e => t.burnEnded e.1.owner e.1.target e.2) s

/-- The attempt in progress has been read back (R119). -/
def State.fuseAttempt (s : State) (b : BitBurn) (readsBurned : Bool) : State :=
  match s.readBack b readsBurned with
  | (t, none) => t
  | (t, some o) =>
    let (u, ended) := takeQueue t.fuses.queue t
    (u.burnEnded b.owner b.target o).queueEnded ended

/-- FUSE_ATTEMPT_DONE. -/
def execFuseAttemptDone (readsBurned : Bool) (s : State) : Host.Outcome State Fault Refusal :=
  s.perform fun t =>
    match t.fuses.burn with
    | none => t
    | some b => t.fuseAttempt b readsBurned

end Sys2Proof.Machine
end

