-- ==== Sys2Proof/Machine/TimeEvents.lean ====
section
/-! DEFINITION. The events of the Supply Monitor (R128 to R131), of the Presence Unit (R174, R175) and of
the timer channels (R13, R107, R163, R164), and BASE_TICK, which makes them due. -/

namespace Sys2Proof.Machine

/-! ### The supply -/

/-- A cause set pending unless the stage is S0 (R131). -/
def State.raiseOutsideS0 (s : State) (c : Cause) : State := if s.stage = .s0 then s else s.raise c

/-- The monitor in a state, its run count 0 (R129). -/
def State.setSupply (s : State) (normal : Bool) : State :=
  { s with supply := { s.supply with normal := normal, run := 0 } }

/-- Entry into LOW (R131): a waiting command may stand at an abort point (R71). -/
def State.enterLow (s : State) : State :=
  ((s.setSupply false).raiseOutsideS0 .supplyLow).observeAbort

/-- Step 5 of the flow goes on at NORMAL (R91). -/
def State.resumeFlowBurns (s : State) : State :=
  match s.flow.phase with
  | .burns q true => State.onFlowBurns (s.goOnBurns .flow q)
  | _ => s

/-- The LIFECYCLE burn goes on at NORMAL (R122). -/
def State.resumeDeploy (s : State) : State :=
  match s.engine.state with
  | .command (.deployBurn bit true) => s.deployTry bit
  | _ => s

/-- FLOOR_BURN requested where the deferral flag is set (R113). -/
def State.requestDeferred (s : State) : State :=
  if s.slots.deferral then s.requestJob .floorBurn else s

/-- Entry into NORMAL (R113, R131). -/
def State.enterNormal (s : State) : State :=
  ((s.setSupply true).raiseOutsideS0 .supplyOk).resumeFlowBurns.resumeDeploy.requestDeferred

/-- ENTRY_INTO_LOW: only from NORMAL (R131, assumption 8). -/
def execEntryIntoLow (s : State) : Host.Outcome State Fault Refusal :=
  s.perform fun t => if t.supply.normal then t.enterLow else t

/-- ENTRY_INTO_NORMAL: only from LOW (R131, assumption 8). -/
def execEntryIntoNormal (s : State) : Host.Outcome State Fault Refusal :=
  s.perform fun t => if t.supply.normal then t else t.enterNormal

/-! ### The presence button -/

/-- The Presence Unit in a state (R174). -/
def State.setPresence (s : State) (p : PresenceState) : State :=
  { s with presence := { s.presence with state := p } }

/-- The debounced level replaced, its count 0 (R174). -/
def State.setLevel (s : State) (pressed : Bool) : State :=
  { s with presence := { s.presence with level := pressed, ticks := 0 } }

/-- A press (R174); during S0 it changes no state (R175). -/
def State.press (s : State) : State :=
  let t := s.setLevel true
  if t.stage = .s0 then t
  else
    match t.presence.state with
    | .idle | .proven => (t.setPresence .pressed).startPresence (holdCounts t.presence.holdTime)
    | .pressed | .waitRelease => t

/-- A release (R174); during S0 it changes no state (R175). -/
def State.letGo (s : State) : State :=
  let t := s.setLevel false
  if t.stage = .s0 then t
  else
    match t.presence.state with
    | .pressed => ((t.setPresence .proven).startPresence proofCounts).raise .presenceShort
    | .waitRelease => t.setPresence .idle
    | .idle | .proven => t

/-- PRESS: only while the debounced level is released (R174, assumption 8). -/
def execPress (s : State) : Host.Outcome State Fault Refusal :=
  s.perform fun t => if t.presence.level then t else t.press

/-- RELEASE: only while the debounced level is pressed (R174, assumption 8). -/
def execRelease (s : State) : Host.Outcome State Fault Refusal :=
  s.perform fun t => if t.presence.level then t.letGo else t

/-! ### The expiries -/

/-- TRIAL expires: a platform restart (R107). -/
def State.trialExpires (s : State) : State := s.startFlow .trialExpiry

/-- GATE expires: the gate closes (R163). -/
def State.gateExpires (s : State) : State :=
  State.closeGate { s with timers := { s.timers with gate := Channel.expired } }

/-- PENALTY expires: the throttle ends (R164). -/
def State.penaltyExpires (s : State) : State :=
  { s with timers := { s.timers with penalty := Channel.expired } }

/-- PRESENCE expires (R174). -/
def State.presenceExpires (s : State) : State :=
  let t : State := { s with timers := { s.timers with presence := Channel.expired } }
  match t.presence.state with
  | .pressed =>
    let u := t.setPresence .waitRelease
    match u.life with
    | .deployed => u.requestJob .ownerReset
    | .factory => u
  | .proven => t.setPresence .idle
  | .idle | .waitRelease => t

/-- TRIAL_EXPIRY (R13, R107): only once the expiry has been produced. -/
def execTrialExpiry (s : State) : Host.Outcome State Fault Refusal :=
  s.perform fun t => if t.timers.trial.canExpire then t.trialExpires else t

/-- GATE_EXPIRY (R13, R163): only once the expiry has been produced. -/
def execGateExpiry (s : State) : Host.Outcome State Fault Refusal :=
  s.perform fun t => if t.timers.gate.canExpire then t.gateExpires else t

/-- PENALTY_EXPIRY (R13, R164): only once the expiry has been produced. -/
def execPenaltyExpiry (s : State) : Host.Outcome State Fault Refusal :=
  s.perform fun t => if t.timers.penalty.canExpire then t.penaltyExpires else t

/-- PRESENCE_EXPIRY (R13, R174): only once the expiry has been produced. -/
def execPresenceExpiry (s : State) : Host.Outcome State Fault Refusal :=
  s.perform fun t => if t.timers.presence.canExpire then t.presenceExpires else t

/-! ### The base tick -/

/-- The supply in millivolts from a conversion code (R128). -/
def supplyMv (calibration code : Nat) : Nat :=
  if code = 0 then 6000 else min (calibration * 4096 / code) 6000

/-- Whether a sample speaks for a change of the monitor's state (R129). -/
def Supply.speaks (m : Supply) (mv : Nat) : Bool :=
  if m.normal then decide (mv < m.threshold) else decide (m.threshold + m.hysteresis ≤ mv)

/-- The monitor after a sample that changes no state: the reading, and the run count (R128, R129). The
run count stays at its bound until the change it has made due is taken. -/
def Supply.sample (m : Supply) (mv : Nat) : Supply :=
  { m with reading := mv, run := if m.speaks mv then min (m.run + 1) 16 else 0 }

/-- Whether a sample makes a change of state due (R129, R130). -/
def Supply.dueAt (m : Supply) (mv : Nat) : Bool := m.speaks mv && decide (m.samples ≤ m.run + 1)

/-- Base ticks of the debounce (R174). -/
def debounceTicks : Nat := 20

/-- Whether this tick's comparison makes a press or a release due (R174). -/
def PresenceUnit.dueAt (p : PresenceUnit) (pressed : Bool) : Bool :=
  decide (pressed ≠ p.level) && decide (debounceTicks ≤ p.ticks + 1)

/-- The Presence Unit after a comparison (R174). -/
def PresenceUnit.compare (p : PresenceUnit) (pressed : Bool) : PresenceUnit :=
  { p with pin := pressed, ticks := if pressed = p.level then 0 else min (p.ticks + 1) debounceTicks }

/-- The four channels after a base tick (R11, Table 1-3). -/
def Timers.tick (t : Timers) : Timers :=
  ⟨t.trial.tick secondTicks, t.gate.tick secondTicks, t.penalty.tick secondTicks,
    t.presence.tick tenthTicks⟩

/-- The sample, the channels' counts and the comparison of a tick, before the events it makes due. -/
def State.tickCounts (s : State) (code : BitVec 12) (pressed : Bool) : State :=
  { s with
    supply := s.supply.sample (supplyMv s.supply.calibration code.toNat)
    timers := s.timers.tick
    presence := s.presence.compare pressed }

/-- One event that is due; an expiry that something earlier in the tick has withdrawn is not delivered
(R13, R15). -/
def State.tickEvent (s : State) (supplyDue buttonDue pressed : Bool) (e : TickEvent) : State :=
  match e with
  | .supply => if supplyDue then (if s.supply.normal then s.enterLow else s.enterNormal) else s
  | .trial => if s.timers.trial.canExpire then s.trialExpires else s
  | .gate => if s.timers.gate.canExpire then s.gateExpires else s
  | .penalty => if s.timers.penalty.canExpire then s.penaltyExpires else s
  | .presence => if s.timers.presence.canExpire then s.presenceExpires else s
  | .button => if buttonDue then (if pressed then s.press else s.letGo) else s

/-- The events taken within a tick: those the sender names, in its order, then the monitor's and the
button's if it left them out. An expiry it leaves out stays due until its own row (R13, assumption
8). -/
def tickOrder (order : List TickEvent) : List TickEvent :=
  (order ++ ([.supply, .button] : List TickEvent)).foldl
    (fun taken e => if e ∈ taken then taken else taken ++ [e]) []

/-- BASE_TICK (R11, R128, R129, R174). After each of its events an idle engine looks for work, as a
request that reaches it starts at once (R68). -/
def execBaseTick (code : BitVec 12) (pressed : Bool) (order : List TickEvent) (s : State) :
    Host.Outcome State Fault Refusal :=
  s.perform fun t =>
    (tickOrder order).foldl
      (fun u e => (u.tickEvent (t.supply.dueAt (supplyMv t.supply.calibration code.toNat))
        (t.presence.dueAt pressed) pressed e).settled)
      (t.tickCounts code pressed)

end Sys2Proof.Machine
end

