-- ==== Sys2Proof/Machine/Resets.lean ====
section
/-! DEFINITION. POWER_ON (R116, R123, and the power-on columns of the chapters' reset tables), POWER_LOSS
(R119, R125), the platform restarts (R88, R97, R107, R146) and BOOT_FLOW_RESUME (R89 to R93). -/

namespace Sys2Proof.Machine

/-! ### Power -/

/-- What a loss of power leaves: the stored records, the array's bits, and the model's own fields; a
write in progress is lost whole, a burn cut short leaves its bit doubtful (R116, R119, R125). That this
holds of UPDATE_CONFIRM's COUNTERS write too, where R115's power-on column says "done if it had begun", is
DEDUCED from R110, R112, R125 and R127 (assumption 38). -/
def State.losePower (s : State) : State :=
  { State.reset with
    pending := s.pending
    powered := false
    draws := s.draws
    fuses := { s.fuses.powerLost with image := FuseRows.unburned }
    records := ⟨s.records.store, [], none⟩
    resetIn := s.resetIn
    out := s.out }

/-- The Slot Table loaded at power-on (R76, R90, R99, R113, R123). -/
def SlotTable.loaded (t : Store) : SlotTable where
  slotA := SlotRec.load t.slotA
  slotB := SlotRec.load t.slotB
  pendingFloor := (t.counters.map CountersRec.pendingFloor).getD 0
  pendingRevoke := (t.counters.map CountersRec.pendingRevoke).getD 0
  deferral := false
  bootCounter := (t.counters.map CountersRec.bootCounter).getD 0
  lastReason := (t.counters.map CountersRec.lastReason).getD .powerOn

/-- The Credential Store loaded at power-on (R161, R162, R164, R176). -/
def CredStore.loaded (t : Store) : CredStore where
  creds := t.creds.map fun c => c.getD .empty
  gateOpen := false
  failCount := (t.counters.map CountersRec.failCount).getD 0
  ownerEpoch := (t.counters.map CountersRec.ownerEpoch).getD 0
  wipeUnfinished := false
  gateIdle := (t.config.getD ConfigRec.default).gateIdle

/-- The Supply Monitor at power-on (R118, R130, R132). -/
def Supply.loaded (t : Store) (f : FuseRows) : Supply where
  normal := false
  run := 0
  reading := 0
  threshold := (t.config.getD ConfigRec.default).threshold
  hysteresis := (t.config.getD ConfigRec.default).hysteresis
  samples := (t.config.getD ConfigRec.default).samples
  calibration := f.calibrationValue
  calDefault := !f.calValid

/-- A slot loaded below the effective floor becomes FAILED with reason ROLLBACK (R76). -/
def State.rollBack (s : State) (x : SlotId) : State :=
  if (s.slot x).belowFloor s.effFloor then s.changeSlot x ((s.slot x).failKeep .rollback) else s

/-- The supply is applied to an unpowered part: the images are sensed, the records read, everything
else starts afresh, and step 1 of the power-on flow is made (R88, R89, R116, R123). -/
def State.applyPower (s : State) (sensed : List FuseBit) (resetIn : Bool) : State :=
  let t := s.records.store
  let fuses := s.fuses.sense sensed
  let u : State := { State.reset with
    pending := s.pending
    draws := s.draws
    out := s.out
    fuses := fuses
    records := ⟨t, [], none⟩
    resetIn := resetIn
    config := t.config
    cert := t.cert
    keys := Vector.ofFn fun i => (t.keys[i]).getD (KeyRec.empty i)
    cred := CredStore.loaded t
    slots := SlotTable.loaded t
    supply := Supply.loaded t fuses.image
    presence := { State.reset.presence with
      holdTime := (t.config.getD ConfigRec.default).holdTime } }
  (u.rollBack .a).rollBack .b

/-- POWER_ON: what the supply finds is what a loss of power has left (assumption 14). -/
def execPowerOn (sensed : List FuseBit) (resetIn : Bool) (s : State) :
    Host.Outcome State Fault Refusal :=
  .next (s.clearOut.losePower.applyPower sensed resetIn)

/-- POWER_LOSS. -/
def execPowerLoss (s : State) : Host.Outcome State Fault Refusal := s.perform State.losePower

/-! ### Platform restarts -/

/-- The RESET_IN pin. -/
def State.setResetIn (s : State) (b : Bool) : State := { s with resetIn := b }

/-- RESET_IN: each assertion is a platform restart (R88). -/
def execResetIn (s : State) : Host.Outcome State Fault Refusal :=
  s.perform fun t => (t.setResetIn true).startFlow .resetIn

/-- RESET_IN_RELEASE: it matters only to step 2's wait (R88, R89). -/
def execResetInRelease (s : State) : Host.Outcome State Fault Refusal :=
  s.perform fun t => t.setResetIn false

/-- PLATFORM_RESTART: the restart that a REBOOT or PROV_DEPLOY response has called for (R97, R146). -/
def execPlatformRestart (s : State) : Host.Outcome State Fault Refusal :=
  s.perform fun t =>
    match t.engine.restartDue with
    | some why => t.startFlow why
    | none => t

/-- BOOT_FLOW_RESUME: the flow leaves step 2 when its three conditions hold (R89). -/
def execBootFlowResume (id0 id1 id2 : Byte) (s : State) : Host.Outcome State Fault Refusal :=
  s.perform fun t =>
    if t.flow.phase = .wait ∧ t.flowCanResume then t.resumeFlow id0 id1 id2 else t

end Sys2Proof.Machine
end

