-- ==== Sys2Proof/Machine/ServiceRows.lean ====
section
/-! DEFINITION. The rows whose command is a service frame (R62, R66, R72, Table 4-3, assumption 2), and
the rows of the two internal jobs (R68, R114, R176, assumption 15). -/

namespace Sys2Proof.Machine

/-! ### The internal jobs -/

/-- OWNER_RESET: the job is requested, and an idle engine starts it at once (R68, R176). The Presence
Unit requests it only in DEPLOYED and never during S0 (R174, R175). -/
def execOwnerReset (s : State) : Host.Outcome State Fault Refusal :=
  s.perform fun t =>
    if t.life = .deployed ∧ t.stage ≠ .s0 then t.requestJob .ownerReset else t

/-- FLOOR_BURN: the job is requested, and an idle engine starts it at once (R68, R113, R114). During S0
the flow makes the burns itself (R91). -/
def execFloorBurn (s : State) : Host.Outcome State Fault Refusal :=
  s.perform fun t => if t.stage ≠ .s0 then t.requestJob .floorBurn else t

/-! ### The service commands -/

/-- IDENTIFY (R160; code 0x01). -/
def execIdentify (r : Request) (s : State) : Host.Outcome State Fault Refusal :=
  s.perform fun t => t.submit 0x01 r

/-- SLOT_STATUS (R98; code 0x02). -/
def execSlotStatus (r : Request) (s : State) : Host.Outcome State Fault Refusal :=
  s.perform fun t => t.submit 0x02 r

/-- POLICY_READ (R56; code 0x03). -/
def execPolicyRead (r : Request) (s : State) : Host.Outcome State Fault Refusal :=
  s.perform fun t => t.submit 0x03 r

/-- LOG_READ (R156; code 0x04). -/
def execLogRead (r : Request) (s : State) : Host.Outcome State Fault Refusal :=
  s.perform fun t => t.submit 0x04 r

/-- CERT_READ (R159; code 0x05). -/
def execCertRead (r : Request) (s : State) : Host.Outcome State Fault Refusal :=
  s.perform fun t => t.submit 0x05 r

/-- KEY_PUBLIC (R136; code 0x06). -/
def execKeyPublic (r : Request) (s : State) : Host.Outcome State Fault Refusal :=
  s.perform fun t => t.submit 0x06 r

/-- CRED_LIST (R173; code 0x07). -/
def execCredList (r : Request) (s : State) : Host.Outcome State Fault Refusal :=
  s.perform fun t => t.submit 0x07 r

/-- EVENTS_READ (R182; code 0x08). -/
def execEventsRead (r : Request) (s : State) : Host.Outcome State Fault Refusal :=
  s.perform fun t => t.submit 0x08 r

/-- STAGE_ADVANCE (R4; code 0x10). -/
def execStageAdvance (r : Request) (s : State) : Host.Outcome State Fault Refusal :=
  s.perform fun t => t.submit 0x10 r

/-- MEASURE_EXTEND (R155; code 0x11). -/
def execMeasureExtend (r : Request) (s : State) : Host.Outcome State Fault Refusal :=
  s.perform fun t => t.submit 0x11 r

/-- POLICY_TIGHTEN (R53 to R55; code 0x12). -/
def execPolicyTighten (r : Request) (s : State) : Host.Outcome State Fault Refusal :=
  s.perform fun t => t.submit 0x12 r

/-- QUOTE (R157, R158; code 0x13). -/
def execQuote (r : Request) (s : State) : Host.Outcome State Fault Refusal :=
  s.perform fun t => t.submit 0x13 r

/-- UPDATE_VERIFY (R101 to R104; code 0x20). -/
def execUpdateVerify (r : Request) (s : State) : Host.Outcome State Fault Refusal :=
  s.perform fun t => t.submit 0x20 r

/-- UPDATE_ARM (R105; code 0x21). -/
def execUpdateArm (r : Request) (s : State) : Host.Outcome State Fault Refusal :=
  s.perform fun t => t.submit 0x21 r

/-- UPDATE_DISARM (R106; code 0x22). -/
def execUpdateDisarm (r : Request) (s : State) : Host.Outcome State Fault Refusal :=
  s.perform fun t => t.submit 0x22 r

/-- UPDATE_CONFIRM (R108 to R111; code 0x23). -/
def execUpdateConfirm (r : Request) (s : State) : Host.Outcome State Fault Refusal :=
  s.perform fun t => t.submit 0x23 r

/-- REBOOT (R97; code 0x24). -/
def execReboot (r : Request) (s : State) : Host.Outcome State Fault Refusal :=
  s.perform fun t => t.submit 0x24 r

/-- KEY_SIGN (R137, R138; code 0x30). -/
def execKeySign (r : Request) (s : State) : Host.Outcome State Fault Refusal :=
  s.perform fun t => t.submit 0x30 r

/-- KEY_GENERATE (R139; code 0x31). -/
def execKeyGenerate (r : Request) (s : State) : Host.Outcome State Fault Refusal :=
  s.perform fun t => t.submit 0x31 r

/-- KEY_ERASE (R140; code 0x32). -/
def execKeyErase (r : Request) (s : State) : Host.Outcome State Fault Refusal :=
  s.perform fun t => t.submit 0x32 r

/-- CRED_CHECK (R165 to R167; code 0x40). -/
def execCredCheck (r : Request) (s : State) : Host.Outcome State Fault Refusal :=
  s.perform fun t => t.submit 0x40 r

/-- CRED_SET (R169, R170; code 0x41). -/
def execCredSet (r : Request) (s : State) : Host.Outcome State Fault Refusal :=
  s.perform fun t => t.submit 0x41 r

/-- CRED_GET (R171; code 0x42). -/
def execCredGet (r : Request) (s : State) : Host.Outcome State Fault Refusal :=
  s.perform fun t => t.submit 0x42 r

/-- CRED_DELETE (R172; code 0x43). -/
def execCredDelete (r : Request) (s : State) : Host.Outcome State Fault Refusal :=
  s.perform fun t => t.submit 0x43 r

/-- GATE_CLOSE (R163, R173; code 0x44). -/
def execGateClose (r : Request) (s : State) : Host.Outcome State Fault Refusal :=
  s.perform fun t => t.submit 0x44 r

/-- EVENTS_ACK (R183; code 0x50). -/
def execEventsAck (r : Request) (s : State) : Host.Outcome State Fault Refusal :=
  s.perform fun t => t.submit 0x50 r

/-- EVENTS_ENABLE (R180; code 0x51). -/
def execEventsEnable (r : Request) (s : State) : Host.Outcome State Fault Refusal :=
  s.perform fun t => t.submit 0x51 r

/-- PROV_CONFIG (R141; code 0x60). -/
def execProvConfig (r : Request) (s : State) : Host.Outcome State Fault Refusal :=
  s.perform fun t => t.submit 0x60 r

/-- PROV_IDENTITY (R142; code 0x61). -/
def execProvIdentity (r : Request) (s : State) : Host.Outcome State Fault Refusal :=
  s.perform fun t => t.submit 0x61 r

/-- PROV_AUTHORITY (R143; code 0x62). -/
def execProvAuthority (r : Request) (s : State) : Host.Outcome State Fault Refusal :=
  s.perform fun t => t.submit 0x62 r

/-- PROV_CERT (R144; code 0x63). -/
def execProvCert (r : Request) (s : State) : Host.Outcome State Fault Refusal :=
  s.perform fun t => t.submit 0x63 r

/-- PROV_DEPLOY (R145, R146; code 0x64). -/
def execProvDeploy (r : Request) (s : State) : Host.Outcome State Fault Refusal :=
  s.perform fun t => t.submit 0x64 r

end Sys2Proof.Machine
end

