-- ==== Sys2Proof/Machine/Dispatch.lean ====
section
/-! DEFINITION. The meaning of every command: one arm per constructor of Instr. -/

namespace Sys2Proof.Machine

def exec (i : Instr) (s : State) : Host.Outcome State Fault Refusal :=
  match i with
  | .read part count flash => Sys2Proof.Machine.execRead part count flash s
  | .readEnd => Sys2Proof.Machine.execReadEnd s
  | .program addr data tailBits => Sys2Proof.Machine.execProgram addr data tailBits s
  | .erase4k addr => Sys2Proof.Machine.execErase4k addr s
  | .erase64k addr => Sys2Proof.Machine.execErase64k addr s
  | .eraseChip => Sys2Proof.Machine.execEraseChip s
  | .wren => Sys2Proof.Machine.execWren s
  | .wrdi => Sys2Proof.Machine.execWrdi s
  | .statusRead sel count => Sys2Proof.Machine.execStatusRead sel count s
  | .statusWrite data => Sys2Proof.Machine.execStatusWrite data s
  | .ident count => Sys2Proof.Machine.execIdent count s
  | .flashReset => Sys2Proof.Machine.execFlashReset s
  | .other cmd data count => Sys2Proof.Machine.execOther cmd data count s
  | .flashFinished => Sys2Proof.Machine.execFlashFinished s
  | .chunkComplete data => Sys2Proof.Machine.execChunkComplete data s
  | .signatureComplete => Sys2Proof.Machine.execSignatureComplete s
  | .generationComplete => Sys2Proof.Machine.execGenerationComplete s
  | .recordWriteBegin => Sys2Proof.Machine.execRecordWriteBegin s
  | .recordWriteComplete => Sys2Proof.Machine.execRecordWriteComplete s
  | .fuseAttemptDone readsBurned => Sys2Proof.Machine.execFuseAttemptDone readsBurned s
  | .entryIntoLow => Sys2Proof.Machine.execEntryIntoLow s
  | .entryIntoNormal => Sys2Proof.Machine.execEntryIntoNormal s
  | .press => Sys2Proof.Machine.execPress s
  | .release => Sys2Proof.Machine.execRelease s
  | .trialExpiry => Sys2Proof.Machine.execTrialExpiry s
  | .gateExpiry => Sys2Proof.Machine.execGateExpiry s
  | .penaltyExpiry => Sys2Proof.Machine.execPenaltyExpiry s
  | .presenceExpiry => Sys2Proof.Machine.execPresenceExpiry s
  | .powerOn sensed resetIn => Sys2Proof.Machine.execPowerOn sensed resetIn s
  | .powerLoss => Sys2Proof.Machine.execPowerLoss s
  | .resetIn => Sys2Proof.Machine.execResetIn s
  | .resetInRelease => Sys2Proof.Machine.execResetInRelease s
  | .platformRestart => Sys2Proof.Machine.execPlatformRestart s
  | .bootFlowResume id0 id1 id2 => Sys2Proof.Machine.execBootFlowResume id0 id1 id2 s
  | .ownerReset => Sys2Proof.Machine.execOwnerReset s
  | .floorBurn => Sys2Proof.Machine.execFloorBurn s
  | .identify r => Sys2Proof.Machine.execIdentify r s
  | .slotStatus r => Sys2Proof.Machine.execSlotStatus r s
  | .policyRead r => Sys2Proof.Machine.execPolicyRead r s
  | .logRead r => Sys2Proof.Machine.execLogRead r s
  | .certRead r => Sys2Proof.Machine.execCertRead r s
  | .keyPublic r => Sys2Proof.Machine.execKeyPublic r s
  | .credList r => Sys2Proof.Machine.execCredList r s
  | .eventsRead r => Sys2Proof.Machine.execEventsRead r s
  | .stageAdvance r => Sys2Proof.Machine.execStageAdvance r s
  | .measureExtend r => Sys2Proof.Machine.execMeasureExtend r s
  | .policyTighten r => Sys2Proof.Machine.execPolicyTighten r s
  | .quote r => Sys2Proof.Machine.execQuote r s
  | .updateVerify r => Sys2Proof.Machine.execUpdateVerify r s
  | .updateArm r => Sys2Proof.Machine.execUpdateArm r s
  | .updateDisarm r => Sys2Proof.Machine.execUpdateDisarm r s
  | .updateConfirm r => Sys2Proof.Machine.execUpdateConfirm r s
  | .reboot r => Sys2Proof.Machine.execReboot r s
  | .keySign r => Sys2Proof.Machine.execKeySign r s
  | .keyGenerate r => Sys2Proof.Machine.execKeyGenerate r s
  | .keyErase r => Sys2Proof.Machine.execKeyErase r s
  | .credCheck r => Sys2Proof.Machine.execCredCheck r s
  | .credSet r => Sys2Proof.Machine.execCredSet r s
  | .credGet r => Sys2Proof.Machine.execCredGet r s
  | .credDelete r => Sys2Proof.Machine.execCredDelete r s
  | .gateClose r => Sys2Proof.Machine.execGateClose r s
  | .eventsAck r => Sys2Proof.Machine.execEventsAck r s
  | .eventsEnable r => Sys2Proof.Machine.execEventsEnable r s
  | .provConfig r => Sys2Proof.Machine.execProvConfig r s
  | .provIdentity r => Sys2Proof.Machine.execProvIdentity r s
  | .provAuthority r => Sys2Proof.Machine.execProvAuthority r s
  | .provCert r => Sys2Proof.Machine.execProvCert r s
  | .provDeploy r => Sys2Proof.Machine.execProvDeploy r s
  | .arrival cmd addr => Sys2Proof.Machine.execArrival cmd addr s
  | .baseTick code pressed order => Sys2Proof.Machine.execBaseTick code pressed order s

end Sys2Proof.Machine
end

