-- ==== Sys2Proof/WellFormed.lean ====
section
/-! DEFINITION. What a command's operands must satisfy to be operands of the row they stand in. -/

namespace Sys2Proof

/-- Bits of a fuse row that the part burns (Table 7-1). -/
def FuseRow.width : FuseRow → Nat
  | .lifecycle => 4
  | .counter => 64
  | .revoke => 2

/-- A fuse bit lies in its row (Table 7-1). -/
def FuseBit.inRow (b : FuseBit) : Bool := decide (b.bit < b.row.width)

/-- A request's parameters fit a frame of at most 2048 bytes (R62, Table 12-3). -/
def Request.fits (r : Request) : Bool := decide (r.params.length ≤ 2040)

/-- The command is one the outside can send:
- READ: no more flash bytes than bytes clocked out (R39);
- PROGRAM: an incomplete last byte has fewer than 8 bits (R21);
- OTHER: the command byte is of no other class (Table 12-14);
- CHUNK_COMPLETE: a chunk has at most 4096 bytes (R31);
- POWER_ON: the bits sensed lie in their rows (Table 7-1);
- service commands: the parameters fit a frame (R62);
- BASE_TICK: no event is named twice. -/
def Instr.wellFormed : Instr → Bool
  | .read _ count flash => decide (flash.length ≤ count)
  | .readEnd => true
  | .program _ _ tailBits => decide (tailBits < 8)
  | .erase4k _ => true
  | .erase64k _ => true
  | .eraseChip => true
  | .wren => true
  | .wrdi => true
  | .statusRead _ _ => true
  | .statusWrite _ => true
  | .ident _ => true
  | .flashReset => true
  | .other cmd _ _ => decide (upstreamClass cmd = .other)
  | .flashFinished => true
  | .chunkComplete data => decide (data.length ≤ Config.chunkSize)
  | .signatureComplete => true
  | .generationComplete => true
  | .recordWriteBegin => true
  | .recordWriteComplete => true
  | .fuseAttemptDone _ => true
  | .entryIntoLow => true
  | .entryIntoNormal => true
  | .press => true
  | .release => true
  | .trialExpiry => true
  | .gateExpiry => true
  | .penaltyExpiry => true
  | .presenceExpiry => true
  | .powerOn sensed _ => sensed.all FuseBit.inRow
  | .powerLoss => true
  | .resetIn => true
  | .resetInRelease => true
  | .platformRestart => true
  | .bootFlowResume _ _ _ => true
  | .ownerReset => true
  | .floorBurn => true
  | .identify r => r.fits
  | .slotStatus r => r.fits
  | .policyRead r => r.fits
  | .logRead r => r.fits
  | .certRead r => r.fits
  | .keyPublic r => r.fits
  | .credList r => r.fits
  | .eventsRead r => r.fits
  | .stageAdvance r => r.fits
  | .measureExtend r => r.fits
  | .policyTighten r => r.fits
  | .quote r => r.fits
  | .updateVerify r => r.fits
  | .updateArm r => r.fits
  | .updateDisarm r => r.fits
  | .updateConfirm r => r.fits
  | .reboot r => r.fits
  | .keySign r => r.fits
  | .keyGenerate r => r.fits
  | .keyErase r => r.fits
  | .credCheck r => r.fits
  | .credSet r => r.fits
  | .credGet r => r.fits
  | .credDelete r => r.fits
  | .gateClose r => r.fits
  | .eventsAck r => r.fits
  | .eventsEnable r => r.fits
  | .provConfig r => r.fits
  | .provIdentity r => r.fits
  | .provAuthority r => r.fits
  | .provCert r => r.fits
  | .provDeploy r => r.fits
  | .arrival _ _ => true
  | .baseTick _ _ order => decide order.Nodup

end Sys2Proof
end

