-- ==== Sys2Proof/Safety.lean ====
section
/-! DEFINITION. The terms that claims about the part are stated in: the part at rest, a command taken
and answered, and the properties that every step keeps. -/

namespace Sys2Proof.Machine

/-! ### Taking and answering -/

/-- The service commands' rows: the command code of Table 4-3 and the request. -/
def serviceRow : Instr → Option (Byte × Request)
  | .read _ _ _ => none
  | .readEnd => none
  | .program _ _ _ => none
  | .erase4k _ => none
  | .erase64k _ => none
  | .eraseChip => none
  | .wren => none
  | .wrdi => none
  | .statusRead _ _ => none
  | .statusWrite _ => none
  | .ident _ => none
  | .flashReset => none
  | .other _ _ _ => none
  | .flashFinished => none
  | .chunkComplete _ => none
  | .signatureComplete => none
  | .generationComplete => none
  | .recordWriteBegin => none
  | .recordWriteComplete => none
  | .fuseAttemptDone _ => none
  | .entryIntoLow => none
  | .entryIntoNormal => none
  | .press => none
  | .release => none
  | .trialExpiry => none
  | .gateExpiry => none
  | .penaltyExpiry => none
  | .presenceExpiry => none
  | .powerOn _ _ => none
  | .powerLoss => none
  | .resetIn => none
  | .resetInRelease => none
  | .platformRestart => none
  | .bootFlowResume _ _ _ => none
  | .ownerReset => none
  | .floorBurn => none
  | .identify r => some (0x01, r)
  | .slotStatus r => some (0x02, r)
  | .policyRead r => some (0x03, r)
  | .logRead r => some (0x04, r)
  | .certRead r => some (0x05, r)
  | .keyPublic r => some (0x06, r)
  | .credList r => some (0x07, r)
  | .eventsRead r => some (0x08, r)
  | .stageAdvance r => some (0x10, r)
  | .measureExtend r => some (0x11, r)
  | .policyTighten r => some (0x12, r)
  | .quote r => some (0x13, r)
  | .updateVerify r => some (0x20, r)
  | .updateArm r => some (0x21, r)
  | .updateDisarm r => some (0x22, r)
  | .updateConfirm r => some (0x23, r)
  | .reboot r => some (0x24, r)
  | .keySign r => some (0x30, r)
  | .keyGenerate r => some (0x31, r)
  | .keyErase r => some (0x32, r)
  | .credCheck r => some (0x40, r)
  | .credSet r => some (0x41, r)
  | .credGet r => some (0x42, r)
  | .credDelete r => some (0x43, r)
  | .gateClose r => some (0x44, r)
  | .eventsAck r => some (0x50, r)
  | .eventsEnable r => some (0x51, r)
  | .provConfig r => some (0x60, r)
  | .provIdentity r => some (0x61, r)
  | .provAuthority r => some (0x62, r)
  | .provCert r => some (0x63, r)
  | .provDeploy r => some (0x64, r)
  | .arrival _ _ => none
  | .baseTick _ _ _ => none

/-- An idle engine leaves no work waiting (R68). -/
def State.Quiet (s : State) : Prop :=
  s.engine.state = .idle →
    s.engine.ownerResetPending = false ∧ s.engine.floorBurnPending = false ∧
      s.aperture.held = none

/-- The part is powered, its SoC runs, and its engine is idle with nothing waiting: a completed frame
is taken at once (R66). -/
def State.Ready (s : State) : Prop :=
  s.powered = true ∧ s.stage ≠ .s0 ∧ s.engine.state = .idle ∧
    s.engine.ownerResetPending = false ∧ s.engine.floorBurnPending = false ∧
    s.aperture.held = none

/-- The part is powered and its SoC runs, with no unfinished ARRIVAL on the bus. -/
def State.Running (s : State) : Prop :=
  s.powered = true ∧ s.stage ≠ .s0 ∧ s.up.arrived = none ∧ s.Quiet

/-- What a request frame leaves once it is taken: the buses quiet, no frame in reception, and a RUNNING
response that echoes the code and the tag (R62, R64, R65, R66). -/
def State.taken (s : State) (code : Byte) (r : Request) : State :=
  { s with
    out := ⟨[], []⟩
    aperture := { s.aperture with
      rx := none
      resp := ⟨.running, code, r.tag, .ok, 0,
        decide (s.aperture.resp.state = .done) && s.aperture.resp.unread, false, 0, [], false⟩ } }

/-- What a command leaves that ends as soon as it is taken: a DONE response with its result, detail,
flags and payload, unread; SERVICE_DONE pending; the engine IDLE without an abort request (R67). -/
def State.answered (s : State) (code : Byte) (r : Request) (a : Reply) : State :=
  { s with
    out := ⟨[], []⟩
    aperture := { s.aperture with
      rx := none
      resp := ⟨.done, code, r.tag, a.result, a.detail,
        decide (s.aperture.resp.state = .done) && s.aperture.resp.unread, a.floorDeferred, 0,
        a.payload, true⟩ }
    engine := { s.engine with state := .idle, abortRequest := false }
    events := { s.events with pending := s.events.pending ||| 1 } }

/-- A command that stays in RUNNING: the engine holds its work (R68). -/
def State.started (s : State) (code : Byte) (r : Request) (w : CmdWork) : State :=
  let t := s.taken code r
  { t with engine := { t.engine with state := .command w } }

/-- Nothing waits for the engine: no job is pending and no frame is held (R68). -/
def State.NoWork (s : State) : Prop :=
  s.engine.ownerResetPending = false ∧ s.engine.floorBurnPending = false ∧ s.aperture.held = none

/-- What the end of the command in progress leaves: the response DONE and unread with its result, the
code, the tag, the refused-frame count and PREVIOUS_UNREAD kept; SERVICE_DONE pending; the engine IDLE
without an abort request (R64 to R67). -/
def State.finished (s : State) (a : Reply) : State :=
  { s with
    out := ⟨[], []⟩
    aperture := { s.aperture with resp := { s.aperture.resp with
      state := .done, result := a.result, detail := a.detail, floorDeferred := a.floorDeferred
      payload := a.payload, unread := true } }
    engine := { s.engine with state := .idle, abortRequest := false }
    events := { s.events with pending := s.events.pending ||| 1 } }

/-- The engine goes on with a command, the buses quiet. -/
def State.goesOn (s : State) (w : CmdWork) : State :=
  { s with out := ⟨[], []⟩, engine := { s.engine with state := .command w } }

/-- A record's write asked for (R124). -/
def State.asks (s : State) (rec : RecordId) (who : Who) (c : Change) : State :=
  { s with records := { s.records with waiting := requestIn s.records.waiting rec ⟨who, c⟩ } }

/-- The waiting list without the command's own requests; an entry left without a requester leaves it
(R124, R135). -/
def withoutCommand (l : List Entry) : List Entry :=
  l.filterMap fun e =>
    match e.requesters.filter (fun q => decide (q.who ≠ .command)) with
    | [] => none
    | rs => some ⟨e.record, rs⟩

/-- The waits of a command for a record write that are abort points: of the commands that store what they
have built, of UPDATE_VERIFY for its SLOT write, and of CRED_CHECK for its increment (R71, R103, R135,
R166). The others are none (R108, R111, R146, R167). -/
def CmdWork.StopsAtLow (w : CmdWork) : Prop :=
  (∃ awaited payload, w = .store awaited payload) ∨ (∃ x o, w = .verifyStore x o) ∨
    ∃ id candidate, w = .credIncrement id candidate

/-- The command in progress waits for a write of its own, and none of its own has begun (R135). -/
def State.AwaitsWrite (s : State) : Prop :=
  (∃ e ∈ s.records.waiting, ∃ q ∈ e.requesters, q.who = .command) ∧
    ∀ w, s.records.writing = some w → ∀ q ∈ w.requesters, q.who ≠ .command

/-- A command stopped at such a wait: its requests withdrawn, UPDATE_VERIFY's target in its prior state, the
result ABORTED (R71, R104, R135, R166). -/
def State.abortedAt (s : State) (w : CmdWork) : State :=
  State.finished { s with
    slots := match w with
      | .verifyStore x _ => s.slots.put x (if (s.slot x).state = .verifying then
          { s.slot x with state := (s.slot x).prior } else s.slot x)
      | _ => s.slots
    records := { s.records with waiting := withoutCommand s.records.waiting } }
    ⟨.aborted, 0, [], false⟩

/-- A slot record replaced, and its SLOT write asked for (R79). -/
def State.slotBecomes (s : State) (x : SlotId) (r : SlotRec) : State :=
  { s with
    slots := s.slots.put x r
    records := { s.records with waiting := requestIn s.records.waiting (.slot x) ⟨.block, .asIs⟩ } }

/-- GATE started with the gate idle time in force (R162). -/
def State.gateRestarted (s : State) : State :=
  { s with timers := { s.timers with gate := ⟨s.cred.gateIdle, 0, .running, false⟩ } }

/-- The other slot of RUN_A and of RUN_B (R36). -/
def State.otherOfRun (s : State) : SlotId := if s.filter.mode = .runA then .b else .a

/-- The running slot of RUN_A and of RUN_B (R36). -/
def State.runningOfRun (s : State) : SlotId := if s.filter.mode = .runA then .a else .b

/-- Whether the mode has a running slot (R36). -/
def State.runs (s : State) : Bool := decide (s.filter.mode = .runA ∨ s.filter.mode = .runB)

/-- The requesters a platform restart leaves in an entry: a block's stay; those of the command are withdrawn,
but for CRED_CHECK's changes of f; what stays of a command or a job has nobody behind it any more (R104,
R108, R127, R135, R166, R167, R177). -/
def keptRequesters (l : List Requester) : List Requester :=
  l.filterMap fun q =>
    if q.who = .command ∧ q.change ≠ .credIncrement ∧ q.change ≠ .credClear then none
    else some { q with who := if q.who = .block then .block else .orphan }

/-- The Record Store after a platform restart: the waiting list keeps its order, an entry left without a
requester leaves it, and the write in progress finishes for nobody but its blocks (R124, R125, R127). -/
def RecordStore.restarted (r : RecordStore) : RecordStore :=
  { r with
    waiting := (r.waiting.map fun e => { e with requesters := keptRequesters e.requesters }).filter
      fun e => decide (e.requesters ≠ [])
    writing := r.writing.map fun w => { w with
      requesters := w.requesters.map fun q =>
        { q with who := if q.who = .block then .block else .orphan } } }

/-- The first step of a boot flow, whatever started it (R2, R34, R58, R76, R89, R115, R119, R127, R130,
R162, R174, R184 and the chapters' reset tables): what it sets, over what it keeps. The channels' phase 0 is the
model's (assumption 44). -/
def State.restarted (s : State) (why : BootReason) : State :=
  let c := s.config.getD ConfigRec.default
  let back := fun (r : SlotRec) => if r.state = .verifying then { r with state := r.prior } else r
  { s with
    stage := .num 0
    up := ⟨false, false, s.up.arrived.map fun a => { a with snap := { a.snap with stage := .num 0 } },
      s.up.reads.map fun r => { r with snap := { r.snap with stage := .num 0 }, holds := false }⟩
    filter := { s.filter with table := ⟨[], none, []⟩ }
    down := { s.down with
      port := if s.down.port = .flashBusy then .flashBusy else .idle, chunk := ⟨0, 0, [], .none⟩ }
    ve := VerEngine.idle
    slots := { s.slots with
      slotA := back s.slots.slotA, slotB := back s.slots.slotB, deferral := false }
    cred := { s.cred with gateOpen := false, gateIdle := c.gateIdle }
    presence := { s.presence with state := .idle, holdTime := c.holdTime }
    log := ⟨[], zeroDigest⟩
    events := ⟨0, 0, [], 0⟩
    fuses := { s.fuses with
      burn := s.fuses.burn.map fun b => { b with owner := .orphan }, queue := [] }
    records := s.records.restarted
    supply := { s.supply with
      threshold := c.threshold, hysteresis := c.hysteresis, samples := c.samples }
    timers := ⟨⟨0, 0, .stopped, false⟩, ⟨0, 0, .stopped, false⟩, ⟨0, 0, .stopped, false⟩,
      ⟨0, 0, .stopped, false⟩⟩
    aperture := ⟨none, ⟨.empty, 0, 0, .ok, 0, false, false, 0, [], false⟩, none, none⟩
    engine := ⟨.idle, false, false, false, none⟩
    flow := ⟨.wait, why⟩
    out := ⟨[], []⟩ }

/-- The first refusal of a list of checks, each a condition that must hold and the refusal given when
it does not (R72). -/
def firstRefusal : List (Bool × Reply) → Option Reply
  | [] => none
  | (ok, refusal) :: rest => if ok then firstRefusal rest else some refusal

/-! ### The begin of a record write -/

/-- UPDATE_CONFIRM settles the slots against its new floor, the other slot first: ACTIVE becomes SPARE, or,
like VERIFIED and SPARE, FAILED with reason ROLLBACK below it; a TRIAL running slot becomes ACTIVE. The
command then awaits the SLOT writes of what has moved (R109, R111). -/
def State.settles (s : State) (floor : Nat) : State :=
  let new := max s.fuses.image.count floor
  let x := s.runningOfRun
  let o := s.slot s.otherOfRun
  let version := (o.summary.map Summary.securityVersion).getD 0
  let spare := o.state = .active ∧ new ≤ version
  let fails := (o.state = .active ∨ o.state = .verified ∨ o.state = .spare) ∧ version < new
  let told := fun (t : State) (y : SlotId) (r : SlotRec) =>
    (t.slotBecomes y r).asks (.slot y) .command .asIs
  let t1 :=
    if spare then told s s.otherOfRun ⟨.spare, .spare, .none, o.summary⟩
    else if fails then told s s.otherOfRun ⟨.failed, .failed, .rollback, o.summary⟩
    else s
  let trial := (s.slot x).state = .trial
  let t2 := if trial then told t1 x ⟨.active, .active, .none, (s.slot x).summary⟩ else t1
  let settled := if s.runs = true then t2 else s
  let awaited := if s.runs = true then
      (if spare ∨ fails then [RecordId.slot s.otherOfRun] else []) ++
        (if trial then [RecordId.slot x] else [])
    else []
  match s.engine.state with
  | .command (.confirmCounters f v _) =>
    { settled with engine := { s.engine with state := .command (.confirmCounters f v awaited) } }
  | _ => settled

/-- What one requester's change makes of the working copies as its record's write begins (R103, R109, R125,
R135, R164, R176). -/
def State.begins (s : State) (rec : RecordId) (c : Change) : State :=
  match c, rec with
  | .verify (.pass m), .slot x => { s with slots := s.slots.put x ⟨.verified, .verified, .none, some m⟩ }
  | .verify (.fail why), .slot x => { s with slots := s.slots.put x ⟨.failed, .failed, why, none⟩ }
  | .confirm floor _, _ => s.settles floor
  | .credIncrement, _ => { s with cred := { s.cred with failCount := min 20 (s.cred.failCount + 1) } }
  | .credClear, _ => { s with cred := { s.cred with failCount := 0 } }
  | .ownerReset, _ => { s with
      cred := { s.cred with
        failCount := 0
        ownerEpoch := min (s.cred.ownerEpoch + 1) 4294967295
        wipeUnfinished := false }
      timers := { s.timers with penalty := s.timers.penalty.stop } }
  | .key k, .key i => { s with keys := s.keys.set i k }
  | .cred k, .cred i => { s with cred := { s.cred with creds := s.cred.creds.set i k } }
  | .config k, _ => { s with config := some k }
  | .cert bytes, _ => { s with cert := some bytes }
  | _, _ => s

/-- The content a write takes from the working copies, its requesters' changes made: COUNTERS with the new
pending values of an UPDATE_CONFIRM of the set, else with the Slot Table's (R79, R125). -/
def State.stores (s : State) (rec : RecordId) (rs : List Requester) : RecContent :=
  let confirmed := rs.findSome? fun q =>
    match q.change with
    | .confirm floor revoke => some (floor, revoke)
    | _ => none
  let due := confirmed.getD (s.slots.pendingFloor, s.slots.pendingRevoke)
  match rec with
  | .config => .config (s.config.getD ConfigRec.default)
  | .key i => .key s.keys[i]
  | .cred i => .cred s.cred.creds[i]
  | .slot x => .slot ⟨if (s.slot x).state = .verifying then (s.slot x).prior else (s.slot x).state,
      (s.slot x).reason, (s.slot x).summary⟩
  | .counters => .counters ⟨s.slots.bootCounter, s.slots.lastReason, due.1, due.2,
      s.cred.ownerEpoch, s.cred.failCount⟩
  | .cert => .cert (s.cert.getD [])

/-! ### Rows in turn -/

/-- Rows taken one after another, with what they put on the buses joined. -/
def State.inTurn (s : State) : List Instr → State
  | [] => s
  | c :: rest =>
    match exec c s with
    | .next t =>
      State.inTurn { t with
        out := ⟨s.out.toSoc ++ t.out.toSoc, s.out.toFlash ++ t.out.toFlash⟩ } rest
    | .fault _ => s
    | .refused _ => s

/-! ### The boot flow, the burns and the wipe, as statements name them -/

/-- A chunk asked for while the port is free: it is in flight at once (R30, R31). -/
def State.reads (s : State) (start length : Nat) : State :=
  { s with
    out := { s.out with toFlash := s.out.toFlash ++ [.readFrom start] }
    down := { s.down with port := .carryingChunk, chunk := ⟨start, length, [], .inFlight⟩ } }

/-- The writes that empty the SET credentials and the PRESENT owner keys, in order (R176). -/
def State.wipeList (s : State) : List (RecordId × Change) :=
  (((List.finRange 24).filter fun i => decide (s.cred.creds[i] ≠ .empty)).map
    fun i => (RecordId.cred i, Change.cred .empty)) ++
  (((List.finRange 16).filter fun i => decide (4 ≤ i.val) && s.keys[i].present).map
    fun i => (RecordId.key i, Change.key (KeyRec.empty i)))

/-- The gate closed and the wipe marked unfinished (R163, R176). -/
def State.wipeBegun (s : State) : State :=
  { s with
    cred := { s.cred with gateOpen := false, wipeUnfinished := true }
    timers := { s.timers with gate := s.timers.gate.stop }
    events := { s.events with pending :=
      if s.cred.gateOpen = true then s.events.pending ||| 64 else s.events.pending } }

/-- The engine at the job that awaits the owner reset's COUNTERS write (R176). -/
def State.wipeCounting (s : State) : State :=
  let t := s.asks .counters .job .ownerReset
  { t with engine := { t.engine with state := .job .wipeCounters } }

/-- The owner reset at its start: the writes of the wipe are asked for and awaited, or, with none, the
COUNTERS write is (R176). -/
def State.wiping (s : State) : State :=
  if s.wipeList = [] then s.wipeBegun.wipeCounting
  else
    let t := s.wipeList.foldl (fun u w => State.asks u w.1 .job w.2) s.wipeBegun
    { t with engine := { t.engine with state := .job (.wipe (s.wipeList.map Prod.fst)) } }

/-- The release step: the stage by the mode, the Presence Unit by the level, PENALTY by f (R3, R96, R164,
R175). -/
def State.freed (s : State) : State :=
  let f := s.cred.failCount
  { s with
    stage := if s.runs then .num 1 else .unset
    presence := { s.presence with
      state := if s.presence.level = true then .waitRelease else .idle }
    timers := if 5 ≤ f ∧ f < 20 then
      { s.timers with penalty := ⟨min (30 * 2 ^ (f - 5)) 3600, 0, .running, false⟩ } else s.timers
    flow := { s.flow with phase := .none } }

/-- The release step, after which an owner reset left unfinished starts again (R96, R177). -/
def State.handedOver (s : State) : State :=
  if s.cred.wipeUnfinished = true then s.freed.wiping else s.freed

/-- Records appended to the Measurement Log at the current stage: kinds, digests and labels (R149). -/
def State.logs (s : State) (l : List (LogKind × List Byte × List Byte)) : State :=
  { s with log := l.foldl (fun log e => log.append e.1 s.stage e.2.1 e.2.2) s.log }

/-- The geometry of the CONFIG working copy, or the default one (R35; assumption 48). -/
def State.configGeo (s : State) : Geometry := (s.config.getD ConfigRec.default).geo

/-- The booted slot: ACTIVE still, its write asked for where its summary has changed, or TRIAL, with TRIAL
started (R79, R94). -/
def State.slotBoots (s : State) (x : SlotId) (m : Summary) : State :=
  if (s.slot x).state = .active then
    if (s.slot x).summary = some m then s else s.slotBecomes x { s.slot x with summary := some m }
  else
    let t := s.slotBecomes x ⟨.trial, .trial, .none, some m⟩
    { t with timers := { t.timers with trial := ⟨m.trialTime, 0, .running, false⟩ } }

/-- The first candidate to pass: its slot, the Window Map and the policy, the four records, FALLBACK where
it was not the first of the list, and the release (R94, R96). -/
def State.boots (s : State) (x : SlotId) (m : Summary) (first : Bool) : State :=
  let letter : List Byte := [if x = .a then 0x41 else 0x42]
  let t := s.slotBoots x m
  let u : State := { t with
    filter := ⟨if x = .a then .runA else .runB, s.configGeo, manifestTable s.ve.manifest⟩ }
  let v := u.logs [(.part, sha256 s.partInput, []), (.manifest, m.manifestDigest, letter),
    (.image, m.imageDigest, letter), (.policy, m.policyDigest, letter)]
  State.handedOver { v with events := { v.events with pending :=
    if first = true then v.events.pending else v.events.pending ||| 1024 } }

/-- RECOVERY entered: its window, its policy, and the loader's first chunk asked for (R45, R95). The bounds
in the policy's ALWAYS and NEVER, and the cursor 0, are the model's (assumptions 37, 43). -/
def State.entersRecovery (s : State) : State :=
  let g := s.configGeo
  State.reads { s with
    filter := ⟨.recovery, g, recoveryTable g⟩
    ve := ⟨.loader, [], 0, ShaState.initial⟩
    flow := { s.flow with phase := .loader } } g.recBase (min 4096 g.recSize)

/-- RECOVERY measured: its two records, FALLBACK, and the release (R95, R96). -/
def State.leavesRecovery (s : State) (digest : List Byte) : State :=
  let t := s.logs [(.part, sha256 s.partInput, []), (.recovery, digest, [])]
  State.handedOver { t with events := { t.events with pending := t.events.pending ||| 1024 } }

/-- Step 8: the next candidate's manifest chunk is asked for; with none left RECOVERY is entered (R81,
R93). The cursor 0 and the digest not begun are the model's (assumption 43). -/
def State.tries (s : State) (first : Bool) : List SlotId → State
  | [] => s.entersRecovery
  | x :: rest =>
    State.reads { s with
      ve := ⟨.manifest x, [], 0, ShaState.initial⟩
      flow := { s.flow with phase := .verifying x rest first } }
      (if x = .a then 0 else s.configGeo.slotSize) 4096

/-- Steps 6 to 8: an unconfirmed trial fails, the candidates are listed by state and slot, and the first
is tried (R92, R93). -/
def State.selects (s : State) : State :=
  let fails : State → SlotId → State := fun t x =>
    if (t.slot x).state = .trial then
      t.slotBecomes x ⟨.failed, .failed, .trialUnconfirmed, (t.slot x).summary⟩
    else t
  let t : State := fails (fails s .a) .b
  t.tries true ([SlotState.armed, .active, .spare, .verified, .staged].flatMap fun st =>
    [SlotId.a, .b].filter fun x => decide ((t.slot x).state = st))

/-- The next bit to burn toward the pending floor and the pending revocations, and where the burns then
stand: the COUNTER bit at the count while it is below the floor, unless the count would pass the floor,
which fails the row; then REVOKE bit 0, then bit 1 (R111, R114, R120, R121). -/
def State.nextBit (s : State) (q : BurnSeq) : Option FuseBit × BurnSeq :=
  let c := s.fuses.image.count
  let due := fun i => q.revokeDone = false ∧ s.slots.pendingRevoke.getLsbD i = true ∧
    s.fuses.image.revoke.getLsbD i = false
  let raise := q.counterDone = false ∧ c < s.slots.pendingFloor
  let fits := (s.fuses.image.set ⟨.counter, c⟩).count ≤ s.slots.pendingFloor
  let past := { q with counterDone := true, failed := q.failed || decide (raise ∧ ¬ fits) }
  if raise ∧ fits then (some ⟨.counter, c⟩, q)
  else if due 0 then (some ⟨.revoke, 0⟩, past)
  else if due 1 then (some ⟨.revoke, 1⟩, past)
  else (none, { past with revokeDone := true })

/-- FUSE_FAULT set pending once a bit has failed (R111, R114, R91). -/
def State.faulted (s : State) (q : BurnSeq) : State :=
  if q.failed = true then { s with events := { s.events with pending := s.events.pending ||| 256 } }
  else s

/-- UPDATE_CONFIRM's payload (R111). -/
def State.floorReport (s : State) : List Byte :=
  [BitVec.ofNat 8 s.slots.pendingFloor, BitVec.ofNat 8 s.fuses.image.count,
    BitVec.ofNat 8 s.slots.pendingRevoke.toNat, BitVec.ofNat 8 s.fuses.image.revoke.toNat,
    s.slots.slotA.state.toByte, s.slots.slotB.state.toByte]

/-- A requester whose bit is being burned waits for it (R91, R111, R114). -/
def State.burnsWait (s : State) (owner : BurnOwner) (q : BurnSeq) : State :=
  match owner with
  | .command => (s.faulted q).goesOn (.confirmBurn q)
  | .job =>
    let t := s.faulted q
    { t with engine := { t.engine with state := .job (.floorBurn q) } }
  | .flow => { s with flow := { s.flow with phase := .burns q false } }
  | .orphan => s

/-- A requester that finds the supply LOW: UPDATE_CONFIRM ends with FLOOR_DEFERRED and FLOOR_BURN ends, each
setting the deferral flag; the flow waits (R91, R111, R113, R114). -/
def State.burnsStop (s : State) (owner : BurnOwner) (q : BurnSeq) : State :=
  let t := s.faulted q
  let d := { t with slots := { t.slots with deferral := true } }
  match owner with
  | .command =>
    d.finished ⟨if q.failed = true then .fuseFault else .ok, 0, d.floorReport, true⟩
  | .job => { d with engine := { d.engine with state := .idle } }
  | .flow => { s with flow := { s.flow with phase := .burns q true } }
  | .orphan => s

/-- A requester with nothing left to burn: UPDATE_CONFIRM ends, FLOOR_BURN raises FLOOR_SETTLED or
FUSE_FAULT, the flow goes on to step 6 (R91, R111, R114). -/
def State.burnsDone (s : State) (owner : BurnOwner) (q : BurnSeq) : State :=
  let t := s.faulted q
  match owner with
  | .command =>
    t.finished ⟨if q.failed = true then .fuseFault else .ok, 0, t.floorReport, false⟩
  | .job => { s with
      events := { s.events with pending :=
        s.events.pending ||| (if q.failed = true then 256 else 512) }
      engine := { s.engine with state := .idle } }
  | .flow => t.selects
  | .orphan => s

/-- A bit burn asked for: it is taken, or waits while another is in progress (R119). -/
def State.asksBurn (s : State) (b : FuseBit) (owner : BurnOwner) : State :=
  { s with fuses :=
    match s.fuses.burn with
    | none => { s.fuses with burn := some ⟨b, 0, owner⟩ }
    | some _ => { s.fuses with queue := s.fuses.queue ++ [⟨b, owner⟩] } }

/-- The burns of UPDATE_CONFIRM, FLOOR_BURN or the flow go on: each next bit only at NORMAL (R91, R111,
R114). -/
def State.burnsGoOn (s : State) (owner : BurnOwner) (q : BurnSeq) : State :=
  match s.nextBit q with
  | (none, past) => s.burnsDone owner past
  | (some b, past) =>
    if s.supply.normal = true then
      (s.asksBurn b owner).burnsWait owner past
    else s.burnsStop owner past

/-- The read-back of an attempt, the bit burn over: a burned bit is burned in the image and in the array, an
unburned one is doubtful (R116, R119). -/
def State.burnRead (s : State) (target : FuseBit) (back : Bool) : State :=
  { s with fuses :=
    if back = true then { s.fuses with
      image := s.fuses.image.set target, array := s.fuses.array.set target
      doubtful := s.fuses.doubtful.filter fun d => decide (d ≠ target), burn := none }
    else { s.fuses with
      doubtful := if target ∈ s.fuses.doubtful then s.fuses.doubtful
        else s.fuses.doubtful ++ [target]
      burn := none } }

/-- How a bit burn ends with this read-back; none where the next of its three attempts follows (R119). -/
def BitBurn.ends (b : BitBurn) (back normal : Bool) : Option BurnOutcome :=
  if back = true then some .burned
  else if b.attempts = 2 then some .failed
  else if normal = true then none
  else some .supplyStop

/-- The burns once a bit of theirs has ended: a failed bit leaves its row, the other row is still burned; a
LOW supply stops them (R91, R111, R114, R119). -/
def State.burnsAfter (s : State) (owner : BurnOwner) (q : BurnSeq) (row : FuseRow)
    (o : BurnOutcome) : State :=
  match o with
  | .burned => s.burnsGoOn owner q
  | .failed => s.burnsGoOn owner
    { q with
      counterDone := q.counterDone || decide (row = .counter)
      revokeDone := q.revokeDone || decide (row = .revoke)
      failed := true }
  | .supplyStop => s.burnsStop owner q

/-- What an idle engine starts of its pending jobs: OWNER_RESET, else FLOOR_BURN, which leaves the pending-job
set and clears the deferral flag (R68, R113, R114, R176). -/
def State.startsJob (s : State) : State :=
  if s.engine.ownerResetPending = true then
    State.wiping { s with engine := { s.engine with ownerResetPending := false } }
  else if s.engine.floorBurnPending = true then
    State.burnsGoOn { s with
      engine := { s.engine with floorBurnPending := false }
      slots := { s.slots with deferral := false } } .job ⟨false, false, false⟩
  else s

/-- The part with another pending-job set and another held frame (R66, R68). -/
def State.withWork (s : State) (ownerReset floorBurn : Bool) (held : Option Frame) : State :=
  { s with
    engine := { s.engine with ownerResetPending := ownerReset, floorBurnPending := floorBurn }
    aperture := { s.aperture with held := held } }

/-- The part once its QUEUED frame is out of the aperture, the buses quiet: a frame taken now finds the same
PREVIOUS_UNREAD (R64 to R66). -/
def State.unheld (s : State) : State :=
  { s with
    out := ⟨[], []⟩
    aperture := ⟨none, ⟨.done, 0, 0, .ok, 0, false, false, 0, [], s.aperture.resp.previousUnread⟩, none,
      none⟩ }

/-- A command taken from a part that holds nothing, as a part that held its frame answers it: the buses'
outputs joined, a frame in reception and the refused-frame count kept (R64 to R66). -/
def State.afterHeld (s t : State) : State :=
  { t with
    out := ⟨s.out.toSoc ++ t.out.toSoc, s.out.toFlash ++ t.out.toFlash⟩
    aperture := { t.aperture with
      rx := s.aperture.rx
      resp := { t.aperture.resp with refused := s.aperture.resp.refused } } }

/-- PROV_DEPLOY's second phase: both slots STAGED, without summary and reason, and their writes asked for
and awaited (R146). -/
def State.deployStages (s : State) (bit : Nat) : State :=
  let told := fun (t : State) (x : SlotId) =>
    (t.slotBecomes x ⟨.staged, .staged, .none, none⟩).asks (.slot x) .command .asIs
  State.goesOn (told (told s .a) .b) (.deploySlots bit [.slot .a, .slot .b])

/-- PROV_DEPLOY once a LIFECYCLE bit has ended: BURNED, phase 2; SUPPLY_STOP, it waits for NORMAL; FAILED,
the next bit, or after bit 3 FUSE_FAULT (R122, R146). -/
def State.deployAfter (s : State) (bit : Nat) (o : BurnOutcome) : State :=
  match o with
  | .burned => s.deployStages bit
  | .supplyStop => s.goesOn (.deployBurn bit true)
  | .failed =>
    if bit < 3 then
      if s.fuses.image.burned ⟨.lifecycle, bit + 1⟩ = true then s.deployStages (bit + 1)
      else if s.supply.normal = true then
        (s.asksBurn ⟨.lifecycle, bit + 1⟩ .command).goesOn (.deployBurn (bit + 1) false)
      else s.goesOn (.deployBurn (bit + 1) true)
    else
      State.finished { s with events := { s.events with pending := s.events.pending ||| 256 } }
        ⟨.fuseFault, 0, [], false⟩

/-- A bit burn's outcome as its requester takes it; nobody takes an abandoned one's (R119). -/
def State.burnTold (s : State) (owner : BurnOwner) (target : FuseBit) (o : BurnOutcome) : State :=
  match owner with
  | .orphan => s
  | .command =>
    match s.engine.state with
    | .command (.confirmBurn q) => s.burnsAfter .command q target.row o
    | .command (.deployBurn bit _) => s.deployAfter bit o
    | _ => s
  | .job =>
    match s.engine.state with
    | .job (.floorBurn q) => s.burnsAfter .job q target.row o
    | _ => s
  | .flow =>
    match s.flow.phase with
    | .burns q _ => s.burnsAfter .flow q target.row o
    | _ => s

/-! ### Properties that every step keeps -/

/-- The records of a log: their indices count from 0, and OVERFLOW stands nowhere but at index 63
(R148). -/
def LogWellFormed (l : MeasLog) : Prop :=
  l.records.length ≤ 64 ∧
    (∀ i (h : i < l.records.length),
      (l.records[i]).index = i ∧ ((l.records[i]).kind = .overflow ↔ i = 63)) ∧
    l.chain = l.records.foldl chainNext zeroDigest

/-- An access allowed by the effective condition of an entry is allowed by the loaded one (R52). -/
def CondWithin (eff loaded : Cond) : Prop := ∀ st, eff.holds st = true → loaded.holds st = true

/-- The Region Table's effective conditions allow nothing that the loaded ones refuse, and it holds at
most four tightening entries (R52). -/
def TableWithin (t : RegionTable) : Prop :=
  (∀ e ∈ t.entries,
      CondWithin e.effRead e.loaded.readCond ∧ CondWithin e.effWrite e.loaded.writeCond) ∧
    (∀ d ∈ t.dflt, CondWithin d.effRead d.readCond ∧ CondWithin d.effWrite d.writeCond) ∧
    t.tight.length ≤ 4

/-- The waiting list names no record twice, and every entry has a requester (R124). -/
def WaitingWellFormed (l : List Entry) : Prop :=
  (l.map Entry.record).Nodup ∧ ∀ e ∈ l, e.requesters ≠ []

/-- What the command in progress has asked for in a set of requesters (R124, R135). -/
def commandsOf (rec : RecordId) (rs : List Requester) : List (RecordId × Change) :=
  (rs.filter fun q => decide (q.who = .command)).map fun q => (rec, q.change)

/-- The command's requests of a waiting list (R124). -/
def commandsIn (l : List Entry) : List (RecordId × Change) :=
  l.flatMap fun e => commandsOf e.record e.requesters

/-- The command's requests that wait (R124). -/
def State.commandAsks (s : State) : List (RecordId × Change) := commandsIn s.records.waiting

/-- The command's requests in the write in progress (R125). -/
def State.commandBegun (s : State) : List (RecordId × Change) :=
  match s.records.writing with
  | none => []
  | some w => commandsOf w.record w.requesters

/-- The records whose writes the engine's work awaits for its command: UPDATE_CONFIRM the COUNTERS record and,
once its write has begun, the SLOT records of the settling (R103, R108, R111, R135, R146, R166, R167). -/
def EngineState.awaits : EngineState → List RecordId
  | .idle => []
  | .job _ => []
  | .command (.verify _) => []
  | .command (.verifyStore x _) => [.slot x]
  | .command (.confirmCounters _ _ awaited) => .counters :: awaited
  | .command (.confirmSlots awaited) => awaited
  | .command (.confirmBurn _) => []
  | .command (.sign _ _ _) => []
  | .command (.generate _) => []
  | .command (.store awaited _) => awaited
  | .command (.credIncrement _ _) => [.counters]
  | .command (.credClear _) => [.counters]
  | .command (.deployBurn _ _) => []
  | .command (.deploySlots _ awaited) => awaited

/-- The command in progress awaits just the writes it has asked for that have not completed, each once; the
change of UPDATE_CONFIRM waits for UPDATE_CONFIRM alone, which awaits its SLOT writes once that change has
begun; and CRED_CHECK after its match awaits the return of f to 0 alone (R108, R111, R124, R135, R167). -/
def AwaitsMatch (s : State) : Prop :=
  ((s.commandAsks ++ s.commandBegun).map Prod.fst).Perm s.engine.state.awaits ∧
    s.engine.state.awaits.Nodup ∧
    (∀ e ∈ s.records.waiting, ∀ q ∈ e.requesters, ∀ floor revoke, q.change = .confirm floor revoke →
      q.who = .command ∧ e.record = .counters ∧
        ∃ f v awaited, s.engine.state = .command (.confirmCounters f v awaited)) ∧
    (∀ f v awaited, s.engine.state = .command (.confirmCounters f v awaited) → awaited ≠ [] →
      s.commandBegun.map Prod.fst = [.counters]) ∧
    ∀ id, s.engine.state = .command (.credClear id) →
      ∀ p ∈ s.commandAsks ++ s.commandBegun, p.2 = .credClear

/-- The stage is S0 exactly while a boot flow is in progress (R2). -/
def StageMatchesFlow (s : State) : Prop := s.stage = .s0 ↔ s.flow.phase ≠ .none

/-- The stages that may follow a stage while no flow starts: a numeric one never falls, and UNSET stays
UNSET (R3). -/
def Stage.Follows : Stage → Stage → Prop
  | .num n, .num m => n ≤ m
  | .unset, .unset => True
  | _, _ => False

/-- The bounds of the part's counts: f at most 20, in the working copy, in the COUNTERS record and in one
being written; the violation list at most 16 records with repeat counts 1..65535, the total below 2^32
(R164, R181). -/
def CountsInBounds (s : State) : Prop :=
  s.cred.failCount ≤ 20 ∧ (∀ c ∈ s.records.store.counters, c.failCount ≤ 20) ∧
    (∀ w ∈ s.records.writing, ∀ c, w.content = .counters c → c.failCount ≤ 20) ∧
    s.events.violations.length ≤ 16 ∧
    (∀ v ∈ s.events.violations, 1 ≤ v.repeats ∧ v.repeats ≤ 65535) ∧ s.events.total < 4294967296

/-- The Region Table, and that of every snapshot kept, is within what was loaded (R50, R52). -/
def TablesWithin (s : State) : Prop :=
  TableWithin s.filter.table ∧ (∀ a ∈ s.up.arrived, TableWithin a.snap.table) ∧
    ∀ r ∈ s.up.reads, TableWithin r.snap.table

/-- GATE runs, or has expired and its expiry has not yet been taken (R13, R15). -/
def GateTimed (s : State) : Prop :=
  s.timers.gate.state = .running ∨ (s.timers.gate.state = .expired ∧ s.timers.gate.due = true)

/-- The stage and the flow (R2), the engine (R68), the part's rest in S0 (R19, R89, R113, R174), and the
gate and GATE (R162, R163). -/
def FlowInvariant (s : State) : Prop :=
  StageMatchesFlow s ∧ s.Quiet ∧ (s.cred.gateOpen = true ↔ GateTimed s) ∧
    (s.stage = .s0 → s.engine.state = .idle ∧ s.presence.state = .idle ∧
      s.slots.deferral = false ∧ ∀ a ∈ s.up.arrived, a.snap.stage = .s0)

/-- Every bit burned in one set of rows is burned in another (R116, R120). -/
def BurnedWithin (f g : FuseRows) : Prop := ∀ b, f.burned b = true → g.burned b = true

/-- While the part is powered the row images read what the array holds (R116, R120). -/
def FusesInvariant (s : State) : Prop :=
  s.powered = true → s.fuses.image = s.fuses.array

end Sys2Proof.Machine
end

