-- ==== Sys2Proof/Certificates/Slice0/Obligations.lean ====
section
/-! DEFINITION. The statements about the model, for the provers. -/

open Sys2Proof Sys2Proof.Machine

/-! ### Reports -/

/-- O. Little-endian numbers (R185), and the codes of Table 12-2 that IDENTIFY, KEY_PUBLIC and QUOTE carry,
roles and kinds as in Table 8-1. IDENTIFY reports, in either lifecycle and at every stage (R160); CERT_READ
returns the certificate's bytes (R159), and KEY_PUBLIC one key record (R136). None changes anything but its
response. -/
def Obligations.IdentifyCertReadAndKeyPublic : Prop :=
  (∀ n v : Nat, (leBytes n v).length = n ∧ ∀ i, i < n →
    byteAt (leBytes n v) i = BitVec.ofNat 8 (v / 256 ^ i)) ∧
  (∀ (bs : List Byte) (i : Nat), leAt bs i 2 = (byteAt bs i).toNat + 256 * (byteAt bs (i + 1)).toNat ∧
    leAt bs i 4 = leAt bs i 2 + 65536 * leAt bs (i + 2) 2) ∧
  ((∀ n, (Stage.num n).toByte.toNat = n.val) ∧ Stage.unset.toByte = 0xff ∧
    [Lifecycle.factory, .deployed].map Lifecycle.toByte = [0, 1] ∧
    [Mode.passthrough, .runA, .runB, .recovery].map Mode.toByte = [0, 1, 2, 3] ∧
    [none, some SlotId.a, some .b].map slotByte = [0, 1, 2] ∧
    [BootReason.powerOn, .resetIn, .reboot, .trialExpiry, .deploy].map BootReason.toByte =
      [0, 1, 2, 3, 4] ∧
    (List.finRange 16).map keyKind = [1, 2, 2, 1, 1, 1, 1, 1, 1, 1, 1, 1, 1, 1, 1, 1] ∧
    (List.finRange 16).map keyRole = [1, 2, 3, 4, 5, 5, 5, 5, 5, 5, 5, 5, 5, 5, 5, 5]) ∧
  (∀ (s : State) (r : Request), s.Ready → r.fits = true →
    exec (.identify r) s = .next (s.answered 0x01 r ((firstRefusal
      [(decide (r.reserved = 0), Reply.reservedField), (r.params.isEmpty, Reply.range)]).getD
      (.ok (leBytes 16 s.fuses.image.deviceId.toNat ++
        [s.fuses.image.life.toByte, s.filter.mode.toByte, s.stage.toByte] ++
        u32 s.filter.geo.flashSize ++ u32 s.filter.geo.slotSize ++ u32 s.filter.geo.apBase ++
        u32 s.filter.geo.recBase ++ u32 s.filter.geo.recSize ++
        flagByte s.supply.normal ++ u16 s.supply.reading ++ u16 s.supply.threshold ++
        u16 s.supply.hysteresis ++ u8 s.supply.samples ++ u16 s.supply.calibration ++
        flagByte s.supply.calDefault ++
        u32 s.slots.bootCounter ++ u32 s.cred.ownerEpoch ++ [s.slots.lastReason.toByte] ++
        u8 s.fuses.image.count ++ [s.down.id0, s.down.id1, s.down.id2]))))) ∧
  (∀ (s : State) (r : Request), s.Ready → r.fits = true →
    exec (.certRead r) s = .next (s.answered 0x05 r ((firstRefusal
      [(decide (r.reserved = 0), Reply.reservedField), (r.params.isEmpty, Reply.range),
        (s.cert.isSome, .plain .emptyItem)]).getD (.ok (s.cert.getD []))))) ∧
  ∀ (s : State) (r : Request) (i : Fin 16), s.Ready → r.fits = true →
    (byteAt r.params 0).toNat % 16 = i.val →
    exec (.keyPublic r) s = .next (s.answered 0x06 r ((firstRefusal
      [(decide (r.reserved = 0), Reply.reservedField),
        (decide (r.params.length = 1), Reply.range),
        (decide ((byteAt r.params 0).toNat ≤ 15), Reply.range),
        (s.keys[i].present, .plain .emptyItem)]).getD
      (.ok (u8 i.val ++ [1, keyKind i, keyRole i, s.keys[i].cond.toByte] ++
        flagByte s.keys[i].gateRequired ++ u8 s.keys[i].label.length ++ s.keys[i].label ++
        s.keys[i].pub))))

/-- O. The codes of slot states and fail reasons (Tables 12-2 and 5-3), anchors and fills. SLOT_STATUS
reports both slots and what verification reads (R98), and POLICY_READ the Path Filter's state (R56). The two
effective revocations in two flag bytes are the model's reading of R98 (assumption 11). That POLICY_READ
shows the tightening entries as held in mode PASSTHROUGH too, where R56 has none, is the model's: form (b)
can add one there between PROV_DEPLOY's OK and its restart (assumption 20). -/
def Obligations.SlotStatusAndPolicyRead : Prop :=
  ([SlotState.empty, .staged, .verifying, .verified, .armed, .trial, .active, .spare, .failed].map
      SlotState.toByte = [0, 1, 2, 3, 4, 5, 6, 7, 8] ∧
    [FailReason.none, .manifestFormat, .authorityAbsent, .authorityRevoked, .signature, .rollback,
      .imageLength, .imageDigest, .policyBad, .trialUnconfirmed].map FailReason.toByte =
      [0, 1, 2, 3, 4, 5, 6, 7, 8, 9] ∧
    [Anchor.absolute, .runningSlot, .otherSlot].map Anchor.toByte = [0, 1, 2] ∧
    [Fill.ones, .zeros].map Fill.toByte = [0xff, 0]) ∧
  (∀ (s : State) (r : Request), s.Ready → r.fits = true →
    exec (.slotStatus r) s = .next (s.answered 0x02 r ((firstRefusal
      [(decide (r.reserved = 0), Reply.reservedField), (r.params.isEmpty, Reply.range)]).getD
      (.ok (([SlotId.a, SlotId.b].flatMap fun x =>
          [(s.slot x).state.toByte,
            (if (s.slot x).state = .verifying then (s.slot x).prior else (s.slot x).state).toByte,
            (if (s.slot x).state = .failed then (s.slot x).reason else .none).toByte] ++
          (match (s.slot x).summary with
            | some m =>
              [1] ++ u8 m.securityVersion ++ u32 m.imageVersion ++ u32 m.imageLength ++
                m.imageDigest ++ m.policyDigest ++ m.manifestDigest ++ u8 m.authority ++
                u16 m.trialTime ++ flagByte m.revokeOther
            | none => List.replicate 110 0)) ++
        [match s.filter.mode with
          | .runA => 1
          | .runB => 2
          | .recovery => 0
          | .passthrough => 0, s.filter.mode.toByte] ++
        u16 (if s.timers.trial.state = .running then s.timers.trial.count else 0) ++
        u8 (max s.fuses.image.count s.slots.pendingFloor) ++ u8 s.fuses.image.count ++
        flagByte (s.fuses.image.revoke.getLsbD 0 || s.slots.pendingRevoke.getLsbD 0) ++
        flagByte (s.fuses.image.revoke.getLsbD 1 || s.slots.pendingRevoke.getLsbD 1) ++
        [s.slots.lastReason.toByte]))))) ∧
  ∀ (s : State) (r : Request), s.Ready → r.fits = true →
    exec (.policyRead r) s = .next (s.answered 0x03 r ((firstRefusal
      [(decide (r.reserved = 0), Reply.reservedField), (r.params.isEmpty, Reply.range)]).getD
      (.ok ([s.filter.mode.toByte] ++
        u32 s.filter.geo.flashSize ++ u32 s.filter.geo.slotSize ++ u32 s.filter.geo.apBase ++
        u32 s.filter.geo.recBase ++ u32 s.filter.geo.recSize ++
        [slotByte s.filter.mode.running] ++ u8 s.filter.table.entries.length ++
        (match s.filter.table.dflt with
          | some d =>
            [d.fill.toByte, d.readCond.toByte, d.writeCond.toByte, d.effRead.toByte,
              d.effWrite.toByte]
          | none => [0x01, 0, 0, 0, 0]) ++
        (s.filter.table.entries.flatMap fun e =>
          [e.loaded.anchor.toByte] ++ u32 e.loaded.offset ++ u32 e.loaded.size ++
            [e.loaded.fill.toByte, e.loaded.readCond.toByte, e.loaded.writeCond.toByte,
              e.effRead.toByte, e.effWrite.toByte]) ++
        u8 s.filter.table.tight.length ++
        s.filter.table.tight.zipIdx.flatMap fun e =>
          u8 (28 + e.2) ++ [e.1.anchor.toByte] ++ u32 e.1.offset ++ u32 e.1.size ++
            [e.1.readCond.toByte, e.1.writeCond.toByte, e.1.fill.toByte]))))

/-- O. A log record's bytes (Table 12-11, the kinds of Table 9-1). LOG_READ returns the summary and then
whole records from the start index, as many as fit in the 1996 bytes that the summary leaves, and changes
nothing (R156). -/
def Obligations.LogReadReturnsWholeRecords : Prop :=
  (∀ r : LogRec,
    let kind : Byte := match r.kind with
      | .part => 1
      | .manifest => 2
      | .image => 3
      | .policy => 4
      | .recovery => 5
      | .stage => 6
      | .external => 7
      | .ownerReset => 8
      | .overflow => 9
    r.bytes = [BitVec.ofNat 8 r.index, kind, r.stage.toByte, BitVec.ofNat 8 r.label.length] ++
      r.digest ++ r.label) ∧
  ∀ (s : State) (r : Request), s.Ready → r.fits = true →
    ∃ k, (∀ start, r.params = [start] →
        (((s.log.records.drop start.toNat).take k).flatMap LogRec.bytes).length ≤ 1996 ∧
        (k < (s.log.records.drop start.toNat).length →
          1996 < (((s.log.records.drop start.toNat).take (k + 1)).flatMap LogRec.bytes).length) ∧
        k ≤ (s.log.records.drop start.toNat).length) ∧
      exec (.logRead r) s = .next (s.answered 0x04 r ((firstRefusal
        [(decide (r.reserved = 0), Reply.reservedField),
          (decide (r.params.length = 1), Reply.range)]).getD
        (.ok (u8 s.log.records.length ++ flagByte s.log.overflow ++ [byteAt r.params 0] ++ u8 k ++
          s.log.chain ++
          ((s.log.records.drop (byteAt r.params 0).toNat).take k).flatMap LogRec.bytes))))

/-- O. The Presence Unit's codes (Table 12-2). CRED_LIST reports the Credential Store at S2 and above;
GATE_CLOSE closes the gate and stops GATE at every stage, raising nothing but SERVICE_DONE (R173). The
prescaler phase 0 of the stopped GATE is the model's (assumption 44); ButtonAndExpiries spells STOP
(R14). -/
def Obligations.CredListAndGateClose : Prop :=
  [PresenceState.idle, .pressed, .proven, .waitRelease].map PresenceState.toByte = [0, 1, 2, 3] ∧
  (∀ (s : State) (r : Request), s.Ready → r.fits = true →
    exec (.credList r) s = .next (s.answered 0x07 r ((firstRefusal
      [(Cond.atOrAbove2.holds s.stage, .detailed .stageDenied 0),
        (decide (r.reserved = 0), Reply.reservedField), (r.params.isEmpty, Reply.range)]).getD
      (.ok (u8 s.cred.failCount ++
        u16 (if s.timers.penalty.state = .running then s.timers.penalty.count else 0) ++
        u16 (if s.timers.gate.state = .running then s.timers.gate.count else 0) ++
        flagByte s.cred.gateOpen ++ [s.presence.state.toByte] ++
        (List.finRange 24).flatMap fun id =>
          match s.cred.creds[id] with
          | .empty => [0, if id = 0 then 1 else 0, 0]
          | .verifier label _ _ => [1, 1] ++ u8 label.length ++ label
          | .secret label _ cond gate =>
            [1, 2] ++ u8 label.length ++ label ++ [cond.toByte] ++ flagByte gate))))) ∧
  ∀ (s : State) (r : Request), s.Ready → r.fits = true →
    exec (.gateClose r) s = .next
      (match firstRefusal
          [(decide (r.reserved = 0), Reply.reservedField), (r.params.isEmpty, Reply.range)] with
        | some refusal => s.answered 0x44 r refusal
        | none =>
          State.answered { s with
            cred := { s.cred with gateOpen := false }
            timers := { s.timers with gate := s.timers.gate.stop } }
            0x44 r (.ok (flagByte s.cred.gateOpen)))

/-- O. The violation classes and the deciders (Table 12-2). EVENTS_READ reports the Event Unit before its
own SERVICE_DONE (R182); EVENTS_ACK removes the causes its mask names and empties the violation list when it
names VIOLATION (R183); EVENTS_ENABLE replaces the enabled set. -/
def Obligations.EventsCommands : Prop :=
  ([TxClass.read, .program, .erase4k, .erase64k, .eraseChip, .statusWrite, .other].map
      TxClass.toByte = [1, 2, 3, 4, 5, 6, 7] ∧
    (∀ i, (Decider.entry i).toByte = BitVec.ofNat 8 i ∧
      (Decider.tight i).toByte = BitVec.ofNat 8 (28 + i)) ∧
    [Decider.dflt, .slotLock, .unmapped, .apertureStray, .chipErase, .statusWrite,
      .otherCommand].map Decider.toByte = [32, 33, 34, 35, 36, 37, 38]) ∧
  (∀ (s : State) (r : Request), s.Ready → r.fits = true →
    exec (.eventsRead r) s = .next (s.answered 0x08 r ((firstRefusal
      [(decide (r.reserved = 0), Reply.reservedField), (r.params.isEmpty, Reply.range)]).getD
      (.ok (u16 s.events.pending.toNat ++ u16 s.events.enabled.toNat ++ u32 s.events.total ++
        u8 s.events.violations.length ++
        s.events.violations.flatMap fun v =>
          u32 v.first.addr ++
            [TxClass.toByte v.first.cls, v.first.stage.toByte, v.first.decider.toByte] ++
            u16 v.repeats))))) ∧
  (∀ (s : State) (r : Request), s.Ready → r.fits = true →
    let mask := BitVec.ofNat 11 (leAt r.params 0 2)
    exec (.eventsAck r) s = .next
      (match firstRefusal
          [(decide (r.reserved = 0), Reply.reservedField),
            (decide (r.params.length = 2), Reply.range)] with
        | some refusal => s.answered 0x50 r refusal
        | none =>
          State.answered { s with events := { s.events with
              pending := s.events.pending &&& ~~~mask
              violations := if mask.getLsbD 1 then [] else s.events.violations } }
            0x50 r (.ok (u16 (s.events.pending &&& ~~~mask).toNat)))) ∧
  ∀ (s : State) (r : Request), s.Ready → r.fits = true →
    let set := BitVec.ofNat 11 (leAt r.params 0 2)
    exec (.eventsEnable r) s = .next
      (match firstRefusal
          [(decide (r.reserved = 0), Reply.reservedField),
            (decide (r.params.length = 2), Reply.range)] with
        | some refusal => s.answered 0x51 r refusal
        | none =>
          State.answered { s with events := { s.events with enabled := set } } 0x51 r
            (.ok (u16 set.toNat)))

/-! ### Stage, log, policy, quotes -/

/-- O. The log's capacity rule: below 63 records the requested record is appended, at 63 an OVERFLOW record
takes its place, at 64 nothing is appended, and the appender is told which; the overflow flag of a
well-formed log is set exactly at 64 records (R150); each record made takes the next index and extends the
chain with the SHA-256 of the chain value and the record's bytes (R149). -/
def Obligations.LogCapacityAndChain : Prop :=
  ∀ (l : MeasLog) (k : LogKind) (st : Stage) (digest label : List Byte),
    let n := l.records.length
    (l.append k st digest label =
      if n < 63 then
        ⟨l.records ++ [⟨n, k, st, digest, label⟩],
          sha256 (l.chain ++ [BitVec.ofNat 8 n, k.toByte, st.toByte,
            BitVec.ofNat 8 label.length] ++ digest ++ label)⟩
      else if n = 63 then
        ⟨l.records ++ [⟨63, .overflow, st, List.replicate 32 0, []⟩],
          sha256 (l.chain ++ [63, 9, st.toByte, 0] ++ List.replicate 32 0)⟩
      else l) ∧
    l.outcome = (if n < 63 then .appended else if n = 63 then .overflowed else .dropped) ∧
    (LogWellFormed l → (l.overflow = true ↔ n = 64))

/-- O. STAGE_ADVANCE sets the stage to n when n is a numeric stage above the current one, closes the owner
gate (raising GATE_CLOSED, cause 6, if it was OPEN) and appends a STAGE record (R4). The prescaler phase 0
of the stopped GATE is the model's (assumption 44); ButtonAndExpiries spells STOP (R14). -/
def Obligations.StageAdvanceRaisesTheStage : Prop :=
  ∀ (s : State) (r : Request), s.Ready → r.fits = true →
    let n := (byteAt r.params 0).toNat
    let new := Stage.num (Fin.ofNat 8 n)
    exec (.stageAdvance r) s = .next
      (match firstRefusal
          [(decide (r.reserved = 0), Reply.reservedField),
            (decide (r.params.length = 1), Reply.range),
            (decide (1 ≤ n ∧ n ≤ 7), Reply.range),
            ((match s.stage with
              | .num k => decide (k.val < n)
              | .unset => false), .plain .wrongState)] with
        | some refusal => s.answered 0x10 r refusal
        | none =>
          State.answered { s with
            stage := new
            cred := { s.cred with gateOpen := false }
            timers := { s.timers with gate := s.timers.gate.stop }
            log := s.log.append .stage new zeroDigest []
            events := { s.events with pending :=
              if s.cred.gateOpen then s.events.pending ||| 64 else s.events.pending } }
            0x10 r (.ok [s.stage.toByte, new.toByte]))

/-- O. MEASURE_EXTEND appends one EXTERNAL record with the SoC's digest and label (R155): OK below 63
records, FULL with the OVERFLOW record's index and chain value at 63, refused FULL at 64. -/
def Obligations.MeasureExtendAppends : Prop :=
  ∀ (s : State) (r : Request), s.Ready → r.fits = true →
    let k := (byteAt r.params 32).toNat
    let log := s.log.append .external s.stage (r.params.take 32) ((r.params.drop 33).take k)
    exec (.measureExtend r) s = .next
      (match firstRefusal
          [(decide (s.fuses.image.lifecycle ≠ 0), .plain .lifecycleDenied),
            (decide (r.reserved = 0), Reply.reservedField),
            (decide (k ≤ 32 ∧ r.params.length = 33 + k), Reply.range),
            (decide (s.log.records.length < 64), .plain .full)] with
        | some refusal => s.answered 0x11 r refusal
        | none =>
          State.answered { s with log := log } 0x11 r
            ⟨if s.log.records.length < 63 then .ok else .full, 0,
              [BitVec.ofNat 8 s.log.records.length] ++ log.chain, false⟩)

/-- O. A condition byte's sixteen codes allow the stages of Table 1-1 (R6), and no-wider is inclusion of the
allowed sets over the nine stage values (R9). -/
def Obligations.StageConditionsAndNoWider : Prop :=
  (∀ (b : Fin 8) (n : Fin 8),
    let c := fun code => (Cond.mk code (BitVec.ofNat 4 b.val)).holds (.num n)
    let u := fun code => (Cond.mk code (BitVec.ofNat 4 b.val)).holds .unset
    (c 0 = false ∧ c 1 = false ∧ c 8 = true ∧ c 9 = true) ∧
    (c 2 = decide (n = b) ∧ c 3 = decide (n = b) ∧ c 10 = decide (n ≠ b) ∧
      c 11 = decide (n ≠ b)) ∧
    (c 4 = decide (n < b) ∧ c 5 = decide (n < b) ∧ c 12 = decide (b ≤ n) ∧
      c 13 = decide (b ≤ n)) ∧
    (c 6 = decide (n ≤ b) ∧ c 7 = decide (n ≤ b) ∧ c 14 = decide (b < n) ∧
      c 15 = decide (b < n)) ∧
    (u 1 = true ∧ u 3 = true ∧ u 5 = true ∧ u 7 = true ∧ u 8 = true ∧ u 10 = true ∧
      u 12 = true ∧ u 14 = true) ∧
    (u 0 = false ∧ u 2 = false ∧ u 4 = false ∧ u 6 = false ∧ u 9 = false ∧ u 11 = false ∧
      u 13 = false ∧ u 15 = false)) ∧
  ∀ c d : Cond, c.noWider d = true ↔ ∀ st, c.holds st = true → d.holds st = true

/-- O. POLICY_TIGHTEN (R53): form (a) replaces one effective condition with one no wider (R54), form (b)
adds a valid tightening entry while fewer than four are held (R55); ProcedureChecksInOrder spells its bytes
and its validity (R41). That a DEFAULT target with no table held is refused RANGE, and that form (b) is
taken in PASSTHROUGH after PROV_DEPLOY's OK and before its restart, is the model's (assumption 20). Selector
0 names the read condition and 1 the write condition; only that effective condition changes, the loaded one,
the other, the fill and the range stay (R42, R54). -/
def Obligations.PolicyTightenNarrows : Prop :=
  (∀ (e : ManifestEntry) (c : Cond), e.cond .read = e.effRead ∧ e.cond .write = e.effWrite ∧
    e.tighten .read c = ⟨e.loaded, c, e.effWrite⟩ ∧ e.tighten .write c = ⟨e.loaded, e.effRead, c⟩) ∧
  (∀ (d : DefaultEntry) (c : Cond), d.cond .read = d.effRead ∧ d.cond .write = d.effWrite ∧
    d.tighten .read c = ⟨d.fill, d.readCond, d.writeCond, c, d.effWrite⟩ ∧
    d.tighten .write c = ⟨d.fill, d.readCond, d.writeCond, d.effRead, c⟩) ∧
  ∀ (s : State) (r : Request), s.Ready → r.fits = true →
    let byte := fun i => (byteAt r.params i).toNat
    let deployed := decide (s.fuses.image.lifecycle ≠ 0)
    let target := byte 1
    let access : Access := if byte 2 = 1 then .write else .read
    let new := Cond.ofByte (byteAt r.params 3)
    let held : Option Cond :=
      if target = 32 then s.filter.table.dflt.map fun d => d.cond access
      else s.filter.table.entries[target]?.map fun e => e.cond access
    let entry := (r.params.drop 1).take 16
    let t := s.filter.table
    let put := fun (table : RegionTable) => { s with filter := { s.filter with table := table } }
    exec (.policyTighten r) s = .next
      (if byteAt r.params 0 = 1 then
        match firstRefusal
            [(deployed, .plain .lifecycleDenied), (decide (r.reserved = 0), Reply.reservedField),
              (decide (r.params.length = 4), Reply.range), (held.isSome, Reply.range),
              (decide (byte 2 ≤ 1), Reply.range), (decide (new.bound < 8), Reply.range),
              (new.noWider (held.getD new), Reply.widening)] with
        | some refusal => s.answered 0x12 r refusal
        | none =>
          State.answered (put
            (if target = 32 then { t with dflt := t.dflt.map fun d => d.tighten access new }
              else { t with entries := t.entries.modify target fun e => e.tighten access new }))
            0x12 r (.ok [byteAt r.params 1, byteAt r.params 2, (held.getD new).toByte, new.toByte])
      else if byteAt r.params 0 = 2 then
        match firstRefusal
            [(deployed, .plain .lifecycleDenied),
              (decide (r.reserved = 0) && zeroBytes r.params 4 1 && zeroBytes r.params 6 1 &&
                zeroBytes r.params 7 2, Reply.reservedField),
              (decide (r.params.length = 17), Reply.range),
              ((parseRegion entry).any fun e => e.valid s.filter.geo, Reply.range),
              (decide (t.tight.length < 4), .plain .full)] with
        | some refusal => s.answered 0x12 r refusal
        | none =>
          State.answered (put { t with tight := t.tight ++ (parseRegion entry).toList }) 0x12 r
            (.ok [BitVec.ofNat 8 (28 + t.tight.length)])
      else
        match firstRefusal
            [(deployed, .plain .lifecycleDenied), (decide (r.reserved = 0), Reply.reservedField),
              (false, Reply.range)] with
        | some refusal => s.answered 0x12 r refusal
        | none => s)

/-- O. QUOTE's gating (R157) and body (R158, Table 12-12): the part starts to sign the SHA-256 of the body
with the IDENTITY private part; the running slot's fields are zeros where there is none. That QUOTE is taken
in PASSTHROUGH too, between PROV_DEPLOY's OK and its restart, and its body then has mode 0, is the model's
(assumption 39). Zeros for a running slot without a summary, and the scalar 0 for a PRESENT key without a
private part, are the model's, in states no run reaches (R77, R133; assumption 34). -/
def Obligations.QuoteSignsTheBody : Prop :=
  ∀ (s : State) (r : Request), s.Ready → r.fits = true →
    let running : Option SlotId := match s.filter.mode with
      | .runA => some .a
      | .runB => some .b
      | .recovery => none
      | .passthrough => none
    let body := leBytes 16 s.fuses.image.deviceId.toNat ++
      [1, s.filter.mode.toByte, s.stage.toByte, slotByte running] ++
      (match running.bind fun x => (s.slot x).summary with
        | some m => [BitVec.ofNat 8 m.securityVersion] ++ leBytes 4 m.imageVersion ++ m.imageDigest
        | none => List.replicate 37 0) ++
      [BitVec.ofNat 8 s.fuses.image.count,
        BitVec.ofNat 8 (max s.fuses.image.count s.slots.pendingFloor)] ++
      leBytes 4 s.slots.bootCounter ++ leBytes 4 s.cred.ownerEpoch ++
      [s.slots.lastReason.toByte, BitVec.ofNat 8 s.log.records.length] ++
      flagByte s.log.overflow ++ s.log.chain ++ [BitVec.ofNat 8 r.params.length] ++ r.params
    exec (.quote r) s = .next
      (match firstRefusal
          [(decide (s.fuses.image.lifecycle ≠ 0), .plain .lifecycleDenied),
            (decide (r.reserved = 0), Reply.reservedField),
            (decide (8 ≤ r.params.length ∧ r.params.length ≤ 64), Reply.range),
            (s.keys[(0 : Fin 16)].present, .plain .emptyItem),
            (s.keys[(0 : Fin 16)].cond.holds s.stage, Reply.itemStage)] with
        | some refusal => s.answered 0x13 r refusal
        | none =>
          s.started 0x13 r (.sign (s.keys[(0 : Fin 16)].scalar.getD 0) (sha256 body) body))


/-! ### Updates -/

/-- O. UPDATE_VERIFY's gating, the taking of the target (R101) and the request of its manifest chunk (R81,
R31): the target becomes VERIFYING with its prior state kept, no record write is asked for. That the cursor
is 0, the digest not begun and no manifest held while that chunk is read is the model's (assumption 43). -/
def Obligations.UpdateVerifyTakesTheSlot : Prop :=
  ∀ (s : State) (r : Request), s.Ready → r.fits = true →
    let x := s.otherOfRun
    let base := if x = .a then 0 else s.filter.geo.slotSize
    let old := s.slot x
    exec (.updateVerify r) s = .next
      (match firstRefusal
          [(decide (s.fuses.image.lifecycle ≠ 0), .plain .lifecycleDenied),
            (Cond.atOrAbove2.holds s.stage, .detailed .stageDenied 0),
            (decide (r.reserved = 0), Reply.reservedField), (r.params.isEmpty, Reply.range),
            (s.runs && decide (old.state = .staged ∨ old.state = .verified ∨ old.state = .spare ∨
              old.state = .failed), .plain .wrongState)] with
        | some refusal => s.answered 0x20 r refusal
        | none =>
          { State.started { s with
              slots := s.slots.put x { old with state := .verifying, prior := old.state }
              ve := ⟨.manifest x, [], 0, ShaState.initial⟩
              down := if s.down.port = .idle then
                  { s.down with port := .carryingChunk, chunk := ⟨base, 4096, [], .inFlight⟩ }
                else { s.down with chunk := ⟨base, 4096, [], .waiting⟩ } } 0x20 r (.verify x) with
            out := ⟨[], if s.down.port = .idle then [.readFrom base] else []⟩ })

/-- O. UPDATE_ARM makes a VERIFIED other slot ARMED while the running slot is ACTIVE (R105), and
UPDATE_DISARM returns an ARMED one to VERIFIED (R106): at once, with the SLOT write asked for. The zeros
that UPDATE_ARM reports for a VERIFIED slot without a summary are the model's, in states no run reaches
(R77; assumption 34). -/
def Obligations.UpdateArmAndDisarm : Prop :=
  (∀ (s : State) (r : Request), s.Ready → r.fits = true →
    let x := s.otherOfRun
    exec (.updateArm r) s = .next
      (match firstRefusal
          [(Cond.atOrAbove2.holds s.stage, .detailed .stageDenied 0),
            (decide (r.reserved = 0), Reply.reservedField), (r.params.isEmpty, Reply.range),
            (s.runs && decide ((s.slot s.runningOfRun).state = .active) &&
              decide ((s.slot x).state = .verified), .plain .wrongState),
            (s.supply.normal, .plain .supplyLow)] with
        | some refusal => s.answered 0x21 r refusal
        | none =>
          (s.slotBecomes x ⟨.armed, .armed, .none, (s.slot x).summary⟩).answered 0x21 r
            (.ok ([x.toByte] ++
              (match (s.slot x).summary with
                | some m => [BitVec.ofNat 8 m.securityVersion] ++ leBytes 4 m.imageVersion
                | none => [0, 0, 0, 0, 0]))))) ∧
  ∀ (s : State) (r : Request), s.Ready → r.fits = true →
    let x := s.otherOfRun
    exec (.updateDisarm r) s = .next
      (match firstRefusal
          [(Cond.atOrAbove2.holds s.stage, .detailed .stageDenied 0),
            (decide (r.reserved = 0), Reply.reservedField), (r.params.isEmpty, Reply.range),
            (s.runs && decide ((s.slot x).state = .armed), .plain .wrongState),
            (s.supply.normal, .plain .supplyLow)] with
        | some refusal => s.answered 0x22 r refusal
        | none =>
          (s.slotBecomes x ⟨.verified, .verified, .none, (s.slot x).summary⟩).answered 0x22 r
            (.ok [x.toByte]))

/-- O. UPDATE_CONFIRM's gating and first acts (R108): TRIAL is stopped, and one COUNTERS write is asked for
with the new pending floor and revocation, computed from the trial slot's summary, which every TRIAL slot
has (R77). A refusal needs no summary: outside RUN_A and RUN_B there is no running slot, and the command is
refused WRONG_STATE. The prescaler phase 0 of the stopped TRIAL is the model's (assumption 44);
ButtonAndExpiries spells STOP (R14). -/
def Obligations.UpdateConfirmStarts : Prop :=
  ∀ (s : State) (r : Request), s.Ready → r.fits = true →
    let refused := firstRefusal
      [(Cond.atOrAbove2.holds s.stage, .detailed .stageDenied 0),
        (decide (r.reserved = 0), Reply.reservedField), (r.params.isEmpty, Reply.range),
        (s.runs && decide ((s.slot s.runningOfRun).state = .trial), .plain .wrongState),
        (s.supply.normal, .plain .supplyLow)]
    (∀ refusal, refused = some refusal →
      exec (.updateConfirm r) s = .next (s.answered 0x23 r refusal)) ∧
    ∀ m : Summary, refused = none → (s.slot s.runningOfRun).summary = some m →
      let floor := max s.slots.pendingFloor m.securityVersion
      let revoke := s.slots.pendingRevoke |||
        (if m.revokeOther = true then if m.authority = 0 then 2 else 1 else 0)
      exec (.updateConfirm r) s = .next
        ((State.asks { s with timers := { s.timers with trial := s.timers.trial.stop } }
          .counters .command (.confirm floor revoke)).started 0x23 r
          (.confirmCounters floor revoke []))

/-- O. REBOOT ends OK, with a platform restart due (R97). That the restart waits for its own row is the
model's (assumption 27). -/
def Obligations.RebootEndsThenRestarts : Prop :=
  ∀ (s : State) (r : Request), s.Ready → r.fits = true →
    exec (.reboot r) s = .next
      (match firstRefusal
          [(decide (r.reserved = 0), Reply.reservedField), (r.params.isEmpty, Reply.range)] with
        | some refusal => s.answered 0x24 r refusal
        | none =>
          let t := s.answered 0x24 r (.ok [])
          { t with engine := { t.engine with restartDue := some .reboot } })

/-- O. The platform restarts: the one that a REBOOT or PROV_DEPLOY response has called for (R97, R146), each
assertion of RESET_IN (R88) and an expiry of TRIAL (R107) make the first step of a boot flow (R89) with
their boot reason; RESET_IN's release changes the pin alone. The first step keeps the waiting list in its
order, less the requests of the command, whose changes of f alone stay (R104, R108, R127, R135, R166, R167);
the owner reset's stay (R177), and a write in progress finishes (R125). TRIAL_EXPIRY is the taking of an
expiry that the channel has produced; before its count has reached 0 there is none (R13). That each RESET_IN
row is an assertion, that a due restart waits for its row, that the row does nothing with none due, the
zeros beside a chunk in state NONE, the Verification Engine's cursor, digest and manifest at rest, and that
an ARRIVAL that stands across the restart is one of S0, and the prescaler phase 0 of the stopped channels,
are the model's (assumptions 23, 27, 26, 35, 16, 43, 18, 44). The geometry and the values of a CONFIG whose
first write is still in progress across a restart are the working copy's, which is the model's (assumption
48). -/
def Obligations.PlatformRestarts : Prop :=
  (∀ (s : State) (why : BootReason), s.powered = true → s.engine.restartDue = some why →
    exec .platformRestart s = .next (s.restarted why)) ∧
  (∀ s : State, s.powered = true → s.Quiet → s.engine.restartDue = none →
    exec .platformRestart s = .next { s with out := ⟨[], []⟩ }) ∧
  (∀ s : State, s.powered = true →
    exec .resetIn s = .next { s.restarted .resetIn with resetIn := true }) ∧
  (∀ s : State, s.powered = true → s.timers.trial.due = true →
    exec .trialExpiry s = .next (s.restarted .trialExpiry)) ∧
  (∀ s : State, s.powered = true → s.Quiet → s.timers.trial.due = false →
    exec .trialExpiry s = .next { s with out := ⟨[], []⟩ }) ∧
  ∀ s : State, s.powered = true → s.Quiet →
    exec .resetInRelease s = .next { s with resetIn := false, out := ⟨[], []⟩ }

/-! ### Keys -/

/-- O. KEY_SIGN's gating (R137) and start (R138): the given 32 bytes are signed with the slot's private
part, and GATE is restarted at acceptance when the slot has gate_required set. The scalar 0 of a PRESENT key
without a private part is the model's, in states no run reaches (assumption 34). -/
def Obligations.KeySignGatesAndStarts : Prop :=
  ∀ (s : State) (r : Request) (i : Fin 16), s.Ready → r.fits = true →
    (byteAt r.params 0).toNat % 16 = i.val →
    let p := (byteAt r.params 0).toNat
    let k := s.keys[i]
    exec (.keySign r) s = .next
      (match firstRefusal
          [(decide (r.reserved = 0), Reply.reservedField),
            (decide (r.params.length = 33), Reply.range),
            (decide (3 ≤ p ∧ p ≤ 15), Reply.range), (k.present, .plain .emptyItem),
            (k.cond.holds s.stage, Reply.itemStage),
            (!k.gateRequired || s.cred.gateOpen, .plain .gateClosed)] with
        | some refusal => s.answered 0x30 r refusal
        | none =>
          (if k.gateRequired = true then s.gateRestarted else s).started 0x30 r
            (.sign (k.scalar.getD 0) ((r.params.drop 1).take 32) [byteAt r.params 0]))

/-- O. KEY_GENERATE (R139) starts the generation of a pair for an EMPTY owner slot, and KEY_ERASE (R140)
asks for the KEY write that empties a PRESENT one: each with the gate OPEN and GATE restarted. -/
def Obligations.KeyGenerateAndErase : Prop :=
  ∀ (s : State) (r : Request) (i : Fin 16), s.Ready → r.fits = true →
    (byteAt r.params 0).toNat % 16 = i.val →
    let p := fun k => (byteAt r.params k).toNat
    let cond := Cond.ofByte (byteAt r.params 1)
    exec (.keyGenerate r) s = .next
      (match firstRefusal
          [(Cond.atOrAbove2.holds s.stage, .detailed .stageDenied 0),
            (decide (r.reserved = 0) && zeroBytes r.params 3 1, Reply.reservedField),
            (decide (4 ≤ p 0 ∧ p 0 ≤ 15), Reply.range), (decide (cond.bound < 8), Reply.range),
            (decide (p 2 ≤ 1), Reply.range), (decide (p 4 ≤ 16), Reply.range),
            (decide (r.params.length = 5 + p 4), Reply.range),
            (s.cred.gateOpen, .plain .gateClosed), (!s.keys[i].present, .plain .wrongState),
            (s.supply.normal, .plain .supplyLow)] with
        | some refusal => s.answered 0x31 r refusal
        | none =>
          s.gateRestarted.started 0x31 r
            (.generate (.owner i cond (decide (p 2 = 1)) ((r.params.drop 5).take (p 4))))) ∧
    exec (.keyErase r) s = .next
      (match firstRefusal
          [(Cond.atOrAbove2.holds s.stage, .detailed .stageDenied 0),
            (decide (r.reserved = 0), Reply.reservedField),
            (decide (r.params.length = 1), Reply.range),
            (decide (4 ≤ p 0 ∧ p 0 ≤ 15), Reply.range), (s.cred.gateOpen, .plain .gateClosed),
            (s.keys[i].present, .plain .emptyItem), (s.supply.normal, .plain .supplyLow)] with
        | some refusal => s.answered 0x32 r refusal
        | none =>
          (s.gateRestarted.asks (.key i) .command (.key (KeyRec.empty i))).started 0x32 r
            (.store [.key i] [BitVec.ofNat 8 i.val]))

/-- O. SIGNATURE_COMPLETE ends KEY_SIGN or QUOTE OK: the payload is what stood before the signature, then
the signature (R134, R138, R158); how many draws a signature takes is the model's (assumption 4).
GENERATION_COMPLETE: the scalar drawn from the internal random source becomes a PRESENT record (R134, R139,
R142), whose KEY write is asked for; the slot itself changes at that write's begin (R135). With an abort
request and a LOW supply that write's wait is an abort point, and the command ends ABORTED with no write
asked for (R71, R135). PROV_IDENTITY's two pairs are delivered together, and where an abort is observed, are
the model's (assumptions 22, 24). -/
def Obligations.SignatureAndGenerationComplete : Prop :=
  (∀ (s : State) (scalar : Nat) (digest before : List Byte), s.powered = true → s.NoWork →
    s.engine.state = .command (.sign scalar digest before) →
    let drawn := P256.signDraws scalar digest 64 s.draws
    exec .signatureComplete s = .next
      { s.finished (.ok (before ++ drawn.1)) with draws := drawn.2 }) ∧
  ∀ s : State, s.powered = true →
    let stops := s.engine.abortRequest = true ∧ s.supply.normal = false
    let answers := fun (asked : State) (w : CmdWork) =>
      (¬ stops → exec .generationComplete s = .next (asked.goesOn w)) ∧
      (stops → s.NoWork → (∀ v, s.records.writing = some v → ∀ q ∈ v.requesters, q.who ≠ .command) →
        exec .generationComplete s = .next (asked.abortedAt w))
    let pair := fun (k : Nat) (cond : Cond) (gate : Bool) (label : List Byte) =>
      let d := 1 + (Config.randomScalar (s.draws + k)).toNat % (P256.n - 1)
      (⟨true, P256.publicOf d, some d, cond, gate, label⟩ : KeyRec)
    (∀ (i : Fin 16) (cond : Cond) (gate : Bool) (label : List Byte),
      s.engine.state = .command (.generate (.owner i cond gate label)) →
      let k := pair 0 cond gate label
      answers (State.asks { s with draws := s.draws + 1 } (.key i) .command (.key k))
        (.store [.key i] ([BitVec.ofNat 8 i.val] ++ k.pub))) ∧
    (s.engine.state = .command (.generate .device) →
      let k0 := pair 0 ⟨8, 0⟩ false []
      let k3 := pair 1 ⟨13, 2⟩ false []
      answers ((State.asks { s with draws := s.draws + 2 } (.key 0) .command (.key k0)).asks (.key 3)
        .command (.key k3)) (.store [.key 0, .key 3] (k0.pub ++ k3.pub)))


/-! ### Owner credentials -/

/-- O. CRED_CHECK's gating (R165) and first act (R166): the attempt is counted by asking for a COUNTERS
write that carries an increment of f, before anything is compared. -/
def Obligations.CredCheckCountsFirst : Prop :=
  ∀ (s : State) (r : Request) (id : Fin 24), s.Ready → r.fits = true →
    (byteAt r.params 0).toNat % 24 = id.val →
    let p := fun k => (byteAt r.params k).toNat
    let c := s.cred.creds[id]
    exec (.credCheck r) s = .next
      (match firstRefusal
          [(Cond.atOrAbove2.holds s.stage, .detailed .stageDenied 0),
            (decide (r.reserved = 0), Reply.reservedField), (decide (p 0 ≤ 23), Reply.range),
            (decide (1 ≤ p 1 ∧ p 1 ≤ 64), Reply.range),
            (decide (r.params.length = 2 + p 1), Reply.range),
            ((match c with
              | .secret _ _ _ _ => false
              | .verifier _ _ _ => true
              | .empty => true), Reply.range),
            (decide (c ≠ .empty), .plain .emptyItem),
            (decide (s.cred.failCount < 20), .plain .locked),
            (decide (s.timers.penalty.state ≠ .running),
              ⟨.throttled, 0, leBytes 2 s.timers.penalty.count, false⟩),
            (s.supply.normal, .plain .supplyLow)] with
        | some refusal => s.answered 0x40 r refusal
        | none =>
          (s.asks .counters .command .credIncrement).started 0x40 r
            (.credIncrement id (r.params.drop 2)))

/-- O. CRED_CHECK's comparison, once the increment's write has completed (R166): on a match it asks for the
return of f to 0; on a mismatch it ends MISMATCH with the attempts left and the penalty, starting PENALTY
for 5 ≤ f ≤ 19 and setting LOCKED (cause 7) pending at f = 20 (R164, R167). -/
def Obligations.CredCheckCompares : Prop :=
  ∀ (s : State) (id : Fin 24) (candidate label salt digest : List Byte) (w : Writing),
    s.powered = true → s.NoWork → s.cred.failCount ≤ 20 →
    s.engine.state = .command (.credIncrement id candidate) →
    s.cred.creds[id] = .verifier label salt digest →
    s.records.writing = some w → w.record = .counters →
    (∃ q ∈ w.requesters, q.who = .command) →
    (∀ q ∈ w.requesters, ∀ f v, q.change ≠ .confirm f v) →
    let n := s.cred.failCount
    let pen := if n < 5 ∨ n = 20 then 0 else min (30 * 2 ^ (n - 5)) 3600
    let t := { s with records := { s.records with
      store := s.records.store.put .counters w.content, writing := none } }
    exec .recordWriteComplete s = .next
      (if sha256 (salt ++ candidate) = digest then
        (t.asks .counters .command .credClear).goesOn (.credClear id)
      else
        State.finished
          (if n = 20 then
            { t with events := { t.events with pending := t.events.pending ||| 128 } }
          else if pen = 0 then t
          else { t with timers := { t.timers with penalty := ⟨pen, 0, .running, false⟩ } })
          ⟨.mismatch, 0, [BitVec.ofNat 8 (20 - n)] ++ leBytes 2 pen, false⟩)

/-- O. A successful CRED_CHECK ends OK with its id when the return of f to 0 has been stored; for id 0 the
owner gate then opens and GATE starts, for another id the gate is left as it is (R162, R167). -/
def Obligations.CredCheckOpensTheGate : Prop :=
  ∀ (s : State) (id : Fin 24) (w : Writing), s.powered = true → s.NoWork →
    s.engine.state = .command (.credClear id) → s.records.writing = some w →
    w.record = .counters → (∃ q ∈ w.requesters, q.who = .command) →
    (∀ q ∈ w.requesters, ∀ f v, q.change ≠ .confirm f v) →
    let t := { s with records := { s.records with
      store := s.records.store.put .counters w.content, writing := none } }
    exec .recordWriteComplete s = .next
      ((if id = 0 then
        { t with
          cred := { t.cred with gateOpen := true }
          timers := { t.timers with gate := ⟨s.cred.gateIdle, 0, .running, false⟩ } }
      else t).finished (.ok [BitVec.ofNat 8 id.val]))

/-- O. CRED_SET (R169, R170): id 0 while it is EMPTY needs the presence proof and consumes it, every other
case needs the gate and restarts GATE; the SET record is built, a VERIFIER with a drawn salt, and its CRED
write asked for; a reserved field that is not 0 is refused RESERVED, and parameters of neither form are
refused RANGE. The salt drawn, one opaque value for each draw, is the model's (assumption 4), and so is the
phase 0 of the stopped PRESENCE (assumption 44). -/
def Obligations.CredSetBuildsTheRecord : Prop :=
  let asked := fun (s : State) (r : Request) (id : Fin 24) (draws : Nat) (c : Cred) =>
    let proof := id = 0 ∧ s.cred.creds[id] = .empty
    match firstRefusal
        [(Cond.atOrAbove2.holds s.stage, .detailed .stageDenied 0),
          (if proof then decide (s.presence.state = .proven) else s.cred.gateOpen,
            .plain .gateClosed),
          (s.supply.normal, .plain .supplyLow)] with
      | some refusal => s.answered 0x41 r refusal
      | none =>
        let t := if proof then { s with
            presence := { s.presence with state := .idle }
            timers := { s.timers with presence := s.timers.presence.stop } }
          else s.gateRestarted
        (State.asks { t with draws := draws } (.cred id) .command (.cred c)).started 0x41 r
          (.store [.cred id] [BitVec.ofNat 8 id.val])
  let labelOf := fun (label : List Byte) =>
    1 ≤ label.length ∧ label.length ≤ 16
  let verifier := fun (ps : List Byte) (id : Fin 24) (label pass : List Byte) =>
    labelOf label ∧ 1 ≤ pass.length ∧ pass.length ≤ 64 ∧
      ps = [BitVec.ofNat 8 id.val, 1, 0, BitVec.ofNat 8 label.length] ++ label ++
        [BitVec.ofNat 8 pass.length] ++ pass
  let secret := fun (ps : List Byte) (id : Fin 24) (label value : List Byte) (cond : Cond)
      (gate : Bool) =>
    id ≠ 0 ∧ labelOf label ∧ cond.bound < 8 ∧ 1 ≤ value.length ∧ value.length ≤ 128 ∧
      ps = [BitVec.ofNat 8 id.val, 2, 0, BitVec.ofNat 8 label.length] ++ label ++
        [cond.toByte, if gate = true then 1 else 0, BitVec.ofNat 8 value.length] ++ value
  (∀ (s : State) (r : Request) (id : Fin 24) (label pass : List Byte), s.Ready → r.fits = true →
    r.reserved = 0 → verifier r.params id label pass →
    let salt := leBytes 16 (Config.randomSalt s.draws).toNat
    exec (.credSet r) s = .next
      (asked s r id (s.draws + 1) (.verifier label salt (sha256 (salt ++ pass))))) ∧
  (∀ (s : State) (r : Request) (id : Fin 24) (label value : List Byte) (cond : Cond) (gate : Bool),
    s.Ready → r.fits = true → r.reserved = 0 → secret r.params id label value cond gate →
    exec (.credSet r) s = .next (asked s r id s.draws (.secret label value cond gate))) ∧
  (∀ (s : State) (r : Request), s.Ready → r.fits = true → r.reserved ≠ 0 →
    ((∃ id label pass, verifier r.params id label pass) ∨
      ∃ id label value cond gate, secret r.params id label value cond gate) →
    exec (.credSet r) s = .next (s.answered 0x41 r ((firstRefusal
      [(Cond.atOrAbove2.holds s.stage, .detailed .stageDenied 0)]).getD Reply.reservedField))) ∧
  ∀ (s : State) (r : Request), s.Ready → r.fits = true →
    (¬ ∃ id label pass, verifier r.params id label pass) →
    (¬ ∃ id label value cond gate, secret r.params id label value cond gate) →
    exec (.credSet r) s = .next (s.answered 0x41 r ((firstRefusal
      [(Cond.atOrAbove2.holds s.stage, .detailed .stageDenied 0),
        (decide (r.reserved = 0) && zeroBytes r.params 2 1, Reply.reservedField)]).getD
      Reply.range))

/-- O. CRED_GET returns a SECRET's value when its release condition holds and, where gate_required is set,
the gate is OPEN, restarting GATE (R171); CRED_DELETE asks for the CRED write that empties a SET record
other than id 0 (R172). -/
def Obligations.CredGetAndDelete : Prop :=
  ∀ (s : State) (r : Request) (id : Fin 24), s.Ready → r.fits = true →
    (byteAt r.params 0).toNat % 24 = id.val →
    let p := (byteAt r.params 0).toNat
    let common :=
      [(Cond.atOrAbove2.holds s.stage, .detailed .stageDenied 0),
        (decide (r.reserved = 0), Reply.reservedField),
        (decide (r.params.length = 1), Reply.range), (decide (1 ≤ p ∧ p ≤ 23), Reply.range)]
    exec (.credGet r) s = .next
      (match s.cred.creds[id] with
        | .verifier _ _ _ => s.answered 0x42 r ((firstRefusal common).getD Reply.range)
        | .empty => s.answered 0x42 r ((firstRefusal common).getD (.plain .emptyItem))
        | .secret _ value cond gate =>
          match firstRefusal (common ++
              [(cond.holds s.stage, Reply.itemStage),
                (!gate || s.cred.gateOpen, .plain .gateClosed)]) with
            | some refusal => s.answered 0x42 r refusal
            | none =>
              (if gate = true then s.gateRestarted else s).answered 0x42 r
                (.ok ([BitVec.ofNat 8 p, BitVec.ofNat 8 value.length] ++ value))) ∧
    exec (.credDelete r) s = .next
      (match firstRefusal (common ++
          [(s.cred.gateOpen, .plain .gateClosed),
            (decide (s.cred.creds[id] ≠ .empty), .plain .emptyItem),
            (s.supply.normal, .plain .supplyLow)]) with
        | some refusal => s.answered 0x43 r refusal
        | none =>
          (s.gateRestarted.asks (.cred id) .command (.cred .empty)).started 0x43 r
            (.store [.cred id] [BitVec.ofNat 8 id.val]))

/-! ### Provisioning -/

/-- O. PROV_CONFIG's parameters (Table 12-5). PROV_CONFIG (R141) and PROV_IDENTITY (R142) in FACTORY:
CONFIG's values are checked against the ranges of R141 and its write asked for; the generation of the two
device pairs starts. -/
def Obligations.ProvConfigAndIdentity : Prop :=
  (∀ ps : List Byte, parseConfig ps = ⟨⟨leAt ps 0 4, leAt ps 4 4, leAt ps 8 4, leAt ps 12 4,
    leAt ps 16 4⟩, leAt ps 20 2, leAt ps 22 2, (byteAt ps 24).toNat, leAt ps 25 2,
    (byteAt ps 27).toNat⟩) ∧
  (∀ (s : State) (r : Request), s.Ready → r.fits = true →
    let c := parseConfig r.params
    let g := c.geo
    exec (.provConfig r) s = .next
      (match firstRefusal
          [(decide (s.fuses.image.lifecycle = 0), .plain .lifecycleDenied),
            (decide (r.reserved = 0) && zeroBytes r.params 28 4, Reply.reservedField),
            (decide (r.params.length = 32), Reply.range),
            (decide ((g.flashSize = 16777216 ∨ g.flashSize = 33554432 ∨ g.flashSize = 67108864) ∧
              (65536 ∣ g.slotSize ∧ 1048576 ≤ g.slotSize ∧ 2 * g.slotSize + 65536 ≤ g.flashSize) ∧
              (65536 ∣ g.apBase ∧ 2 * g.slotSize ≤ g.apBase ∧ g.apBase + 65536 ≤ g.flashSize) ∧
              (65536 ∣ g.recSize ∧ 65536 ≤ g.recSize ∧ g.recSize ≤ g.slotSize) ∧
              (65536 ∣ g.recBase ∧ 2 * g.slotSize ≤ g.recBase ∧
                g.recBase + g.recSize ≤ g.flashSize) ∧
              (g.recBase + g.recSize ≤ g.apBase ∨ g.apBase + 65536 ≤ g.recBase) ∧
              (2600 ≤ c.threshold ∧ c.threshold ≤ 3400) ∧
              (50 ≤ c.hysteresis ∧ c.hysteresis ≤ 300) ∧ (1 ≤ c.samples ∧ c.samples ≤ 16) ∧
              (60 ≤ c.gateIdle ∧ c.gateIdle ≤ 3600) ∧ 3 ≤ c.holdTime ∧ c.holdTime ≤ 30),
              Reply.range),
            (s.supply.normal, .plain .supplyLow)] with
        | some refusal => s.answered 0x60 r refusal
        | none =>
          (s.asks .config .command (.config c)).started 0x60 r (.store [.config] []))) ∧
  ∀ (s : State) (r : Request), s.Ready → r.fits = true →
    exec (.provIdentity r) s = .next
      (match firstRefusal
          [(decide (s.fuses.image.lifecycle = 0), .plain .lifecycleDenied),
            (decide (r.reserved = 0), Reply.reservedField), (r.params.isEmpty, Reply.range),
            (s.supply.normal, .plain .supplyLow)] with
        | some refusal => s.answered 0x61 r refusal
        | none => s.started 0x61 r (.generate .device))

/-- O. PROV_AUTHORITY (R143) takes a public key that is a point of P-256 for slot 1 or 2, PROV_CERT (R144) a
certificate of 1 to 1536 bytes; each asks for its write. The two length bytes of PROV_CERT's payload are the
model's (assumption 13). -/
def Obligations.ProvAuthorityAndCert : Prop :=
  (∀ (s : State) (r : Request), s.Ready → r.fits = true →
    let index := (byteAt r.params 0).toNat
    let pub := (r.params.drop 4).take 64
    let x := fromBe (pub.take 32)
    let y := fromBe ((pub.drop 32).take 32)
    let i : Fin 16 := if index = 0 then 1 else 2
    exec (.provAuthority r) s = .next
      (match firstRefusal
          [(decide (s.fuses.image.lifecycle = 0), .plain .lifecycleDenied),
            (decide (r.reserved = 0) && zeroBytes r.params 1 3, Reply.reservedField),
            (decide (r.params.length = 68), Reply.range), (decide (index ≤ 1), Reply.range),
            (decide (x < P256.p ∧ y < P256.p ∧
              y * y % P256.p = (x * x * x + (P256.p - 3) * x + P256.b) % P256.p), Reply.range),
            (s.supply.normal, .plain .supplyLow)] with
        | some refusal => s.answered 0x62 r refusal
        | none =>
          (s.asks (.key i) .command (.key ⟨true, pub, none, ⟨0, 0⟩, false, []⟩)).started 0x62 r
            (.store [.key i] [BitVec.ofNat 8 i.val]))) ∧
  ∀ (s : State) (r : Request), s.Ready → r.fits = true →
    exec (.provCert r) s = .next
      (match firstRefusal
          [(decide (s.fuses.image.lifecycle = 0), .plain .lifecycleDenied),
            (decide (r.reserved = 0), Reply.reservedField),
            (decide (1 ≤ r.params.length ∧ r.params.length ≤ 1536), Reply.range),
            (s.supply.normal, .plain .supplyLow)] with
        | some refusal => s.answered 0x63 r refusal
        | none =>
          (s.asks .cert .command (.cert r.params)).started 0x63 r
            (.store [.cert] (leBytes 2 r.params.length)))

/-- O. PROV_DEPLOY's gating (R145) and first act (R146, R122): with the five items in the Record Store, the
burn of LIFECYCLE bit 0 is requested, its first attempt beginning unless another burn is in progress
(R119). -/
def Obligations.ProvDeployStarts : Prop :=
  ∀ (s : State) (r : Request), s.Ready → r.fits = true →
    let st := s.records.store
    let present := fun (i : Fin 16) => (st.keys[i]).any fun k => k.present
    let missing : List Byte :=
      (if st.config.isSome then [] else [1]) ++ (if present 0 then [] else [2]) ++
        (if present 3 then [] else [3]) ++ (if present 1 then [] else [4]) ++
        (if st.cert.isSome then [] else [5])
    exec (.provDeploy r) s = .next
      (match firstRefusal
          [(decide (s.fuses.image.lifecycle = 0), .plain .lifecycleDenied),
            (decide (r.reserved = 0), Reply.reservedField), (r.params.isEmpty, Reply.range),
            (missing.isEmpty, ⟨.missingItem, 0, [BitVec.ofNat 8 missing.length] ++ missing, false⟩),
            (s.supply.normal, .plain .supplyLow)] with
        | some refusal => s.answered 0x64 r refusal
        | none =>
          State.started { s with fuses :=
              if s.fuses.burn.isSome then
                { s.fuses with queue := s.fuses.queue ++ [⟨⟨.lifecycle, 0⟩, .command⟩] }
              else { s.fuses with burn := some ⟨⟨.lifecycle, 0⟩, 0, .command⟩ } }
            0x64 r (.deployBurn 0 false))

/-! ### The engine at work -/

/-- O. A completed frame while the engine works (R66): refused during a command, refused during a job that
already has a held frame, else held, QUEUED, with the response before it kept aside (R64, R65); and no frame
reaches the part during S0 (R19). What an engine that becomes idle takes up (R68): each row that can end its
work answers what it answers of itself, the pending-job set and the held frame out of its sight; where that
leaves the engine idle, the pending jobs start, OWNER_RESET first (Safety's startsJob), and an engine left
idle then takes the held frame, which is gated and performed as its command's row says, QUEUED becoming
RUNNING with its refused-frame count and PREVIOUS_UNREAD (R64 to R66), a code of no row being answered
UNKNOWN_COMMAND (R72). The phase 0 of a GATE that OWNER_RESET stops is the model's (assumption 44). -/
def Obligations.FramesWhileTheEngineWorks : Prop :=
  (∀ (s : State) (c : Instr) (code : Byte) (r : Request), serviceRow c = some (code, r) →
    r.fits = true → s.powered = true →
    let refused := { s with out := ⟨[], []⟩, aperture := { s.aperture with
      rx := none
      resp := { s.aperture.resp with refused := min (s.aperture.resp.refused + 1) 255 } } }
    (s.stage ≠ .s0 → ∀ w, s.engine.state = .command w → exec c s = .next refused) ∧
    (s.stage ≠ .s0 → ∀ w, s.engine.state = .job w → s.aperture.resp.state = .queued →
      exec c s = .next refused) ∧
    (s.stage ≠ .s0 → ∀ w, s.engine.state = .job w → s.aperture.resp.state ≠ .queued →
      exec c s = .next { s with out := ⟨[], []⟩, aperture :=
        { rx := none
          resp := ⟨.queued, code, r.tag, .ok, 0,
            decide (s.aperture.resp.state = .done) && s.aperture.resp.unread, false, 0, [], false⟩
          aside := some s.aperture.resp
          held := some ⟨code, r.tag, r.reserved, r.params⟩ } }) ∧
    (s.stage = .s0 → s.Quiet → exec c s = .next { s with out := ⟨[], []⟩ })) ∧
  ∀ (s v : State) (ends : Instr), s.powered = true → s.flow.phase = .none →
    (ends = .signatureComplete ∨ ends = .generationComplete ∨ ends = .recordWriteComplete ∨
      ends = .entryIntoLow ∨ (∃ back, ends = .fuseAttemptDone back) ∨
      (∃ data, ends = .chunkComplete data) ∨
      (s.aperture.resp.state ≠ .queued ∧ ∃ x, ends = .erase4k x ∨ ends = .erase64k x)) →
    exec ends (s.withWork false false none) = .next v →
    let w := v.withWork s.engine.ownerResetPending s.engine.floorBurnPending s.aperture.held
    (v.engine.state ≠ .idle → exec ends s = .next w) ∧
    (v.engine.state = .idle →
      let u := w.startsJob
      (u.engine.state ≠ .idle ∨ u.aperture.held = none → exec ends s = .next u) ∧
      ∀ f, u.engine.state = .idle → u.aperture.held = some f →
        (∀ row q t, serviceRow row = some (f.code, q) → f = ⟨f.code, q.tag, q.reserved, q.params⟩ →
          q.fits = true → u.powered = true → u.stage ≠ .s0 → exec row u.unheld = .next t →
          exec ends s = .next (u.afterHeld t)) ∧
        ((∀ row q, serviceRow row ≠ some (f.code, q)) → exec ends s = .next { u with
          aperture := { u.aperture with
            resp := ⟨.done, f.code, f.tag, .unknownCommand, 0, u.aperture.resp.previousUnread, false,
              u.aperture.resp.refused, [], true⟩
            aside := none, held := none }
          engine := { u.engine with abortRequest := false }
          events := { u.events with pending := u.events.pending ||| 1 } }))


/-! ### The flash path -/

/-- O. ARRIVAL keeps the class and the address the command byte carries, and the stage, the mode, the Window
Map, the Region Table, the slots' states and BUSY as they stand (R17, R50). WREN sets WEL and clears DENIED
unless its snapshot is busy; WRDI clears WEL; FLASH_RESET clears WEL and DENIED (R20, R28); each uses up its
ARRIVAL, and one that arrived in S0 changes nothing else. A transaction with no ARRIVAL of its own arrives
as it is handled, in the current stage (R1, R5, R17). Which ARRIVAL a transaction uses is the model's
(assumption 18). -/
def Obligations.ArrivalsAndControlTransactions : Prop :=
  ∀ s : State, s.powered = true → s.Quiet →
    let flags := fun (wel denied : Bool) =>
      { s with out := ⟨[], []⟩, up := { s.up with arrived := none, wel := wel, denied := denied } }
    let snap : Snapshot := ⟨s.stage, s.filter.mode, s.filter.geo, s.filter.table,
      s.slots.slotA.state, s.slots.slotB.state, decide (s.down.port = .flashBusy)⟩
    (∀ (cmd : Byte) (addr : BitVec 32),
      let kept : Arrived := ⟨upstreamClass cmd, addr.toNat % 256 ^ addressBytes cmd, snap⟩
      exec (.arrival cmd addr) s = .next { s with
        out := ⟨[], []⟩, up := { s.up with arrived := some kept } } ∧
      ∀ t : State, t.up.arrived = some kept → t.snapFor kept.cls kept.addr = snap) ∧
    (∀ (cls : TxClass) (addr : Nat),
      (∀ k, s.up.arrived = some k → k.cls ≠ cls ∨ k.addr ≠ addr) → s.snapFor cls addr = snap) ∧
    exec .wren s = .next
      (if (s.snapFor .wren 0).stage = .s0 ∨ (s.snapFor .wren 0).busy = true then
        flags s.up.wel s.up.denied else flags true false) ∧
    exec .wrdi s = .next
      (if (s.snapFor .wrdi 0).stage = .s0 then flags s.up.wel s.up.denied
        else flags false s.up.denied) ∧
    exec .flashReset s = .next
      (if (s.snapFor .flashReset 0).stage = .s0 then flags s.up.wel s.up.denied
        else flags false false)

/-- O. STATUS_READ sends the named status byte over and over (R24), IDENT the three captured bytes and then
0xFF (R25); in S0 each sends 0xFF. Which ARRIVAL a transaction uses, and one value for one STATUS_READ, are
the model's (assumptions 17, 18). -/
def Obligations.StatusAndIdentAreSent : Prop :=
  ∀ s : State, s.powered = true → s.Quiet →
    let sends := fun (bytes : List Byte) =>
      { s with out := ⟨bytes, []⟩, up := { s.up with arrived := none } }
    let bit := fun (b : Bool) (mask : Byte) => if b = true then mask else 0
    let working : Bool := decide (s.aperture.resp.state = .queued) ||
      decide (s.aperture.resp.state = .running) ||
      (match s.engine.state with
        | .idle => false
        | .command _ => false
        | .job _ => true)
    let alert := decide (s.events.pending &&& s.events.enabled ≠ 0)
    (∀ count,
      exec (.statusRead .one count) s = .next (sends (List.replicate count
        (if (s.snapFor .statusRead1 0).stage = .s0 then 0xff else
          bit (decide (s.down.port = .flashBusy)) 0x01 + bit s.up.wel 0x02 +
            bit s.up.denied 0x20))) ∧
      exec (.statusRead .two count) s = .next (sends (List.replicate count
        (if (s.snapFor .statusRead2 0).stage = .s0 then 0xff else
          bit working 0x01 + bit alert 0x02)))) ∧
    ∀ count, exec (.ident count) s = .next (sends
      (if (s.snapFor .ident 0).stage = .s0 then List.replicate count 0xff
        else (List.range count).map fun i =>
          if i = 0 then s.down.id0 else if i = 1 then s.down.id1 else if i = 2 then s.down.id2
          else 0xff))

/-- O. Every transaction of class OTHER outside S0 clocks out 0xFF and hands the Event Unit one violation
(R29), which merges with the newest record of the violation list when class, decider and stage are the same,
and else is added while the list holds fewer than 16 (R181). STATUS_WRITE and ERASE_CHIP: forwarded in
FACTORY when WEL is set and the snapshot is not busy (R26, R27); in DEPLOYED a STATUS_WRITE is always a
violation that leaves DENIED, and an ERASE_CHIP that is judged is dropped, setting DENIED; WEL is cleared by
each that is judged. Which ARRIVAL a transaction uses is the model's (assumption 18). -/
def Obligations.OtherStatusWriteAndEraseChip : Prop :=
  (∀ (s : State) (cmd : Byte) (data : List Byte) (count : Nat), s.powered = true → s.Quiet →
    let p := s.snapFor .other 0
    let v : Violation := ⟨0, .other, p.stage, .otherCommand⟩
    let list := s.events.violations
    let merged : ViolationRec → Prop := fun q =>
      q.first.cls = .other ∧ q.first.decider = .otherCommand ∧ q.first.stage = p.stage
    let sent := { s with
      out := ⟨List.replicate count 0xff, []⟩, up := { s.up with arrived := none } }
    let handed := fun (new : List ViolationRec) => { sent with events := { s.events with
      pending := s.events.pending ||| 2, violations := new
      total := min (s.events.total + 1) 4294967295 } }
    (p.stage = .s0 → exec (.other cmd data count) s = .next sent) ∧
    (p.stage ≠ .s0 →
      (∀ old q, list = old ++ [q] → merged q →
        exec (.other cmd data count) s = .next
          (handed (old ++ [{ q with repeats := min (q.repeats + 1) 65535 }]))) ∧
      ((∀ old q, list = old ++ [q] → ¬ merged q) → list.length < 16 →
        exec (.other cmd data count) s = .next (handed (list ++ [⟨v, 1⟩]))) ∧
      ((∀ old q, list = old ++ [q] → ¬ merged q) → 16 ≤ list.length →
        exec (.other cmd data count) s = .next (handed list)))) ∧
  ∀ (s : State) (data : List Byte), s.powered = true → s.Quiet →
    let factory := s.fuses.image.lifecycle = 0
    let after := { s with out := ⟨[], []⟩, up := { s.up with arrived := none } }
    let sent := fun (op : DownOp) => { after with
      out := ⟨[], [.writeEnable, op]⟩
      up := { after.up with wel := false }
      down := { s.down with
        port := .flashBusy
        chunk := { s.down.chunk with st :=
          if s.down.chunk.st = .inFlight then .waiting else s.down.chunk.st } } }
    let p := s.snapFor .statusWrite 0
    let q := s.snapFor .eraseChip 0
    exec (.statusWrite data) s = .next
      (if p.stage = .s0 then after
      else if factory then
        if s.up.wel = true ∧ p.busy = false then sent (.statusWrite data) else after
      else
        State.violate { after with up := { after.up with wel := false } }
          ⟨0, .statusWrite, p.stage, .statusWrite⟩) ∧
    exec .eraseChip s = .next
      (if q.stage = .s0 then after
      else if s.up.wel = true ∧ q.busy = false then
        if factory then sent .eraseChip
        else State.violate { after with up := { after.up with wel := false, denied := true } }
          ⟨0, .eraseChip, q.stage, .chipErase⟩
      else after)

/-- O. A byte outside the aperture is judged by its deciding entry, the lowest-indexed manifest entry that
covers it, else the default entry (R42); a tightening entry that covers it and does not allow the access
denies it as well, the lowest such entry naming the violation (R48, R52). In PASSTHROUGH every byte passes
(R46). Which physical bytes an entry covers follows from its anchor and the mode (R41), where a logical
address lies in the flash from Table 3-1 (R36), and which slot a physical byte lies in from S (R35, R47). A
read is judged by an entry's effective read condition, a write by its effective write condition, and by a
tightening entry's own read or write condition (R42, R52). Every table that judges has a default entry (R42,
R44, R45, R58): that a byte which no entry decides is judged by the tightening entries alone is the model's,
in states no run reaches (assumption 34). -/
def Obligations.JudgeFollowsTheTable : Prop :=
  (∀ e : ManifestEntry, e.cond .read = e.effRead ∧ e.cond .write = e.effWrite) ∧
  (∀ d : DefaultEntry, d.cond .read = d.effRead ∧ d.cond .write = d.effWrite) ∧
  (∀ r : Region, r.cond .read = r.readCond ∧ r.cond .write = r.writeCond) ∧
  ∀ (p : Snapshot) (a : Access) (phys : Nat),
    let covers := fun (r : Region) => r.covers p.mode p.geo phys = true
    let tightAt := fun (i : Nat) (r : Region) => p.table.tight[i]? = some r ∧ covers r ∧
      (r.cond a).holds p.stage = false
    let tightOk := ∀ i r, ¬ tightAt i r
    let tightOut := fun (out : Option (Fill × Decider)) => (tightOk → out = none) ∧
      ∀ i r, tightAt i r → (∀ j r', j < i → ¬ tightAt j r') → out = some (r.fill, .tight i)
    (p.mode = .passthrough → p.judge a phys = none) ∧
    (p.mode ≠ .passthrough →
      (∀ i e, p.table.entries[i]? = some e → covers e.loaded →
        (∀ j e', j < i → p.table.entries[j]? = some e' → ¬ covers e'.loaded) →
        ((e.cond a).holds p.stage = false → p.judge a phys = some (e.loaded.fill, .entry i)) ∧
        ((e.cond a).holds p.stage = true → tightOut (p.judge a phys))) ∧
      ((∀ e ∈ p.table.entries, ¬ covers e.loaded) →
        (∀ d, p.table.dflt = some d →
          ((d.cond a).holds p.stage = false → p.judge a phys = some (d.fill, .dflt)) ∧
          ((d.cond a).holds p.stage = true → tightOut (p.judge a phys))) ∧
        (p.table.dflt = none → tightOut (p.judge a phys)))) ∧
    (∀ r : Region,
      let within := fun (base : Nat) => base + r.offset ≤ phys ∧ phys < base + r.offset + r.size
      (r.anchor = .absolute → (covers r ↔ within 0)) ∧
      (r.anchor = .runningSlot → p.mode = .runA → (covers r ↔ within 0)) ∧
      (r.anchor = .runningSlot → p.mode = .runB → (covers r ↔ within p.geo.slotSize)) ∧
      (r.anchor = .runningSlot → p.mode = .recovery → ¬ covers r) ∧
      (r.anchor = .otherSlot → p.mode = .runA → (covers r ↔ within p.geo.slotSize)) ∧
      (r.anchor = .otherSlot → p.mode = .runB ∨ p.mode = .recovery → (covers r ↔ within 0))) ∧
    (∀ l : Nat,
      (p.mode = .passthrough ∨ p.mode = .runA → translate p.mode p.geo l = some l) ∧
      (p.mode = .runB → translate p.mode p.geo l =
        if l < 2 * p.geo.slotSize then some ((l + p.geo.slotSize) % (2 * p.geo.slotSize))
        else some l) ∧
      (p.mode = .recovery → p.geo.recSize ≤ p.geo.slotSize →
        (l < p.geo.recSize → translate p.mode p.geo l = some (p.geo.recBase + l)) ∧
        (p.geo.recSize ≤ l → l < p.geo.slotSize → translate p.mode p.geo l = none) ∧
        (p.geo.slotSize ≤ l → l < 2 * p.geo.slotSize →
          translate p.mode p.geo l = some (l - p.geo.slotSize)) ∧
        (2 * p.geo.slotSize ≤ l → translate p.mode p.geo l = some l))) ∧
    (slotOfPhys p.geo phys = some .a ↔ phys < p.geo.slotSize) ∧
    (slotOfPhys p.geo phys = some .b ↔ p.geo.slotSize ≤ phys ∧ phys < 2 * p.geo.slotSize)

/-- O. A READ outside the aperture, outside S0 and not busy whose bytes are all mapped: an allowed byte is
the flash's, a denied byte the fill of its decider (R48); the READ hands one violation, for its lowest
denied byte in order, takes the port, and reads the flash anew wherever the physical address does not follow
on (R30, R39). Every READ, whatever its bytes, goes byte by byte: a part of n + 1 bytes is one byte, then n,
and what each byte is, and leaves, is said by itself: in S0, in the aperture (R59, R65), unmapped (R38),
busy (R23), or of the flash. In whatever parts a READ comes, it hands one violation at most, for its first
denied byte (R39, R48). The flash bytes stand in the operand, and ReadsThatNeedNoFlash spells the response
header. Which ARRIVAL's snapshot a READ uses, and that a READ that is not busy leaves a port in FLASH_BUSY
there, are the model's (assumption 18), and so is that a READ is sent in parts (assumptions 5, 6). -/
def Obligations.ReadPassesOrMasks : Prop :=
  (∀ (s : State) (addr : Address) (flash : List Byte) (count : Nat), s.powered = true → s.Quiet →
    flash.length = count → 0 < count →
    let a := addressValue addr
    let p := s.snapFor .read a
    let l := fun i => (a + i) % p.geo.flashSize
    p.stage ≠ .s0 → p.busy = false → s.down.port ≠ .flashBusy →
    (∀ i, i < count → p.geo.inAperture (l i) = false ∧
      translate p.mode p.geo (l i) ≠ none) →
    let judged := fun i => (translate p.mode p.geo (l i)).bind (p.judge .read)
    let bytes := (List.range count).map fun i =>
      match judged i with
      | none => byteAt flash i
      | some (fill, _) => fill.toByte
    let first := ((List.range count).filterMap fun i =>
      (judged i).map fun d => (⟨l i, .read, p.stage, d.2⟩ : Violation)).head?
    let phys := fun i => (translate p.mode p.geo (l i)).getD 0
    let ops := (List.range count).filterMap fun i =>
      if i ≠ 0 ∧ phys i = phys (i - 1) + 1 then none else some (.readFrom (phys i))
    exec (.read (.start addr) count flash) s = .next
      (let t := { s with
        out := ⟨bytes, ops⟩
        up := { s.up with
          arrived := none
          reads := s.up.reads ++
            [⟨a, count, p, true, some (phys (count - 1) + 1), first.isSome⟩] }
        down := { s.down with
          port := .carryingSoc
          chunk := if s.down.port = .carryingChunk then s.down.chunk.preempted
            else s.down.chunk } }
      match first with
      | none => t
      | some v => t.violate v)) ∧
  (∀ (s : State) (addr : Address) (flash : List Byte) (count : Nat), s.powered = true → s.Quiet →
    let a := addressValue addr
    exec (.read (.start addr) count flash) s = exec (.read .more count flash)
      { s with up := { s.up with
        arrived := none, reads := s.up.reads ++ [⟨a, 0, s.snapFor .read a, false, none, false⟩] } }) ∧
  ∀ (s : State) (flash : List Byte) (old : List OpenRead) (r : OpenRead), s.powered = true →
    s.Quiet → s.up.reads = old ++ [r] →
    let p := r.snap
    let l := fun i => (r.addr + r.sent + i) % p.geo.flashSize
    let fills := p.stage = .s0 ∨ (p.geo.inAperture (l 0) = false ∧
      (p.busy = true ∨ translate p.mode p.geo (l 0) = none))
    let off := l 0 - p.geo.apBase
    let image := s.responseHeader ++
      (if s.aperture.resp.state = .done then s.aperture.resp.payload else [])
    let sends := fun (b : Byte) (r' : OpenRead) =>
      { s with out := ⟨[b], []⟩, up := { s.up with reads := old ++ [r'] } }
    let goesOn := { r with sent := r.sent + 1, nextPhys := none }
    let denied := fun i => if p.stage = .s0 ∨ p.geo.inAperture (l i) = true ∨ p.busy = true then none
      else (translate p.mode p.geo (l i)).bind (p.judge .read)
    (fills → exec (.read .more 1 flash) s = .next (sends 0xff goesOn)) ∧
    (p.stage ≠ .s0 → p.geo.inAperture (l 0) = true → exec (.read .more 1 flash) s = .next
      { sends (if 2048 ≤ off ∧ off < 4096 then image.getD (off - 2048) 0xff else 0xff) goesOn with
        aperture := { s.aperture with resp := { s.aperture.resp with unread :=
          if s.aperture.resp.state = .done ∧ off = 2048 then false
          else s.aperture.resp.unread } } }) ∧
    (∀ phys, p.stage ≠ .s0 → p.geo.inAperture (l 0) = false → p.busy = false →
      translate p.mode p.geo (l 0) = some phys →
      let masked := p.judge .read phys
      let t : State := { sends
          (match masked with
            | none => flash.head?.getD (Config.undrivenBus r.sent)
            | some (fill, _) => fill.toByte)
          { r with
            sent := r.sent + 1, holds := true, nextPhys := some (phys + 1)
            violated := r.violated || masked.isSome } with
        down := { s.down with
          port := if s.down.port = .flashBusy then .flashBusy else .carryingSoc
          chunk := if s.down.port = .carryingChunk then s.down.chunk.preempted
            else s.down.chunk } }
      let u : State := { t with
        out := { t.out with toFlash := if r.nextPhys = some phys then [] else [.readFrom phys] } }
      exec (.read .more 1 flash) s = .next
        (match masked with
          | some (_, d) => if r.violated = true then u else u.violate ⟨l 0, .read, p.stage, d⟩
          | none => u)) ∧
    (exec (.read .more 0 flash) s = .next { s with out := ⟨[], []⟩ }) ∧
    (∀ (n : Nat) (t u : State), exec (.read .more 1 flash) s = .next t →
      exec (.read .more n
        (if (t.up.reads.getLast?.bind OpenRead.nextPhys).isSome = true then flash.tail else flash)) t =
          .next u →
      exec (.read .more (n + 1) flash) s = .next
        { u with out := ⟨t.out.toSoc ++ u.out.toSoc, t.out.toFlash ++ u.out.toFlash⟩ }) ∧
    ∀ count, ∃ t r', exec (.read .more count flash) s = .next t ∧ t.up.reads = old ++ [r'] ∧
      r'.addr = r.addr ∧ r'.snap = r.snap ∧ r'.sent = r.sent + count ∧
      t.out.toSoc.length = count ∧
      (r.violated = true → t.events = s.events ∧ r'.violated = true) ∧
      (r.violated = false → (∀ i, i < count → denied i = none) →
        t.events = s.events ∧ r'.violated = false) ∧
      ∀ i fill d, r.violated = false → i < count → denied i = some (fill, d) →
        (∀ j, j < i → denied j = none) →
        t.events = (s.violate ⟨l i, .read, p.stage, d⟩).events ∧ r'.violated = true

/-- O. READs that need no flash. The response header's 16 bytes in each response state (R64, Table 12-4),
the result codes of Table 12-7 among them. A READ of aperture bytes outside S0: the response area answers
the response image, the header and a DONE response's payload, then 0xFF; the request area and the rest of
the aperture answer 0xFF (R59). Reading the header's first byte of a DONE response makes it read (R65). In
S0 (R19), and outside the aperture while the snapshot is busy (R23) or at an unmapped address (R38), every
byte is 0xFF and no violation is handed; a READ in progress goes on likewise. Which ARRIVAL's snapshot a
READ uses, that a READ is sent in parts, and that a part without a READ does nothing, are the model's
(assumptions 18, 5). -/
def Obligations.ReadsThatNeedNoFlash : Prop :=
  (∀ s : State,
    let r := s.aperture.resp
    let previous : Byte := if r.previousUnread = true then 1 else 0
    let deferred : Byte := if r.floorDeferred = true then 2 else 0
    let refused : Byte := BitVec.ofNat 8 r.refused
    let n := r.payload.length
    let job : Byte := match s.engine.state with
      | .idle => 0
      | .command _ => 0
      | .job (.wipe _) => 0xf0
      | .job .wipeCounters => 0xf0
      | .job (.floorBurn _) => 0xf1
    let result : Byte := match r.result with
      | .ok => 0x00
      | .frameBad => 0x01
      | .unknownCommand => 0x02
      | .paramBad => 0x03
      | .lifecycleDenied => 0x04
      | .stageDenied => 0x05
      | .wrongState => 0x06
      | .supplyLow => 0x07
      | .gateClosed => 0x08
      | .throttled => 0x09
      | .locked => 0x0a
      | .mismatch => 0x0b
      | .full => 0x0c
      | .aborted => 0x0d
      | .verifyFailed => 0x0e
      | .missingItem => 0x0f
      | .fuseFault => 0x10
      | .emptyItem => 0x11
    s.responseHeader = match r.state with
      | .empty => [0, 0, 0, 0, 0, 0, 0, 0, 0, 0, 0, 0, 0, 0, 0, 0]
      | .queued => [1, r.code, r.tag, 0, 0, previous, refused, job, 0, 0, 0, 0, 0, 0, 0, 0]
      | .running => [2, r.code, r.tag, 0, 0, previous, refused, 0, 0, 0, 0, 0, 0, 0, 0, 0]
      | .done => [3, r.code, r.tag, result, r.detail, previous ||| deferred, refused, 0,
          BitVec.ofNat 8 n, BitVec.ofNat 8 (n / 256), 0, 0, 0, 0, 0, 0]) ∧
  (∀ (s : State) (addr : Address) (count : Nat), s.powered = true → s.Quiet →
    let a := addressValue addr
    let p := s.snapFor .read a
    let off := a % p.geo.flashSize - p.geo.apBase
    p.stage ≠ .s0 → p.geo.apBase ≤ a % p.geo.flashSize → off + count ≤ 65536 →
    p.geo.apBase + 65536 ≤ p.geo.flashSize →
    let image := s.responseHeader ++
      (if s.aperture.resp.state = .done then s.aperture.resp.payload else [])
    exec (.read (.start addr) count []) s = .next { s with
      out := ⟨(List.range count).map fun i =>
        if 2048 ≤ off + i ∧ off + i < 4096 then image.getD (off + i - 2048) 0xff else 0xff, []⟩
      up := { s.up with
        arrived := none, reads := s.up.reads ++ [⟨a, count, p, false, none, false⟩] }
      aperture := { s.aperture with resp := { s.aperture.resp with unread :=
        if s.aperture.resp.state = .done ∧ off ≤ 2048 ∧ 2048 < off + count then false
        else s.aperture.resp.unread } } }) ∧
  (∀ (s : State) (addr : Address) (flash : List Byte) (count : Nat), s.powered = true → s.Quiet →
    let a := addressValue addr
    let p := s.snapFor .read a
    let l := fun i => (a + i) % p.geo.flashSize
    (∀ i, i < count → p.stage = .s0 ∨ (p.geo.inAperture (l i) = false ∧
      (p.busy = true ∨ translate p.mode p.geo (l i) = none))) →
    exec (.read (.start addr) count flash) s = .next { s with
      out := ⟨List.replicate count 0xff, []⟩
      up := { s.up with
        arrived := none, reads := s.up.reads ++ [⟨a, count, p, false, none, false⟩] } }) ∧
  ∀ (s : State) (flash : List Byte) (count : Nat), s.powered = true → s.Quiet →
    (s.up.reads = [] → exec (.read .more count flash) s = .next { s with out := ⟨[], []⟩ }) ∧
    ∀ (old : List OpenRead) (r : OpenRead), s.up.reads = old ++ [r] →
      let p := r.snap
      let l := fun i => (r.addr + r.sent + i) % p.geo.flashSize
      (∀ i, i < count → p.stage = .s0 ∨ (p.geo.inAperture (l i) = false ∧
        (p.busy = true ∨ translate p.mode p.geo (l i) = none))) →
      exec (.read .more count flash) s = .next { s with
        out := ⟨List.replicate count 0xff, []⟩
        up := { s.up with reads := old ++
          [{ r with
            sent := r.sent + count, nextPhys := if count = 0 then r.nextPhys else none }] } }

/-- O. READ_END ends the oldest READ: if it held the port and no other READ does, the port becomes free;
FLASH_FINISHED is the poll of the flash's status that finds it finished, and frees a port in FLASH_BUSY. A
free port goes on with a WAITING chunk at its first undelivered byte, else it is IDLE (R30, R32). Downstream
each operation has its command byte, its address in the 4-byte form whatever form the SoC used, and its data
(R30, Table 12-14); a program's data starts at the written position whose predecessor in the page is not
written, and wraps within the page (R18). That the oldest READ ends is the model's (assumption 5), that
FLASH_FINISHED does nothing where the port is not in FLASH_BUSY (assumption 26), and that it puts one poll
on the bus (assumption 45); so are 06 and 01, and the free values for a chip erase's byte and for a full
page's start (assumptions 46, 47). -/
def Obligations.ReadEndAndFlashFinished : Prop :=
  (∀ s : State, s.downstreamBus = s.out.toFlash.map DownOp.sent) ∧
  (∀ phys : Nat,
    let four : Option Address := some (.four (BitVec.ofNat 32 phys))
    (DownOp.readFrom phys).sent = ⟨0x13, four, []⟩ ∧ (DownOp.erase4k phys).sent = ⟨0x21, four, []⟩ ∧
    (DownOp.erase64k phys).sent = ⟨0xdc, four, []⟩) ∧
  DownOp.statusPoll.sent = ⟨0x05, none, []⟩ ∧ DownOp.identify.sent = ⟨0x9f, none, []⟩ ∧
  DownOp.writeEnable.sent = ⟨0x06, none, []⟩ ∧
  (∀ data : List Byte, (DownOp.statusWrite data).sent = ⟨0x01, none, data⟩) ∧
  (DownOp.eraseChip.sent = ⟨0xc7, none, []⟩ ∨ DownOp.eraseChip.sent = ⟨0x60, none, []⟩) ∧
  (∀ (page start : Nat) (low high : List (Nat × Byte)),
    let image := low ++ high
    let preceded := fun (p : Nat) => ∃ d ∈ image, p = (d.1 + 1) % 256
    let sent := fun (start : Nat) (data : List Byte) =>
      (DownOp.program page image).sent = ⟨0x12, some (.four (BitVec.ofNat 32 (page + start))), data⟩
    (∀ e ∈ low, e.1 < start) → (∀ e ∈ high, start ≤ e.1) →
      ((high.head?.map Prod.fst = some start → (∀ e ∈ low, preceded e.1) → ¬ preceded start →
        sent start ((high ++ low).map Prod.snd)) ∧
      ((∀ e ∈ image, preceded e.1) →
        start = (Config.fullPageStart page (image.map Prod.snd)).toNat →
        sent start ((high ++ low).map Prod.snd)))) ∧
  ∀ s : State, s.powered = true → s.Quiet →
    let quiet := { s with out := ⟨[], []⟩ }
    let freed := fun (t : State) =>
      if s.down.chunk.st = .waiting then { t with
        out := ⟨[], t.out.toFlash ++ [.readFrom (s.down.chunk.start + s.down.chunk.got.length)]⟩
        down := { s.down with
          port := .carryingChunk, chunk := { s.down.chunk with st := .inFlight } } }
      else { t with down := { s.down with port := .idle } }
    exec .flashFinished s = .next
      (if s.down.port = .flashBusy then freed { s with out := ⟨[], [.statusPoll]⟩ } else quiet) ∧
    exec .readEnd s = .next
      (match s.up.reads with
        | [] => quiet
        | r :: rest =>
          let t := { quiet with up := { s.up with reads := rest } }
          if r.holds = true ∧ s.down.port = .carryingSoc ∧ (∀ q ∈ rest, q.holds = false) then
            freed t
          else t)

/-- O. The address a transaction carries (R18), the page image of a PROGRAM, where positions wrap in the
page and a later byte at a position replaces an earlier one (R18, R21), and the slot lock (R47). A write
unit outside the aperture that is judged (PROGRAM, ERASE_4K, ERASE_64K; WEL set, not busy, outside S0)
reaches the flash only if its window is mapped, the slot lock does not hold in the snapshot or now, and no
covered byte is denied; else it is dropped whole with one violation. Either way WEL is cleared (R40, R47,
R49); a forwarded unit makes a writable slot STAGED (R51). The address of an unmapped drop and the ARRIVAL
used are the model's (assumptions 18, 19). -/
def Obligations.WriteUnitsForwardedOrDropped : Prop :=
  (∀ (a : BitVec 24) (b : BitVec 32), addressValue (.three a) = a.toNat ∧
    addressValue (.four b) = b.toNat) ∧
  (∀ (l : Nat) (data : List Byte), ((pageImage l data).map Prod.fst).Pairwise (· < ·) ∧
    ∀ (i : Nat) (b : Byte), (i, b) ∈ pageImage l data ↔
      ∃ k, k < data.length ∧ (l + k) % 256 = i ∧ byteAt data k = b ∧
        ∀ j, k < j → j < data.length → (l + j) % 256 ≠ i) ∧
  (∀ (m : Mode) (g : Geometry) (states : SlotId → SlotState) (phys : Nat),
    slotLocks m g states phys = true ↔ m ≠ .passthrough ∧
      ∃ x, ((x = SlotId.a ∧ phys < g.slotSize) ∨
          (x = .b ∧ g.slotSize ≤ phys ∧ phys < 2 * g.slotSize)) ∧
        (states x = .active ∨ states x = .trial ∨ states x = .armed ∨ states x = .verifying)) ∧
  ∀ (s : State) (c : Instr) (cls : TxClass) (a size : Nat) (covers : Nat → Bool) (op : Nat → DownOp)
    (first : Nat), s.powered = true → s.Quiet →
    let p := s.snapFor cls a
    let l := a % p.geo.flashSize
    let base := l - l % size
    ((∃ addr data tail, data ≠ [] ∧ c = .program addr data tail ∧ cls = .program ∧
        a = addressValue addr ∧ size = 256 ∧
        covers = (fun i => (pageImage l data).any fun e => e.1 = i) ∧
        op = (fun phys => .program phys (pageImage l data)) ∧
        first = ((pageImage l data).head?.map Prod.fst).getD 0) ∨
      (∃ addr, c = .erase4k addr ∧ cls = .erase4k ∧ a = addressValue addr ∧ size = 4096 ∧
        covers = (fun _ => true) ∧ op = .erase4k ∧ first = 0) ∨
      ∃ addr, c = .erase64k addr ∧ cls = .erase64k ∧ a = addressValue addr ∧ size = 65536 ∧
        covers = (fun _ => true) ∧ op = .erase64k ∧ first = 0) →
    p.stage ≠ .s0 → p.busy = false → s.up.wel = true → p.geo.inAperture l = false →
    let after := { s with out := ⟨[], []⟩, up := { s.up with arrived := none, wel := false } }
    let dropped := fun (first : Nat) (d : Decider) =>
      State.violate { after with up := { after.up with denied := true } } ⟨first, cls, p.stage, d⟩
    let lockedNow := fun phys => slotLocks p.mode p.geo (fun x => (s.slot x).state) phys
    let denies := fun phys i => if p.mode = .passthrough then none else p.judge .write (phys + i)
    (translate p.mode p.geo base = none → exec c s = .next (dropped (base + first) .unmapped)) ∧
    ∀ phys, translate p.mode p.geo base = some phys →
      (slotLocks p.mode p.geo p.slot phys = true → exec c s = .next (dropped (base + first) .slotLock)) ∧
      (slotLocks p.mode p.geo p.slot phys = false →
        (∀ i d fill, i < size → covers i = true → denies phys i = some (fill, d) →
          (∀ j, j < i → covers j = true → denies phys j = none) →
          exec c s = .next (dropped (base + i) d)) ∧
        ((∀ i, i < size → covers i = true → denies phys i = none) →
          (lockedNow phys = true → exec c s = .next (dropped (base + first) .slotLock)) ∧
          (lockedNow phys = false →
            let sent := { after with
              out := ⟨[], [.writeEnable, op phys]⟩
              down := { s.down with
                port := .flashBusy
                chunk := { s.down.chunk with st :=
                  if s.down.chunk.st = .inFlight then .waiting else s.down.chunk.st } } }
            (∀ x, p.mode ≠ .passthrough → slotOfPhys p.geo phys = some x →
              ((s.slot x).state = .empty ∨ (s.slot x).state = .verified ∨
                (s.slot x).state = .spare ∨ (s.slot x).state = .failed) →
              exec c s = .next (sent.slotBecomes x ⟨.staged, .staged, .none, none⟩)) ∧
            ((p.mode = .passthrough ∨ ∀ x, slotOfPhys p.geo phys = some x →
                ((s.slot x).state = .staged ∨ (s.slot x).state = .verifying ∨
                  (s.slot x).state = .armed ∨ (s.slot x).state = .trial ∨
                  (s.slot x).state = .active)) →
              exec c s = .next sent))))

/-- O. A write transaction is ignored, WEL left, when WEL is clear or its snapshot is busy, a PROGRAM also
when it has no complete data byte (R21); in S0 nothing is judged (R19). Which ARRIVAL a transaction uses is
the model's (assumption 18). -/
def Obligations.WritesIgnored : Prop :=
  ∀ (s : State) (c : Instr) (cls : TxClass) (a : Nat), s.powered = true → s.Quiet →
    let p := s.snapFor cls a
    ((∃ addr data tail, c = .program addr data tail ∧ cls = .program ∧ a = addressValue addr ∧
        (p.stage = .s0 ∨ s.up.wel = false ∨ p.busy = true ∨ data = [])) ∨
      (∃ addr, c = .erase4k addr ∧ cls = .erase4k ∧ a = addressValue addr ∧
        (p.stage = .s0 ∨ s.up.wel = false ∨ p.busy = true)) ∨
      ∃ addr, c = .erase64k addr ∧ cls = .erase64k ∧ a = addressValue addr ∧
        (p.stage = .s0 ∨ s.up.wel = false ∨ p.busy = true)) →
    exec c s = .next { s with out := ⟨[], []⟩, up := { s.up with arrived := none } }

/-- O. Writes in the aperture, judged outside S0: a PROGRAM outside the request area is a stray write, with
DENIED and a violation; an ERASE_4K of the request area's sector and any ERASE_64K abort, another ERASE_4K
does nothing (R60). The abort empties a DONE response, withdraws a QUEUED frame, and sets the abort request
of a command in progress (R70, R71); one that waits at LOW for a write of its own, at an abort point, stops
there and ends ABORTED (R71, R104, R135, R166). Which ARRIVAL a transaction uses, where an abort is
observed, and that a stray write sets DENIED and hands its violation in PASSTHROUGH too, are the model's
(assumptions 18, 24, 40). -/
def Obligations.ApertureWrites : Prop :=
  ∀ (s : State) (c : Instr) (cls : TxClass) (a : Nat), s.powered = true → s.Quiet →
    let p := s.snapFor cls a
    let l := a % p.geo.flashSize
    p.stage ≠ .s0 → p.busy = false → s.up.wel = true → p.geo.apBase ≤ l →
    l < p.geo.apBase + 65536 →
    let after := { s with out := ⟨[], []⟩, up := { s.up with arrived := none, wel := false } }
    let ap := { s.aperture with rx := none }
    let aborted := (∃ addr, c = .erase4k addr ∧ cls = .erase4k ∧ a = addressValue addr ∧
        l - l % 4096 = p.geo.apBase) ∨
      ∃ addr, c = .erase64k addr ∧ cls = .erase64k ∧ a = addressValue addr
    ((∃ addr data tail, data ≠ [] ∧ c = .program addr data tail ∧ cls = .program ∧
        a = addressValue addr ∧ 2048 ≤ l - p.geo.apBase) →
      exec c s = .next (State.violate { after with up := { after.up with denied := true } }
        ⟨l, .program, p.stage, .apertureStray⟩)) ∧
    ((∃ addr, c = .erase4k addr ∧ cls = .erase4k ∧ a = addressValue addr ∧
        l - l % 4096 ≠ p.geo.apBase) → exec c s = .next after) ∧
    (aborted → s.aperture.resp.state = .empty → exec c s = .next { after with aperture := ap }) ∧
    (aborted → s.aperture.resp.state = .done → exec c s = .next { after with
      aperture := { ap with resp := ⟨.empty, 0, 0, .ok, 0, false, false, 0, [], false⟩ } }) ∧
    (aborted → ∀ back, s.aperture.resp.state = .queued → s.aperture.aside = some back →
      exec c s = .next { after with
        aperture := { ap with resp := back, aside := none, held := none } }) ∧
    (aborted → ∀ w, s.aperture.resp.state = .running → s.engine.state = .command w →
      (¬ (s.supply.normal = false ∧ w.StopsAtLow ∧ s.AwaitsWrite) → exec c s = .next { after with
        aperture := ap, engine := { s.engine with abortRequest := true } }) ∧
      (s.supply.normal = false → w.StopsAtLow → s.AwaitsWrite → s.NoWork →
        exec c s = .next (State.abortedAt { after with aperture := ap } w)))

/-- O. A frame sent as one PROGRAM at the request area's first byte does what its row does, once WEL is
cleared: reception and taking are the same (R61, R62, R66, R72). That the row stands for such a frame is the
model's (assumption 2). -/
def Obligations.FrameByOneProgram : Prop :=
  ∀ (s : State) (c : Instr) (code : Byte) (r : Request) (addr : Address) (tail : Nat),
    serviceRow c = some (code, r) → r.fits = true → s.powered = true →
    s.stage ≠ .s0 → s.up.wel = true → s.up.arrived = none → s.busy = false →
    addressValue addr % s.filter.geo.flashSize = s.filter.geo.apBase →
    exec (.program addr (leBytes 2 (8 + r.params.length) ++ [code, r.tag] ++
      leBytes 4 r.reserved.toNat ++ r.params) tail) s =
      exec c { s with up := { s.up with wel := false } }

/-- O. A PROGRAM in the request area (R61 to R63): at offset 0 it begins a frame, at the receive position it
continues one; fewer than 8 bytes, or fewer than the length field says, stay in reception; a length outside
8..2048 fails LENGTH and any other offset fails SEQUENCE, as a FRAME_BAD response while the response is
EMPTY or DONE, else as one refused frame more. A frame it completes, in however many PROGRAMs, does what its
row does, the bytes beyond its length dropped; one with a code that is not in Table 4-3 ends UNKNOWN_COMMAND
when an idle engine takes it (R66, R72). That the row stands for such a frame, which ARRIVAL's snapshot
judges the PROGRAM, and the refused-frame count 0 of a FRAME_BAD response are the model's (assumptions 2,
18, 41). -/
def Obligations.FramesInPieces : Prop :=
  ∀ (s : State) (addr : Address) (data : List Byte) (tail : Nat), s.powered = true → s.Quiet →
    let p := s.snapFor .program (addressValue addr)
    let l := addressValue addr % p.geo.flashSize
    let off := l - p.geo.apBase
    p.stage ≠ .s0 → p.busy = false → s.up.wel = true → data ≠ [] → p.geo.apBase ≤ l → off < 2048 →
    let after := { s with out := ⟨[], []⟩, up := { s.up with arrived := none, wel := false } }
    let keeps := fun (bytes : List Byte) =>
      { after with aperture := { s.aperture with rx := some bytes } }
    let refused := { after with aperture := { s.aperture with
      rx := none
      resp := { s.aperture.resp with refused := min (s.aperture.resp.refused + 1) 255 } } }
    let fails := fun (detail : Byte) (bytes : List Byte) =>
      let header := fun i => if bytes.length < 8 then 0 else byteAt bytes i
      if s.aperture.resp.state = .empty ∨ s.aperture.resp.state = .done then
        { after with
          aperture := { s.aperture with
            rx := none
            resp := ⟨.done, header 2, header 3, .frameBad, detail,
              decide (s.aperture.resp.state = .done) && s.aperture.resp.unread, false, 0, [],
              true⟩ }
          events := { s.events with pending := s.events.pending ||| 1 } }
      else refused
    let goes := fun (before : List Byte) =>
      let bytes := (before ++ data).take 2048
      let len := (byteAt bytes 0).toNat + 256 * (byteAt bytes 1).toNat
      (bytes.length < 8 → exec (.program addr data tail) s = .next (keeps bytes)) ∧
      (8 ≤ bytes.length → len < 8 ∨ 2048 < len →
        exec (.program addr data tail) s = .next (fails 1 bytes)) ∧
      (8 ≤ bytes.length → bytes.length < len → len ≤ 2048 →
        exec (.program addr data tail) s = .next (keeps bytes)) ∧
      (∀ (c : Instr) (code : Byte) (r : Request), serviceRow c = some (code, r) → r.fits = true →
        s.stage ≠ .s0 →
        bytes.take (8 + r.params.length) = leBytes 2 (8 + r.params.length) ++ [code, r.tag] ++
          leBytes 4 r.reserved.toNat ++ r.params →
        exec (.program addr data tail) s =
          exec c { s with up := { s.up with arrived := none, wel := false } }) ∧
      (8 ≤ len → len ≤ bytes.length → (∀ c r, serviceRow c ≠ some (byteAt bytes 2, r)) →
        (s.engine.state = .idle → exec (.program addr data tail) s = .next
          (after.answered (byteAt bytes 2) ⟨byteAt bytes 3, 0, []⟩ (.plain .unknownCommand))) ∧
        ∀ w, s.engine.state = .command w → exec (.program addr data tail) s = .next refused)
    (off = 0 → goes []) ∧
    (∀ before, s.aperture.rx = some before → off = before.length → 0 < off → goes before) ∧
    (∀ before, s.aperture.rx = some before → off ≠ before.length → 0 < off →
      exec (.program addr data tail) s = .next (fails 2 before)) ∧
    (s.aperture.rx = none → 0 < off → exec (.program addr data tail) s = .next (fails 2 []))

/-- O. No PROGRAM or ERASE is forwarded to a physical byte of a slot that is ACTIVE, TRIAL, ARMED or
VERIFYING as it is forwarded, in a mode that judges the lock and a geometry aligned as CONFIG's is (R35,
R47). -/
def Obligations.NoWriteReachesALockedSlot : Prop :=
  ∀ (s t : State) (c : Instr) (cls : TxClass) (addr : Address),
    ((∃ data tail, c = .program addr data tail ∧ cls = .program) ∨
      (c = .erase4k addr ∧ cls = .erase4k) ∨ (c = .erase64k addr ∧ cls = .erase64k)) →
    s.powered = true → s.Quiet →
    let p := s.snapFor cls (addressValue addr)
    p.mode ≠ .passthrough → 65536 ∣ p.geo.slotSize → 65536 ∣ p.geo.recBase →
    p.geo.inAperture (addressValue addr % p.geo.flashSize) = false → exec c s = .next t →
    ∀ op ∈ t.out.toFlash, ∀ phys,
      ((∃ page image b, op = .program page image ∧ (phys - page, b) ∈ image ∧ page ≤ phys) ∨
        (∃ base, op = .erase4k base ∧ base ≤ phys ∧ phys < base + 4096) ∨
        (∃ base, op = .erase64k base ∧ base ≤ phys ∧ phys < base + 65536) ∨ op = .eraseChip) →
      ∀ x, slotOfPhys p.geo phys = some x →
        (s.slot x).state ≠ .active ∧ (s.slot x).state ≠ .trial ∧ (s.slot x).state ≠ .armed ∧
          (s.slot x).state ≠ .verifying


/-! ### Verification -/

/-- O. The condition byte (R7), Table 12-10's region entry, none where its anchor or its fill is no listed
value, and a region entry's validity (R41), which POLICY_TIGHTEN's statement names too. The verification
procedure on a manifest chunk: steps 1 to 5 in order, the first that fails giving the reason (R81 to R84),
against the effective floor and revocations (R100); then the image's digest and the region policy, and on
success the summary (R85 to R87). -/
def Obligations.ProcedureChecksInOrder : Prop :=
  (∀ b : Byte, (Cond.ofByte b).code.toNat = b.toNat / 16 ∧ (Cond.ofByte b).bound.toNat = b.toNat % 16 ∧
    (Cond.ofByte b).toByte = b) ∧
  (∀ (e : List Byte) (r : Region),
    let byte := fun i => (byteAt e i).toNat
    let u32At := fun i =>
      byte i + 256 * byte (i + 1) + 65536 * byte (i + 2) + 16777216 * byte (i + 3)
    parseRegion e = some r ↔
      byteAt e 0 = (match r.anchor with
        | .absolute => 0
        | .runningSlot => 1
        | .otherSlot => 2) ∧
      byteAt e 1 = (match r.fill with
        | .ones => 0xff
        | .zeros => 0) ∧
      r.readCond = Cond.ofByte (byteAt e 2) ∧ r.writeCond = Cond.ofByte (byteAt e 4) ∧
      r.offset = u32At 8 ∧ r.size = u32At 12) ∧
  (∀ (r : Region) (g : Geometry), r.valid g = true ↔
    4096 ∣ r.offset ∧ 4096 ∣ r.size ∧ 4096 ≤ r.size ∧
      r.offset + r.size ≤ (if r.anchor = .absolute then g.flashSize else g.slotSize) ∧
      r.readCond.bound < 8 ∧ r.writeCond.bound < 8) ∧
  ∀ (s : State) (g : Geometry) (m digest : List Byte),
    let byte := fun i => (byteAt m i).toNat
    let n := byte 7
    let u16At := fun i => byte i + 256 * byte (i + 1)
    let length := byte 20 + 256 * byte 21 + 65536 * byte 22 + 16777216 * byte 23
    let key := if byte 5 = 0 then s.keys[(1 : Fin 16)] else s.keys[(2 : Fin 16)]
    let format := m.take 4 = [0x43, 0x50, 0x4c, 0x4d] ∧ byte 4 = 1 ∧ byte 5 ≤ 1 ∧ byte 6 ≤ 1 ∧ n ≤ 28 ∧
      u16At 8 = 128 + 16 * n ∧ 30 ≤ u16At 10 ∧ u16At 10 ≤ 3600 ∧ byte 12 ≤ 64 ∧
      byte 13 = 0 ∧ byte 14 = 0 ∧ byte 15 = 0
    let part := fun i k => (m.drop i).take k
    let entries := (List.range n).map fun i => part (64 + 16 * i) 16
    let good := fun (e : List Byte) => ∃ r, parseRegion e = some r ∧ r.valid g = true ∧
      byteAt e 6 = 0 ∧ byteAt e 7 = 0
    let policy := (byteAt m 60 = 0xff ∨ byteAt m 60 = 0) ∧ (Cond.ofByte (byteAt m 56)).bound < 8 ∧
      (Cond.ofByte (byteAt m 58)).bound < 8 ∧ byte 61 = 0 ∧ byte 62 = 0 ∧ byte 63 = 0 ∧
      ∀ e ∈ entries, good e
    (¬ format → checkManifest s g m = some .manifestFormat) ∧
    (format → checkManifest s g m =
      if key.present = false then some .authorityAbsent
      else if s.fuses.image.revoke.getLsbD (byte 5) = true ∨
          s.slots.pendingRevoke.getLsbD (byte 5) = true then some .authorityRevoked
      else if P256.verify key.pub (sha256 (part 0 (64 + 16 * n))) (part (64 + 16 * n) 64) = false then
        some .signature
      else if byte 12 < max s.fuses.image.count s.slots.pendingFloor then some .rollback
      else if g.slotSize < length + 4096 then some .imageLength
      else none) ∧
    (digest ≠ part 24 32 → judgeImage g m digest = .fail .imageDigest) ∧
    (digest = part 24 32 → ¬ policy → judgeImage g m digest = .fail .policyBad) ∧
    (digest = part 24 32 → policy → judgeImage g m digest = .pass
      ⟨byte 12, byte 16 + 256 * byte 17 + 65536 * byte 18 + 16777216 * byte 19, length, part 24 32,
        sha256 (part 56 (8 + 16 * n)), sha256 (part 0 (128 + 16 * n)), byte 5, u16At 10,
        (byteAt m 6).getLsbD 0⟩)

/-- O. The policy that a manifest gives (R44), that of RECOVERY (R45), the PART input (R152) and the image
length in a manifest (R80). CHUNK_COMPLETE: bytes short of the chunk's length are kept (R31, R32). A
completed chunk of UPDATE_VERIFY goes to the procedure, which asks for the next chunk or ends with an
outcome, for which the SLOT write is asked (R85, R102, R103); with an abort request the command ends ABORTED
instead, its target in its prior state (R104). A completed chunk of the boot flow's candidate goes to the
same procedure: the first to pass is booted, its TRIAL started, its policy loaded, PART, MANIFEST, IMAGE and
POLICY logged, and the SoC released; one that fails becomes FAILED and the next is tried, or RECOVERY is
entered (R93, R94, R95). RECOVERY's loader is read to its end, logged, and the SoC released with FALLBACK
pending (R95, R96). That bytes come before a chunk is complete, bound 0 in the built-in RECOVERY policy's
ALWAYS and NEVER, and start 0, length 0 and no bytes beside a chunk in state NONE, and, outside step 6, the
cursor, the digest and the manifest held, are the model's (assumptions 7, 37, 35, 43). The geometry and the
values of a CONFIG whose first write is still in progress across a restart are the working copy's, which is
the model's (assumption 48). -/
def Obligations.VerifyGoesChunkByChunk : Prop :=
  (∀ (m : List Byte) (rs : List Region) (fill : Fill),
    (List.range (byteAt m 7).toNat).map (fun i => parseRegion ((m.drop (64 + 16 * i)).take 16)) =
      rs.map some →
    byteAt m 60 = (match fill with
      | .ones => 0xff
      | .zeros => 0) →
    let r := Cond.ofByte (byteAt m 56)
    let w := Cond.ofByte (byteAt m 58)
    manifestTable m =
      ⟨rs.map fun e => ⟨e, e.readCond, e.writeCond⟩, some ⟨fill, r, w, r, w⟩, []⟩) ∧
  (∀ g : Geometry,
    let always : Cond := ⟨8, 0⟩
    let never : Cond := ⟨0, 0⟩
    recoveryTable g = ⟨[⟨⟨.absolute, g.recBase, g.recSize, always, never, .ones⟩, always, never⟩],
      some ⟨.ones, always, always, always, always⟩, []⟩) ∧
  (∀ s : State,
    let c := s.config.getD ⟨⟨16777216, 0, 16711680, 0, 0⟩, 3000, 100, 4, 300, 10⟩
    let le := fun n v => (List.range n).map fun i => BitVec.ofNat 8 (v / 256 ^ i)
    s.configGeo = c.geo ∧ s.partInput.length = 31 ∧ s.partInput =
      le 4 c.geo.flashSize ++ le 4 c.geo.slotSize ++ le 4 c.geo.apBase ++ le 4 c.geo.recBase ++
        le 4 c.geo.recSize ++ le 2 c.threshold ++ le 2 c.hysteresis ++ le 1 c.samples ++
        le 2 c.gateIdle ++ le 1 c.holdTime ++
        [if s.fuses.image.lifecycle = 0 then 0 else 1, BitVec.ofNat 8 s.fuses.image.count,
          BitVec.ofNat 8 s.fuses.image.revoke.toNat]) ∧
  (∀ m : List Byte, manifestImageLength m = (byteAt m 20).toNat + 256 * (byteAt m 21).toNat +
    65536 * (byteAt m 22).toNat + 16777216 * (byteAt m 23).toNat) ∧
  ∀ (s : State) (data : List Byte), s.powered = true → s.NoWork →
    let c := s.down.chunk
    let bytes := (c.got ++ data).take c.length
    let quiet := { s with out := ⟨[], []⟩ }
    let t := { quiet with down := { s.down with port := .idle, chunk := ⟨0, 0, [], .none⟩ } }
    let manifest : State := { t with ve := ⟨.none, bytes, 4096, ShaState.initial⟩ }
    let fed := { s.ve with
      cursor := s.ve.cursor + bytes.length, sha := shaUpdate s.ve.sha bytes }
    let image := fun (x : SlotId) (g : Geometry) (ends : State → VerifyOutcome → State) (u : State) =>
      let base := if x = .a then 0 else g.slotSize
      let stop := 4096 + manifestImageLength u.ve.manifest
      if u.ve.cursor < stop then
        State.reads { u with ve := { u.ve with work := .image x } } (base + u.ve.cursor)
          (min 4096 (stop - u.ve.cursor))
      else ends u (judgeImage g u.ve.manifest (shaFinish u.ve.sha))
    let goes := fun (x : SlotId) (g : Geometry) (ends : State → VerifyOutcome → State) =>
      (s.ve.work = .manifest x → exec (.chunkComplete data) s = .next
        (match checkManifest s g bytes with
          | some why => ends { t with ve := { s.ve with work := .none } } (.fail why)
          | none => image x g ends manifest)) ∧
      (s.ve.work = .image x → exec (.chunkComplete data) s = .next
        (image x g ends { t with ve := { fed with work := .none } }))
    (c.st ≠ .inFlight → exec (.chunkComplete data) s = .next quiet) ∧
    (c.st = .inFlight → (c.got ++ data).length < c.length →
      exec (.chunkComplete data) s = .next { quiet with
        down := { s.down with chunk := { c with got := c.got ++ data } } }) ∧
    (c.st = .inFlight → c.length ≤ (c.got ++ data).length →
      (∀ x : SlotId, s.engine.state = .command (.verify x) →
        (s.engine.abortRequest = true → exec (.chunkComplete data) s = .next
          (State.finished
            { t with
              ve := VerEngine.idle
              slots := s.slots.put x (if (s.slot x).state = .verifying then
                { s.slot x with state := (s.slot x).prior } else s.slot x)
              records := { s.records with waiting := withoutCommand s.records.waiting } }
            ⟨.aborted, 0, [], false⟩)) ∧
        (s.engine.abortRequest = false → goes x s.filter.geo fun u o =>
          State.goesOn (u.asks (.slot x) .command (.verify o)) (.verifyStore x o))) ∧
      (s.engine.state = .idle → 0 < s.configGeo.recSize →
        ∀ x rest first, s.flow.phase = .verifying x rest first → goes x s.configGeo fun u o =>
          match o with
          | .pass m => u.boots x m first
          | .fail why => (u.slotBecomes x ⟨.failed, .failed, why, none⟩).tries false rest) ∧
      (s.engine.state = .idle → s.flow.phase = .loader → exec (.chunkComplete data) s = .next
        (if fed.cursor < s.configGeo.recSize then
          State.reads { t with ve := fed } (s.configGeo.recBase + fed.cursor)
            (min 4096 (s.configGeo.recSize - fed.cursor))
        else State.leavesRecovery { t with ve := { fed with work := .none } } (shaFinish fed.sha))))

/-! ### Records -/

/-- O. A request is added at the tail of the waiting list, or joins the record's waiting entry; a block that
already asked adds nothing (R124), and a second owner reset joins with no change of its own (R177).
RECORD_WRITE_BEGIN takes the head entry when no write is in progress and the supply is NORMAL, makes the
changes of its requesters in the working copies, in the order of request (R164), and takes the content from
these (R125, R103, R109, R135, R176, R79): for any set of requesters, and spelled out for each change that
comes alone. That a begin is sent from outside is the model's (assumption 26), and so, in the settling of
UPDATE_CONFIRM, is version 0 for a slot without a summary, in states no run reaches (R77; assumption 34),
and the phase 0 of the stopped PENALTY (assumption 44). -/
def Obligations.RequestsAndBegins : Prop :=
  (∀ (l : List Entry) (rec : RecordId) (r : Requester),
    ((∀ e ∈ l, e.record ≠ rec) → requestIn l rec r = l ++ [⟨rec, [r]⟩]) ∧
    ∀ before e behind, l = before ++ e :: behind → e.record = rec →
      (∀ d ∈ before, d.record ≠ rec) →
      (r.change = .asIs → r ∈ e.requesters → requestIn l rec r = l) ∧
      (r.change = .asIs → r ∉ e.requesters →
        requestIn l rec r = before ++ ⟨rec, e.requesters ++ [r]⟩ :: behind) ∧
      (r.change ≠ .asIs → r.change ≠ .ownerReset →
        requestIn l rec r = before ++ ⟨rec, e.requesters ++ [r]⟩ :: behind) ∧
      (r.change = .ownerReset → (∀ q ∈ e.requesters, q.change ≠ .ownerReset) →
        requestIn l rec r = before ++ ⟨rec, e.requesters ++ [r]⟩ :: behind) ∧
      (r.change = .ownerReset → (∃ q ∈ e.requesters, q.change = .ownerReset) →
        requestIn l rec r = before ++ ⟨rec, e.requesters ++ [⟨r.who, .asIs⟩]⟩ :: behind)) ∧
  ∀ s : State, s.powered = true → s.Quiet →
    let quiet := { s with out := ⟨[], []⟩ }
    (s.records.writing ≠ none ∨ s.records.waiting = [] ∨ s.supply.normal = false →
      exec .recordWriteBegin s = .next quiet) ∧
    (∀ (rec : RecordId) (rs : List Requester) (rest : List Entry),
      s.records.writing = none → s.records.waiting = ⟨rec, rs⟩ :: rest → s.supply.normal = true →
      let t := rs.foldl (fun u q => u.begins rec q.change)
        { quiet with records := { s.records with waiting := rest } }
      exec .recordWriteBegin s = .next { t with records := { t.records with
        writing := some ⟨rec, rs, t.stores rec rs⟩ } }) ∧
    ∀ (rec : RecordId) (who : Who) (change : Change) (rest : List Entry),
      s.records.writing = none → s.records.waiting = ⟨rec, [⟨who, change⟩]⟩ :: rest →
      s.supply.normal = true →
      let begun := fun (t : State) (content : RecContent) =>
        exec .recordWriteBegin s = .next { t with
          out := ⟨[], []⟩
          records := { s.records with
            waiting := rest, writing := some ⟨rec, [⟨who, change⟩], content⟩ } }
      let counters := fun (epoch fails : Nat) => RecContent.counters
        ⟨s.slots.bootCounter, s.slots.lastReason, s.slots.pendingFloor, s.slots.pendingRevoke, epoch,
          fails⟩
      (∀ c, rec = .config → change = .config c → begun { s with config := some c } (.config c)) ∧
      (∀ i k, rec = .key i → change = .key k →
        begun { s with keys := s.keys.set i k } (.key k)) ∧
      (∀ i k, rec = .cred i → change = .cred k →
        begun { s with cred := { s.cred with creds := s.cred.creds.set i k } } (.cred k)) ∧
      (∀ bytes, rec = .cert → change = .cert bytes →
        begun { s with cert := some bytes } (.cert bytes)) ∧
      (∀ x, rec = .slot x → change = .asIs → begun s (.slot
        ⟨if (s.slot x).state = .verifying then (s.slot x).prior else (s.slot x).state,
          (s.slot x).reason, (s.slot x).summary⟩)) ∧
      (∀ x m, rec = .slot x → change = .verify (.pass m) →
        begun { s with slots := s.slots.put x ⟨.verified, .verified, .none, some m⟩ }
          (.slot ⟨.verified, .none, some m⟩)) ∧
      (∀ x why, rec = .slot x → change = .verify (.fail why) →
        begun { s with slots := s.slots.put x ⟨.failed, .failed, why, none⟩ }
          (.slot ⟨.failed, why, none⟩)) ∧
      (rec = .counters → change = .asIs → begun s (counters s.cred.ownerEpoch s.cred.failCount)) ∧
      (rec = .counters → change = .credIncrement →
        begun { s with cred := { s.cred with failCount := min 20 (s.cred.failCount + 1) } }
          (counters s.cred.ownerEpoch (min 20 (s.cred.failCount + 1)))) ∧
      (rec = .counters → change = .credClear →
        begun { s with cred := { s.cred with failCount := 0 } } (counters s.cred.ownerEpoch 0)) ∧
      (rec = .counters → change = .ownerReset →
        begun { s with
          cred := { s.cred with
            failCount := 0
            ownerEpoch := min (s.cred.ownerEpoch + 1) 4294967295
            wipeUnfinished := false }
          timers := { s.timers with penalty := s.timers.penalty.stop } }
          (counters (min (s.cred.ownerEpoch + 1) 4294967295) 0))

/-- O. RECORD_WRITE_COMPLETE stores the content whole and tells the requesters (R125): a command whose last
awaited write it was ends OK with its payload (R135), UPDATE_VERIFY with its outcome (R103), PROV_DEPLOY OK
with a platform restart due (R146). With another write of the command still awaited the command goes on with
the rest of its list: UPDATE_CONFIRM and PROV_DEPLOY at every supply, for these waits are no abort points
(R111, R146); a command that stores what it has built, such as PROV_IDENTITY, ends ABORTED instead where an
abort request is set, the supply is LOW and the other write has not begun (R71, R135). The same abort is
observed when another's write has completed. That the restart waits for its own row is the model's
(assumption 27), and so is that the row does nothing with no write in progress (assumption 26), and where an
abort is observed (assumption 24). With a job pending or a frame held, FramesWhileTheEngineWorks says what
an engine left idle then takes up (R68). -/
def Obligations.CompletionsEndTheCommand : Prop :=
  ∀ s : State, s.powered = true → s.NoWork →
    (s.records.writing = none → exec .recordWriteComplete s = .next { s with out := ⟨[], []⟩ }) ∧
    ∀ w : Writing, s.records.writing = some w →
      (∀ q ∈ w.requesters, ∀ f v, q.change ≠ .confirm f v) →
      let t := { s with records := { s.records with
        store := s.records.store.put w.record w.content, writing := none } }
      let stops := fun (work : CmdWork) => s.engine.abortRequest = true ∧ s.supply.normal = false ∧
        work.StopsAtLow ∧ t.AwaitsWrite
      ((∀ q ∈ w.requesters, q.who ≠ .command ∧ q.who ≠ .job) →
        ((∀ work, s.engine.state = .command work → ¬ stops work) →
          exec .recordWriteComplete s = .next { t with out := ⟨[], []⟩ }) ∧
        ∀ work, s.engine.state = .command work → stops work →
          exec .recordWriteComplete s = .next (t.abortedAt work)) ∧
      ((∃ q ∈ w.requesters, q.who = .command) →
        (∀ awaited payload, s.engine.state = .command (.store awaited payload) →
          let rest := awaited.erase w.record
          (rest = [] → exec .recordWriteComplete s = .next (t.finished (.ok payload))) ∧
          (rest ≠ [] → ¬ stops (.store rest payload) →
            exec .recordWriteComplete s = .next (t.goesOn (.store rest payload))) ∧
          (rest ≠ [] → stops (.store rest payload) →
            exec .recordWriteComplete s = .next (t.abortedAt (.store rest payload)))) ∧
        (∀ x m, s.engine.state = .command (.verifyStore x (.pass m)) →
          exec .recordWriteComplete s = .next (t.finished (.ok
            ([if x = .a then 1 else 2] ++ u8 m.securityVersion ++ u32 m.imageVersion ++
              u32 m.imageLength ++ m.imageDigest ++ m.policyDigest ++ m.manifestDigest ++
              u8 m.authority ++ u16 m.trialTime ++ flagByte m.revokeOther)))) ∧
        (∀ x why, s.engine.state = .command (.verifyStore x (.fail why)) →
          exec .recordWriteComplete s = .next
            (t.finished ⟨.verifyFailed, why.toByte, [], false⟩)) ∧
        (∀ awaited, s.engine.state = .command (.confirmSlots awaited) →
          awaited.erase w.record ≠ [] → exec .recordWriteComplete s = .next
            (t.goesOn (.confirmSlots (awaited.erase w.record)))) ∧
        ∀ bit awaited, s.engine.state = .command (.deploySlots bit awaited) →
          (awaited.erase w.record ≠ [] → exec .recordWriteComplete s = .next
            (t.goesOn (.deploySlots bit (awaited.erase w.record)))) ∧
          (awaited.erase w.record = [] →
            let u := t.finished (.ok [BitVec.ofNat 8 bit])
            exec .recordWriteComplete s = .next
              { u with engine := { u.engine with restartDue := some .deploy } }))

/-- O. UPDATE_CONFIRM settles the slots at the begin of its COUNTERS write, the other slot first (R109):
ACTIVE becomes SPARE when its version reaches the new floor, else it, a VERIFIED or a SPARE slot below it
becomes FAILED with reason ROLLBACK; the TRIAL slot becomes ACTIVE. The new pending values stand once that
write has completed, whoever shares it, and though a platform restart has abandoned the command while it was
in progress, no command or another one at work or waiting (R110, R115). When the last SLOT write is done the
burns begin: none due ends OK, a LOW supply ends OK with FLOOR_DEFERRED and the deferral flag, else the next
COUNTER bit is burned, or with none due the next REVOKE bit (R111, R113); no wait of the command is an abort
point (R108, R111). That a raise past its target counts as a failed bit is the model's (assumption 21), and
so is version 0 for a slot without a summary, in states no run reaches (R77; assumption 34). -/
def Obligations.ConfirmSettlesAndBurns : Prop :=
  ∀ s : State, s.powered = true → s.NoWork →
    (∀ (floor : Nat) (rv : BitVec 2) (rest : List Entry), s.runs = true → s.records.writing = none →
      s.records.waiting = ⟨.counters, [⟨.command, .confirm floor rv⟩]⟩ :: rest →
      s.supply.normal = true → s.engine.state = .command (.confirmCounters floor rv []) →
      let new := max s.fuses.image.count floor
      let o := s.slot s.otherOfRun
      let x := s.runningOfRun
      let version := (o.summary.map Summary.securityVersion).getD 0
      let told := fun (t : State) (y : SlotId) (r : SlotRec) =>
        (t.slotBecomes y r).asks (.slot y) .command .asIs
      let t0 := { s with records := { s.records with waiting := rest } }
      let t1 :=
        if o.state = .active ∧ new ≤ version then
          told t0 s.otherOfRun ⟨.spare, .spare, .none, o.summary⟩
        else if (o.state = .active ∨ o.state = .verified ∨ o.state = .spare) ∧ version < new then
          told t0 s.otherOfRun ⟨.failed, .failed, .rollback, o.summary⟩
        else t0
      let moved := (o.state = .active ∧ new ≤ version) ∨
        ((o.state = .active ∨ o.state = .verified ∨ o.state = .spare) ∧ version < new)
      (s.slot x).state = .trial →
      let t2 := told t1 x ⟨.active, .active, .none, (s.slot x).summary⟩
      let awaited := (if moved then [RecordId.slot s.otherOfRun] else []) ++ [.slot x]
      let t3 := t2.goesOn (.confirmCounters floor rv awaited)
      exec .recordWriteBegin s = .next { t3 with records := { t3.records with
        writing := some ⟨.counters, [⟨.command, .confirm floor rv⟩], .counters
          ⟨s.slots.bootCounter, s.slots.lastReason, floor, rv, s.cred.ownerEpoch,
            s.cred.failCount⟩⟩ } }) ∧
    (∀ (floor : Nat) (rv : BitVec 2) (w : Writing), s.records.writing = some w →
      (∃ q ∈ w.requesters, q.change = .confirm floor rv) →
      (∀ q ∈ w.requesters, ∀ f v, q.change = .confirm f v → f = floor ∧ v = rv) →
      let t := { s with
        out := ⟨[], []⟩
        slots := { s.slots with pendingFloor := floor, pendingRevoke := rv }
        records := { s.records with
          store := s.records.store.put w.record w.content, writing := none } }
      let stops := fun work => s.engine.state = .command work ∧ s.engine.abortRequest = true ∧
        s.supply.normal = false ∧ work.StopsAtLow ∧ t.AwaitsWrite
      ((∀ q ∈ w.requesters, q.who ≠ .command ∧ q.who ≠ .job) →
        ((∀ work, ¬ stops work) → exec .recordWriteComplete s = .next t) ∧
        ∀ work, stops work → exec .recordWriteComplete s = .next (t.abortedAt work)) ∧
      ((∃ q ∈ w.requesters, q.who = .command) →
        (∀ f v rec awaited, s.engine.state = .command (.confirmCounters f v (rec :: awaited)) →
          exec .recordWriteComplete s = .next (t.goesOn (.confirmSlots (rec :: awaited)))) ∧
        ∀ f v, s.engine.state = .command (.confirmCounters f v []) →
          exec .recordWriteComplete s = .next (t.burnsGoOn .command ⟨false, false, false⟩)) ∧
      ((∃ q ∈ w.requesters, q.who = .job) → s.engine.state = .job .wipeCounters →
        exec .recordWriteComplete s = .next { t with
          log := s.log.append .ownerReset s.stage zeroDigest []
          events := { s.events with pending := s.events.pending ||| 32 }
          engine := { s.engine with state := .idle } })) ∧
    ∀ w : Writing, s.records.writing = some w → (∃ q ∈ w.requesters, q.who = .command) →
      (∀ q ∈ w.requesters, ∀ f v, q.change ≠ .confirm f v) →
      s.engine.state = .command (.confirmSlots [w.record]) →
      let t := { s with records := { s.records with
        store := s.records.store.put w.record w.content, writing := none } }
      let payload := [BitVec.ofNat 8 s.slots.pendingFloor, BitVec.ofNat 8 s.fuses.image.count,
        BitVec.ofNat 8 s.slots.pendingRevoke.toNat, BitVec.ofNat 8 s.fuses.image.revoke.toNat,
        s.slots.slotA.state.toByte, s.slots.slotB.state.toByte]
      let due := fun i => s.slots.pendingRevoke.getLsbD i = true ∧
        s.fuses.image.revoke.getLsbD i = false
      exec .recordWriteComplete s = .next
        (State.burnsGoOn { t with out := ⟨[], []⟩ } .command ⟨false, false, false⟩) ∧
      (s.slots.pendingFloor ≤ s.fuses.image.count → ¬ due 0 → ¬ due 1 →
        exec .recordWriteComplete s = .next (t.finished (.ok payload))) ∧
      (s.fuses.image.count < s.slots.pendingFloor →
        (s.fuses.image.set ⟨.counter, s.fuses.image.count⟩).count ≤ s.slots.pendingFloor →
        (s.supply.normal = false → exec .recordWriteComplete s = .next
          (State.finished { t with slots := { s.slots with deferral := true } }
            ⟨.ok, 0, payload, true⟩)) ∧
        (s.supply.normal = true → s.fuses.burn = none →
          s.fuses.image.burned ⟨.counter, s.fuses.image.count⟩ = false →
          exec .recordWriteComplete s = .next (State.goesOn
            { t with fuses := { s.fuses with
                burn := some ⟨⟨.counter, s.fuses.image.count⟩, 0, .command⟩ } }
            (.confirmBurn ⟨false, false, false⟩))))

/-! ### Fuses -/

/-- O. How the rows read (R117): the COUNTER row's count is the burned bits from bit 0 before the first
unburned one. FUSE_ATTEMPT_DONE (R119): a burned read-back burns the bit in the image and in the array and
ends the bit burn; an unburned one leaves it doubtful, and the next of three attempts follows while the
supply is NORMAL (R116). The outcome goes to the requester: UPDATE_CONFIRM, FLOOR_BURN and step 5 of the
flow go on to the next COUNTER or REVOKE bit, leave a failed row for the other, or stop at LOW, and end as
R111, R114 and R91 say, the flow by trying its candidates (R92, R93); PROV_DEPLOY goes on to phase 2 or to
the next LIFECYCLE bit, waits after SUPPLY_STOP, or ends FUSE_FAULT (R122, R146). When a burn abandoned by a
restart has ended, the first waiting request is taken; one that need not or cannot burn ends at once. That
the row does nothing without a burn in progress, that a raise past its target counts as failed, that a
request that has waited looks at its bit when it is taken, and bound 0 in the built-in RECOVERY policy's
ALWAYS and NEVER and the cursor 0 of a procedure or loader that begins, are the model's (assumptions 26, 21,
42, 37, 43). The geometry and the values of a CONFIG whose first write is still in progress across a restart
are the working copy's, which is the model's (assumption 48). -/
def Obligations.FuseAttempts : Prop :=
  (∀ f : FuseRows, f.count ≤ 64 ∧ (∀ i, i < f.count → f.counter.getLsbD i = true) ∧
    (f.count < 64 → f.counter.getLsbD f.count = false) ∧
    (f.life = .factory ↔ f.lifecycle = 0)) ∧
  (∀ (f : FuseRows) (i : Nat), f.burned ⟨.lifecycle, i⟩ = f.lifecycle.getLsbD i ∧
    f.burned ⟨.counter, i⟩ = f.counter.getLsbD i ∧ f.burned ⟨.revoke, i⟩ = f.revoke.getLsbD i) ∧
  (∀ (f : FuseRows) (b c : FuseBit), b.inRow = true →
    ((f.set b).burned c = true ↔ f.burned c = true ∨ c = b)) ∧
  ∀ s : State, s.powered = true → s.NoWork →
    let quiet := { s with out := ⟨[], []⟩ }
    let flowReady := fun (owner : BurnOwner) =>
      owner = .flow → s.down.port = .idle ∧ 0 < s.configGeo.recSize
    (s.fuses.burn = none → ∀ back, exec (.fuseAttemptDone back) s = .next quiet) ∧
    ∀ (b : BitBurn) (back : Bool), s.fuses.burn = some b →
      let read := quiet.burnRead b.target back
      let unqueued := fun (rest : List BurnRequest) =>
        { read with fuses := { read.fuses with queue := rest } }
      (b.ends back s.supply.normal = none → exec (.fuseAttemptDone back) s = .next
        { read with fuses := { read.fuses with burn := some ⟨b.target, b.attempts + 1, b.owner⟩ } }) ∧
      ∀ o, b.ends back s.supply.normal = some o →
        (s.fuses.queue = [] → flowReady b.owner →
          exec (.fuseAttemptDone back) s = .next (read.burnTold b.owner b.target o)) ∧
        ∀ r rest, b.owner = .orphan → s.fuses.queue = r :: rest →
          (read.fuses.image.burned r.target = false → s.supply.normal = true →
            exec (.fuseAttemptDone back) s = .next { unqueued rest with fuses :=
              { (unqueued rest).fuses with burn := some ⟨r.target, 0, r.owner⟩ } }) ∧
          (rest = [] → flowReady r.owner → read.fuses.image.burned r.target = true →
            exec (.fuseAttemptDone back) s = .next
              ((unqueued []).burnTold r.owner r.target .burned)) ∧
          (rest = [] → flowReady r.owner → read.fuses.image.burned r.target = false →
            s.supply.normal = false → exec (.fuseAttemptDone back) s = .next
              ((unqueued []).burnTold r.owner r.target .supplyStop))

/-! ### Supply, button, timers -/

/-- O. ENTRY_INTO_LOW and ENTRY_INTO_NORMAL move the monitor and set SUPPLY_LOW or SUPPLY_OK pending outside
S0 (R131). An abort request is observed as the supply falls LOW while a command waits at an abort point for
a write of its own that has not begun: UPDATE_VERIFY's target takes its prior state again, CRED_CHECK's
increment is withdrawn (R71, R103, R104, R135, R166). At NORMAL PROV_DEPLOY's burn goes on (R122), and so do
the flow's (R91); with the deferral flag set FLOOR_BURN is requested (R113), which a busy engine leaves
pending and an idle one starts, clearing the flag (R68, R114). That each row has effect only from the other
state, where an abort is observed, that a raise past its target counts as a failed bit, and bound 0 in the
built-in RECOVERY policy's ALWAYS and NEVER where the flow enters RECOVERY, and the cursor 0 of a procedure
or loader that begins, are the model's (assumptions 43, 8, 24, 21, 37). The geometry and the values of a
CONFIG whose first write is still in progress across a restart are the working copy's, which is the model's
(assumption 48). -/
def Obligations.SupplyEntries : Prop :=
  ∀ s : State, s.powered = true → s.NoWork →
    let quiet := { s with out := ⟨[], []⟩ }
    let moved := fun (normal : Bool) (cause : BitVec 11) => { quiet with
      supply := { s.supply with normal := normal, run := 0 }
      events := { s.events with pending :=
        if s.stage = .s0 then s.events.pending else s.events.pending ||| cause } }
    (s.supply.normal = false → exec .entryIntoLow s = .next quiet) ∧
    (s.supply.normal = true →
      (∀ w, s.engine.abortRequest = true → s.engine.state = .command w → w.StopsAtLow →
        ¬ s.AwaitsWrite) → exec .entryIntoLow s = .next (moved false 4)) ∧
    (∀ w, s.supply.normal = true → s.engine.abortRequest = true → s.engine.state = .command w →
      w.StopsAtLow → s.AwaitsWrite →
      exec .entryIntoLow s = .next ((moved false 4).abortedAt w)) ∧
    (s.supply.normal = true → exec .entryIntoNormal s = .next quiet) ∧
    (s.supply.normal = false → s.flow.phase = .none → s.slots.deferral = true →
      (∀ bit, s.engine.state ≠ .command (.deployBurn bit true)) →
      (s.engine.state ≠ .idle → exec .entryIntoNormal s = .next
        { moved true 8 with engine := { s.engine with floorBurnPending := true } }) ∧
      (s.engine.state = .idle → exec .entryIntoNormal s = .next
        (State.burnsGoOn { moved true 8 with slots := { s.slots with deferral := false } }
          .job ⟨false, false, false⟩))) ∧
    (∀ q, s.supply.normal = false → s.slots.deferral = false → s.engine.state = .idle →
      s.flow.phase = .burns q true → s.down.port = .idle → 0 < s.configGeo.recSize →
      exec .entryIntoNormal s = .next ((moved true 8).burnsGoOn .flow q)) ∧
    (s.supply.normal = false → s.slots.deferral = false → (∀ q, s.flow.phase ≠ .burns q true) →
      ((∀ bit, s.engine.state ≠ .command (.deployBurn bit true)) →
        exec .entryIntoNormal s = .next (moved true 8)) ∧
      ∀ bit, s.engine.state = .command (.deployBurn bit true) → s.fuses.burn = none →
        s.fuses.image.burned ⟨.lifecycle, bit⟩ = false →
        exec .entryIntoNormal s = .next (State.goesOn
          { moved true 8 with fuses := { s.fuses with
            burn := some ⟨⟨.lifecycle, bit⟩, 0, .command⟩ } } (.deployBurn bit false)))

/-- O. PRESS, RELEASE and the expiries of PRESENCE, GATE and PENALTY (R174, R175, R163, R164). An expiry row
has effect only once its channel has produced the expiry (R13), a press or a release only where it changes
the level; during S0 neither changes the Presence Unit's state. PRESENCE's expiry in PRESSED requests
OWNER_RESET on a DEPLOYED part, which an idle engine starts (R68, R176). STOP, which CRED_SET,
UPDATE_CONFIRM, STAGE_ADVANCE, GATE_CLOSE and the owner reset give, holds a running channel's count and
takes an expired one to count 0 (R14). Where a press and a release can happen is the model's (assumption 8),
and so is the phase 0 of a channel that is stopped or expired (assumption 44). -/
def Obligations.ButtonAndExpiries : Prop :=
  (∀ c : Channel, (c.state = .running → c.stop = ⟨c.count, 0, .stopped, false⟩) ∧
    (c.state = .expired → c.stop = ⟨0, 0, .stopped, false⟩) ∧ (c.state = .stopped → c.stop = c)) ∧
  ∀ s : State, s.powered = true → s.Quiet →
    let quiet := { s with out := ⟨[], []⟩ }
    let level := fun (b : Bool) => { quiet with presence := { s.presence with level := b, ticks := 0 } }
    let into := fun (t : State) (p : PresenceState) => { t with presence := { t.presence with state := p } }
    let started := fun (t : State) (count : Nat) =>
      { t with timers := { t.timers with presence := ⟨count, 0, .running, false⟩ } }
    let can : Channel → Bool := fun c => c.due
    let gone : Channel := ⟨0, 0, .expired, false⟩
    let t := { quiet with timers := { s.timers with presence := gone } }
    exec .press s = .next
      (if s.presence.level = true then quiet
      else if s.stage ≠ .s0 ∧ (s.presence.state = .idle ∨ s.presence.state = .proven) then
        started (into (level true) .pressed) (s.presence.holdTime * 10)
      else level true) ∧
    exec .release s = .next
      (if s.presence.level = false then quiet
      else if s.stage ≠ .s0 ∧ s.presence.state = .pressed then
        let u := started (into (level false) .proven) 1200
        { u with events := { s.events with pending := s.events.pending ||| 16 } }
      else if s.stage ≠ .s0 ∧ s.presence.state = .waitRelease then into (level false) .idle
      else level false) ∧
    ((can s.timers.presence = false → exec .presenceExpiry s = .next quiet) ∧
      (can s.timers.presence = true →
        (s.presence.state = .proven → exec .presenceExpiry s = .next (into t .idle)) ∧
        (s.presence.state = .pressed → s.fuses.image.lifecycle = 0 →
          exec .presenceExpiry s = .next (into t .waitRelease)) ∧
        (s.presence.state = .pressed → s.fuses.image.lifecycle ≠ 0 → s.engine.state ≠ .idle →
          exec .presenceExpiry s = .next
            { into t .waitRelease with engine := { s.engine with ownerResetPending := true } }) ∧
        (s.presence.state = .pressed → s.fuses.image.lifecycle ≠ 0 → s.engine.state = .idle →
          exec .presenceExpiry s = .next (into t .waitRelease).wiping) ∧
        (s.presence.state = .idle ∨ s.presence.state = .waitRelease →
          exec .presenceExpiry s = .next t))) ∧
    exec .gateExpiry s = .next
      (if can s.timers.gate = true then
        { quiet with
          cred := { s.cred with gateOpen := false }
          timers := { s.timers with gate := ⟨0, 0, .stopped, false⟩ }
          events := { s.events with
            pending := if s.cred.gateOpen = true then s.events.pending ||| 64
              else s.events.pending } }
      else quiet) ∧
    exec .penaltyExpiry s = .next
      (if can s.timers.penalty = true then { quiet with timers := { s.timers with penalty := gone } }
      else quiet)

/-- O. BASE_TICK takes one supply sample, one tick of each running channel and one comparison of the button
(R11, R13, R128, R129, R174): a channel whose count reaches 0 becomes EXPIRED with its expiry produced
(R13), D samples that speak for the other state make its entry due (R129), 20 comparisons that differ a
press or a release (R174). What is due is then taken as by its own row: the events the operand names, in its
order, then the monitor's and the button's; an expiry it does not name waits for its row. Which events of
one tick come first, and which expiries wait, is the sender's operand (assumption 8). The expired channel's
phase 0 is the model's (assumption 44). -/
def Obligations.BaseTickCounts : Prop :=
  ∀ (s : State) (code : BitVec 12) (pressed : Bool) (order : List TickEvent), s.powered = true →
    s.Quiet → order.Nodup →
    let mv := if code = 0 then 6000 else min (s.supply.calibration * 4096 / code.toNat) 6000
    let sup := s.supply
    let speaks : Bool := if sup.normal = true then decide (mv < sup.threshold)
      else decide (sup.threshold + sup.hysteresis ≤ mv)
    let tick := fun (period : Nat) (c : Channel) =>
      if c.state = .running then
        if c.phase + 1 < period then { c with phase := c.phase + 1 }
        else if 1 < c.count then { c with phase := 0, count := c.count - 1 }
        else ⟨0, 0, .expired, true⟩
      else c
    let ticks := if pressed = s.presence.level then 0 else min (s.presence.ticks + 1) 20
    let t : State := { s with
      out := ⟨[], []⟩
      supply := { sup with reading := mv, run := if speaks = true then min (sup.run + 1) 16 else 0 }
      timers := ⟨tick 1000 s.timers.trial, tick 1000 s.timers.gate, tick 1000 s.timers.penalty,
        tick 100 s.timers.presence⟩
      presence := { s.presence with pin := pressed, ticks := ticks } }
    let entryDue := speaks = true ∧ sup.samples ≤ sup.run + 1
    let buttonDue := pressed ≠ s.presence.level ∧ 20 ≤ s.presence.ticks + 1
    let entry : Instr := if sup.normal = true then .entryIntoLow else .entryIntoNormal
    let button : Instr := if pressed = true then .press else .release
    let row : TickEvent → Option Instr := fun e => match e with
      | .supply => if entryDue then some entry else none
      | .trial => some .trialExpiry
      | .gate => some .gateExpiry
      | .penalty => some .penaltyExpiry
      | .presence => some .presenceExpiry
      | .button => if buttonDue then some button else none
    let unnamed := ([.supply, .button] : List TickEvent).filter fun e => decide (e ∉ order)
    exec (.baseTick code pressed order) s = .next (t.inTurn ((order ++ unnamed).filterMap row)) ∧
    ((∀ e ∈ order, e = .supply ∨ e = .button) →
      (¬ entryDue → ¬ buttonDue → exec (.baseTick code pressed order) s = .next t) ∧
      (entryDue → ¬ buttonDue → exec (.baseTick code pressed order) s = exec entry t) ∧
      (¬ entryDue → buttonDue → exec (.baseTick code pressed order) s = exec button t)) ∧
    (t.timers.trial.due = false → t.timers.gate.due = false → t.timers.penalty.due = false →
      t.timers.presence.due = false → ¬ entryDue → ¬ buttonDue →
      exec (.baseTick code pressed order) s = .next t) ∧
    (sup.normal = true → entryDue → ¬ buttonDue → s.engine.abortRequest = false →
      t.timers.trial.due = false → t.timers.gate.due = false → t.timers.penalty.due = false →
      t.timers.presence.due = false → exec (.baseTick code pressed order) s = .next { t with
        supply := { t.supply with normal := false, run := 0 }
        events := { s.events with pending :=
          if s.stage = .s0 then s.events.pending else s.events.pending ||| 4 } })

/-! ### Power, flows, jobs -/

/-- O. POWER_LOSS keeps the stored records and the array's bits, leaves the bit of a burn cut short
doubtful, and ends everything else, a write in progress among it (R116, R119, R125). POWER_ON forms the
images from what is sensed, a doubtful bit either way, and the calibration value with CAL_DEFAULT from the
CALIBRATION image (R118); it reads every record present into its owner's working copy, and gives each owner
of an absent record the values of absence (R123): the thresholds (R130), the gate idle time (R162), the hold
time (R174), f, the epoch, the pending values, the boot counter and the last boot reason (R76, R99, R133); a
slot below the floor becomes FAILED and its SLOT write is asked for (R76, R79); and the flow's step 1 is
made in S0, every other field at its power-on value (R2, R11, R34, R35, R89, R115, R184). An unpowered part
takes no other command (the model's, assumption 1), and holds power-on values in what is volatile
(assumption 31); a supply already applied is lost first, a bit sensed burned is burned from then on (R120)
and one sensed unburned stays doubtful (assumption 14); the draws count on (assumption 4), step 1 comes in
the same row (assumption 33), and the halves of CALIBRATION, PRESENCE_IN released, the response's fields,
the chunk's zeros, the engine's cursor, digest and manifest, and the stopped channels' phase are the model's
(assumptions 10, 16, 35, 43, 44). That UPDATE_CONFIRM's COUNTERS write in progress is lost whole too, as
R110, R112, R125 and R127 say and against R115's power-on column, is the model's (assumption 38). -/
def Obligations.PowerLossAndPowerOn : Prop :=
  ∀ s : State,
    let cut := match s.fuses.burn with
      | none => s.fuses.doubtful
      | some b =>
        if b.target ∈ s.fuses.doubtful ∨ s.fuses.array.burned b.target = true then s.fuses.doubtful
        else s.fuses.doubtful ++ [b.target]
    let store := s.records.store
    let off : Channel := ⟨0, 0, .stopped, false⟩
    let noKey : Fin 16 → KeyRec := fun i =>
      ⟨false, [], none, if i = 0 then ⟨8, 0⟩ else if i = 3 then ⟨13, 2⟩ else ⟨0, 0⟩, false, []⟩
    let fresh : State := {
      pending := s.pending
      powered := false
      stage := .num 0
      up := ⟨false, false, none, []⟩
      filter := ⟨.passthrough, ⟨16777216, 0, 16711680, 0, 0⟩, ⟨[], none, []⟩⟩
      down := ⟨.idle, ⟨0, 0, [], .none⟩, 0xff, 0xff, 0xff⟩
      ve := ⟨.none, [], 0, ShaState.initial⟩
      slots := ⟨⟨.empty, .empty, .none, none⟩, ⟨.empty, .empty, .none, none⟩, 0, 0, false, 0,
        .powerOn⟩
      keys := Vector.ofFn noKey
      cred := ⟨Vector.replicate 24 .empty, false, 0, 0, false, 300⟩
      presence := ⟨false, false, 0, .idle, 10⟩
      log := ⟨[], List.replicate 32 0⟩
      events := ⟨0, 0, [], 0⟩
      fuses := ⟨⟨0, 0, 0, 0, 0⟩, s.fuses.array, cut, none, []⟩
      records := ⟨store, [], none⟩
      config := none
      cert := none
      supply := ⟨false, 0, 0, 3000, 100, 4, 1200, true⟩
      timers := ⟨off, off, off, off⟩
      aperture := ⟨none, ⟨.empty, 0, 0, .ok, 0, false, false, 0, [], false⟩, none, none⟩
      engine := ⟨.idle, false, false, false, none⟩
      flow := ⟨.wait, .powerOn⟩
      resetIn := s.resetIn
      draws := s.draws
      out := ⟨[], []⟩ }
    (s.powered = true → exec .powerLoss s = .next fresh) ∧
    (s.powered = false → ∀ c, (∀ sensed pin, c ≠ .powerOn sensed pin) →
      exec c s = .next { s with out := ⟨[], []⟩ }) ∧
    ∀ (sensed : List FuseBit) (pin : Bool),
      let rows := (cut.filter fun b => decide (b ∈ sensed)).foldl FuseRows.set s.fuses.array
      let c := store.config.getD ⟨⟨16777216, 0, 16711680, 0, 0⟩, 3000, 100, 4, 300, 10⟩
      let n := store.counters.getD ⟨0, .powerOn, 0, 0, 0, 0⟩
      let calMv := rows.calibration.toNat % 65536
      let calValid := 1100 ≤ calMv ∧ calMv ≤ 1300 ∧ rows.calibration.toNat / 65536 = 65535 - calMv
      let loadedOf : Option SlotStored → SlotRec := fun stored => match stored with
        | none => ⟨.empty, .empty, .none, none⟩
        | some r => ⟨r.state, r.state, r.reason, r.summary⟩
      let low : SlotRec → Bool := fun r =>
        decide (r.state = .verified ∨ r.state = .armed ∨ r.state = .trial ∨ r.state = .active ∨
          r.state = .spare) &&
        r.summary.any fun m => decide (m.securityVersion < max rows.count n.pendingFloor)
      let become : SlotRec → SlotRec := fun r =>
        if low r = true then ⟨.failed, .failed, .rollback, r.summary⟩ else r
      let a := loadedOf store.slotA
      let b := loadedOf store.slotB
      exec (.powerOn sensed pin) s = .next { fresh with
        powered := true
        resetIn := pin
        fuses := ⟨rows, rows, cut.filter fun b => decide (b ∉ sensed), none, []⟩
        records := ⟨store, ([(SlotId.a, a), (.b, b)].filter fun x => low x.2).map fun x =>
          ⟨.slot x.1, [⟨.block, .asIs⟩]⟩, none⟩
        config := store.config
        cert := store.cert
        keys := Vector.ofFn fun i => (store.keys[i]).getD (noKey i)
        cred := ⟨store.creds.map fun k => k.getD .empty, false, n.failCount, n.ownerEpoch, false,
          c.gateIdle⟩
        presence := ⟨false, false, 0, .idle, c.holdTime⟩
        slots := ⟨become a, become b, n.pendingFloor, n.pendingRevoke, false, n.bootCounter,
          n.lastReason⟩
        supply := ⟨false, 0, 0, c.threshold, c.hysteresis, c.samples,
          if calValid then calMv else 1200, decide (¬ calValid)⟩ } ∧
      rows.deviceId = s.fuses.array.deviceId ∧ rows.calibration = s.fuses.array.calibration ∧
      ∀ b : FuseBit, b.inRow = true → (rows.burned b = true ↔
        s.fuses.array.burned b = true ∨ (b ∈ cut ∧ b ∈ sensed))

/-- O. BOOT_FLOW_RESUME: the flow waits in step 2 for a NORMAL supply, RESET_IN released and an idle flash
(R89); then it captures the identification (R25), counts the boot and asks for one COUNTERS write (R90). In
FACTORY the flow ends in PASSTHROUGH with stage UNSET (R90, R3, R96); in DEPLOYED step 5 burns what is due,
a COUNTER or a REVOKE bit, the flow then waiting for it (R91, R111); with nothing due an unconfirmed trial
fails (R92) and the candidates are verified in order, else RECOVERY (R93). A release with an owner reset
left unfinished starts it again (R177). That the row does nothing while the flow cannot resume, that a raise
past its target counts as a failed bit, and bound 0 in the built-in RECOVERY policy's ALWAYS and NEVER and
the cursor 0 of a procedure or loader that begins, are the model's (assumptions 26, 21, 37, 43). The
geometry and the values of a CONFIG whose first write is still in progress across a restart are the working
copy's, which is the model's (assumption 48). -/
def Obligations.FlowResumes : Prop :=
  ∀ (s : State) (id0 id1 id2 : Byte), s.powered = true → s.Quiet →
    let counted := { s with
      out := ⟨[], [.identify]⟩
      down := { s.down with id0 := id0, id1 := id1, id2 := id2 }
      slots := { s.slots with
        bootCounter := min (s.slots.bootCounter + 1) 4294967295, lastReason := s.flow.reason }
      records := { s.records with
        waiting := requestIn s.records.waiting .counters ⟨.block, .asIs⟩ } }
    let ready := s.flow.phase = .wait ∧ s.supply.normal = true ∧ s.resetIn = false ∧
      s.down.port ≠ .flashBusy
    (¬ ready → exec (.bootFlowResume id0 id1 id2) s = .next { s with out := ⟨[], []⟩ }) ∧
    (ready →
      let count := min (s.slots.bootCounter + 1) 4294967295
      (s.fuses.image.lifecycle = 0 → s.engine.state = .idle →
        exec (.bootFlowResume id0 id1 id2) s = .next (State.handedOver { counted with
          filter := ⟨.passthrough, (s.config.getD ConfigRec.default).geo, ⟨[], none, []⟩⟩
          log := s.log.append .part s.stage (sha256 s.partInput) [] })) ∧
      (s.fuses.image.lifecycle = 0 → s.cred.wipeUnfinished = false →
        ∃ t, exec (.bootFlowResume id0 id1 id2) s = .next t ∧
        t.out = ⟨[], [.identify]⟩ ∧ t.down = { s.down with id0 := id0, id1 := id1, id2 := id2 } ∧
        t.slots = { s.slots with bootCounter := count, lastReason := s.flow.reason } ∧
        t.records = { s.records with
          waiting := requestIn s.records.waiting .counters ⟨.block, .asIs⟩ } ∧
        t.stage = .unset ∧ t.flow = { s.flow with phase := .none } ∧
        t.filter = ⟨.passthrough, (s.config.getD ConfigRec.default).geo, ⟨[], none, []⟩⟩ ∧
        t.log = s.log.append .part s.stage (sha256 s.partInput) [] ∧
        t.presence = { s.presence with
          state := if s.presence.level = true then .waitRelease else .idle } ∧
        t.cred = s.cred ∧ t.fuses = s.fuses ∧ t.keys = s.keys ∧ t.engine = s.engine) ∧
      (s.fuses.image.lifecycle ≠ 0 → s.engine.state = .idle → s.down.port = .idle →
        0 < s.configGeo.recSize → exec (.bootFlowResume id0 id1 id2) s = .next
          (counted.burnsGoOn .flow ⟨false, false, false⟩)) ∧
      (∀ b p, s.fuses.image.lifecycle ≠ 0 → s.nextBit ⟨false, false, false⟩ = (some b, p) →
        s.fuses.burn = none → exec (.bootFlowResume id0 id1 id2) s = .next { counted with
          fuses := { s.fuses with burn := some ⟨b, 0, .flow⟩ }
          flow := { s.flow with phase := .burns p false } }) ∧
      (s.fuses.image.lifecycle ≠ 0 → s.slots.pendingFloor ≤ s.fuses.image.count →
        s.slots.pendingRevoke &&& ~~~ s.fuses.image.revoke = 0 → s.down.port = .idle →
        let after := fun x => if (s.slot x).state = .trial then
          { s.slot x with state := .failed, prior := .failed, reason := .trialUnconfirmed }
          else s.slot x
        let candidates := [SlotState.armed, .active, .spare, .verified, .staged].flatMap fun st =>
          [SlotId.a, .b].filter fun x => decide ((after x).state = st)
        let geo := (s.config.getD ConfigRec.default).geo
        ∃ t, exec (.bootFlowResume id0 id1 id2) s = .next t ∧
          t.stage = s.stage ∧ t.slots.bootCounter = count ∧ t.slots.lastReason = s.flow.reason ∧
          t.slot .a = after .a ∧ t.slot .b = after .b ∧ t.fuses = s.fuses ∧ t.log = s.log ∧
          (∀ x rest, candidates = x :: rest → t.flow.phase = .verifying x rest true ∧
            t.ve.work = .manifest x ∧ t.filter = s.filter ∧
            t.down.chunk = ⟨if x = .a then 0 else geo.slotSize, 4096, [], .inFlight⟩) ∧
          (candidates = [] → 0 < geo.recSize → t.flow.phase = .loader ∧ t.ve.work = .loader ∧
            t.filter.mode = .recovery ∧
            t.down.chunk = ⟨geo.recBase, min 4096 geo.recSize, [], .inFlight⟩)))

/-- O. The internal jobs. OWNER_RESET outside S0 in DEPLOYED: the gate closes, the wipe is marked
unfinished, and the SET credentials and PRESENT owner keys are emptied in order; the wipe's last write
done, the COUNTERS write is asked for, or, where a write kept across a restart has cleared the flag, the
job ends (R176, R177); its end appends an OWNER_RESET record and raises OWNER_RESET_DONE (R154, R176). A
restart keeps the flag, and the release step of its flow, here out of RECOVERY, starts the job again
(R177). FLOOR_BURN: with nothing due it raises FLOOR_SETTLED, with a LOW supply it defers, else it burns
the next COUNTER or REVOKE bit (R113, R114). A busy engine leaves either pending (R68), and
FramesWhileTheEngineWorks says what then starts it. That the row is the job's request, and that a raise
past its target counts as a failed bit, are the model's (assumptions 15, 21), and so is the phase 0 of the
stopped GATE (assumption 44). -/
def Obligations.InternalJobs : Prop :=
  ∀ s : State, s.powered = true → s.NoWork →
    let quiet := { s with out := ⟨[], []⟩ }
    let owner := s.stage ≠ .s0 ∧ s.fuses.image.lifecycle ≠ 0
    (¬ owner → exec .ownerReset s = .next quiet) ∧
    (owner → s.engine.state ≠ .idle → exec .ownerReset s = .next
      { quiet with engine := { s.engine with ownerResetPending := true } }) ∧
    (owner → s.engine.state = .idle → exec .ownerReset s = .next quiet.wiping) ∧
    (∀ awaited w, s.engine.state = .job (.wipe awaited) → s.records.writing = some w →
      (∃ q ∈ w.requesters, q.who = .job) → (∀ q ∈ w.requesters, ∀ f v, q.change ≠ .confirm f v) →
      let t := { quiet with records := { s.records with
        store := s.records.store.put w.record w.content, writing := none } }
      (awaited.erase w.record ≠ [] → exec .recordWriteComplete s = .next
        { t with engine := { s.engine with state := .job (.wipe (awaited.erase w.record)) } }) ∧
      (awaited.erase w.record = [] → s.cred.wipeUnfinished = true →
        exec .recordWriteComplete s = .next t.wipeCounting) ∧
      (awaited.erase w.record = [] → s.cred.wipeUnfinished = false →
        exec .recordWriteComplete s = .next { t with
          log := s.log.append .ownerReset s.stage zeroDigest []
          events := { s.events with pending := s.events.pending ||| 32 }
          engine := { s.engine with state := .idle } })) ∧
    (∀ why, (s.restarted why).cred.wipeUnfinished = s.cred.wipeUnfinished) ∧
    (∀ data, s.flow.phase = .loader → s.engine.state = .idle → s.down.chunk.st = .inFlight →
      s.down.chunk.length ≤ (s.down.chunk.got ++ data).length → s.filter.mode = .recovery →
      s.configGeo.recSize ≤ s.ve.cursor + s.down.chunk.length → s.cred.wipeUnfinished = true →
      ∃ t : State, exec (.chunkComplete data) s = .next t.wiping ∧ t.stage = .unset ∧
        t.cred = s.cred ∧ t.keys = s.keys ∧ t.records = s.records ∧ t.engine = s.engine) ∧
    (∀ w, s.engine.state = .job .wipeCounters → s.records.writing = some w →
      (∃ q ∈ w.requesters, q.who = .job) → (∀ q ∈ w.requesters, ∀ f v, q.change ≠ .confirm f v) →
      exec .recordWriteComplete s = .next { quiet with
        records := { s.records with
          store := s.records.store.put w.record w.content, writing := none }
        log := s.log.append .ownerReset s.stage zeroDigest []
        events := { s.events with pending := s.events.pending ||| 32 }
        engine := { s.engine with state := .idle } }) ∧
    (s.stage = .s0 → exec .floorBurn s = .next quiet) ∧
    (s.stage ≠ .s0 → s.engine.state ≠ .idle → exec .floorBurn s = .next
      { quiet with engine := { s.engine with floorBurnPending := true } }) ∧
    (s.stage ≠ .s0 → s.engine.state = .idle →
      let c := s.fuses.image.count
      let cleared := { quiet with slots := { s.slots with deferral := false } }
      exec .floorBurn s = .next (cleared.burnsGoOn .job ⟨false, false, false⟩) ∧
      (s.slots.pendingFloor ≤ c → s.slots.pendingRevoke &&& ~~~ s.fuses.image.revoke = 0 →
        exec .floorBurn s = .next { cleared with
          events := { s.events with pending := s.events.pending ||| 512 } }) ∧
      (c < s.slots.pendingFloor →
        (s.fuses.image.set ⟨.counter, c⟩).count ≤ s.slots.pendingFloor →
        (s.supply.normal = false → exec .floorBurn s = .next
          { quiet with slots := { s.slots with deferral := true } }) ∧
        (s.supply.normal = true → s.fuses.burn = none →
          s.fuses.image.burned ⟨.counter, c⟩ = false →
          exec .floorBurn s = .next { cleared with
            fuses := { s.fuses with burn := some ⟨⟨.counter, c⟩, 0, .job⟩ }
            engine := { s.engine with state := .job (.floorBurn ⟨false, false, false⟩) } })))


/-! ### The machine -/

/-- O. A step takes the command at the front of the queue and runs it on the state with the queue's rest; on
an empty queue the block idles (assumption 1). -/
def Obligations.StepTakesTheFront : Prop :=
  (∀ (s : State) (c : Instr) (rest : List Instr), s.pending = c :: rest →
    step s = exec c { s with pending := rest }) ∧
  ∀ s : State, s.pending = [] → step s = .next s

/-- O. What reset leaves (R2, R11, R20, R30, R34, R35, R64, R76, R89, R115, R130, R148, R184): stage S0 with
SOC_RST_OUT asserted, the flow waiting in step 2, and every invariant of the statements below. The empty
queue is the model's (assumption 1), and so is a part never provisioned, every record absent, whose supply
thresholds in force are the defaults (assumption 16). -/
def Obligations.ResetState : Prop :=
  let s := State.reset
  s.stage = .num 0 ∧ s.socRstOut = true ∧ s.flow = ⟨.wait, .powerOn⟩ ∧ s.pending = [] ∧
  s.up = ⟨false, false, none, []⟩ ∧ s.down.port = .idle ∧ s.down.chunk.st = .none ∧
  (s.down.id0, s.down.id1, s.down.id2) = (0xff, 0xff, 0xff) ∧ s.filter.mode = .passthrough ∧
  s.filter.geo = ⟨16777216, 0, 16711680, 0, 0⟩ ∧ s.filter.table = ⟨[], none, []⟩ ∧
  s.aperture.resp.state = .empty ∧ s.aperture.rx = none ∧
  s.engine = ⟨.idle, false, false, false, none⟩ ∧ s.supply.normal = false ∧
  (s.supply.threshold, s.supply.hysteresis, s.supply.samples) = (3000, 100, 4) ∧
  s.log = ⟨[], zeroDigest⟩ ∧ s.events = ⟨0, 0, [], 0⟩ ∧ s.cred.gateOpen = false ∧
  s.presence.state = .idle ∧ s.slots.deferral = false ∧
  s.Quiet ∧ LogWellFormed s.log ∧ WaitingWellFormed s.records.waiting ∧ CountsInBounds s ∧
  TablesWithin s ∧ FlowInvariant s ∧ FusesInvariant s ∧ AwaitsMatch s

/-- O. Every step keeps the Measurement Log well formed: at most 64 records with their indices, OVERFLOW at
index 63 alone, the chain value that of the records (R148, R149, R150); the waiting list's form, each record
once and never without a requester (R124); and the bounds of the counts (R164, R181). -/
def Obligations.StepKeepsLogListAndCounts : Prop :=
  (∀ s t : State, step s = .next t → LogWellFormed s.log → LogWellFormed t.log) ∧
  (∀ s t : State, step s = .next t → WaitingWellFormed s.records.waiting →
    WaitingWellFormed t.records.waiting) ∧
  (∀ s t : State, step s = .next t → CountsInBounds s → CountsInBounds t) ∧
  ∀ s t : State, step s = .next t → AwaitsMatch s → AwaitsMatch t

/-- O. Every step keeps the stage S0 exactly while a flow is in progress, with the engine, the Presence Unit
and the deferral flag at rest in S0 (R2, R68, R89, R113, R174), and the gate OPEN exactly while GATE runs or
its expiry waits to be taken (R162, R163, R13, R15). Outside S0 a numeric stage never falls and UNSET stays
UNSET (R3, R4). -/
def Obligations.StepKeepsTheFlowInvariant : Prop :=
  ∀ s t : State, step s = .next t → FlowInvariant s →
    FlowInvariant t ∧ (s.stage ≠ .s0 → t.stage ≠ .s0 → Stage.Follows s.stage t.stage)

/-- O. Every step keeps the Region Table, and every snapshot of it, within what was loaded: no effective
condition allows what its loaded one refuses, and at most four tightening entries are held (R52). -/
def Obligations.StepKeepsTheTablesWithin : Prop :=
  ∀ s t : State, step s = .next t → TablesWithin s → TablesWithin t

/-- O. No step unburns a fuse: the array's bits stay burned, and while the part is powered the row images
read what the array holds, so that no burned bit ever reads unburned again, whatever POWER_ON senses of the
doubtful ones (R116, R120). -/
def Obligations.StepNeverUnburns : Prop :=
  ∀ s t : State, step s = .next t → FusesInvariant s →
    FusesInvariant t ∧ BurnedWithin s.fuses.array t.fuses.array ∧
    t.fuses.array.deviceId = s.fuses.array.deviceId ∧
    t.fuses.array.calibration = s.fuses.array.calibration ∧
    (s.powered = true → t.powered = true → BurnedWithin s.fuses.image t.fuses.image)

/-- O. The owner gate opens in no other way than by the completion of the COUNTERS write that returns f to 0
after a CRED_CHECK of id 0 that matched (R162, R167). That the command then awaits that write alone is an
invariant of its own, which reset has and every step keeps. -/
def Obligations.GateOpensOnlyAfterCredCheck : Prop :=
  ∀ s t : State, step s = .next t → AwaitsMatch s → s.cred.gateOpen = false →
    t.cred.gateOpen = true →
    s.engine.state = .command (.credClear 0) ∧ s.pending.head? = some .recordWriteComplete ∧
    ∃ w, s.records.writing = some w ∧ w.record = .counters ∧
      ∃ q ∈ w.requesters, q.who = .command ∧ q.change = .credClear
end

