-- ==== Sys2Proof/Laws/State.lean ====
section
/-! SUPPORT. One lemma per field per update of the state, each true by unfolding, so that no later proof
unfolds a record update. The file's last part gives the slot records. -/

namespace Sys2Proof.Machine

variable (s : State)

/-! ### clearOut -/

@[simp] theorem State.clearOut_pending : s.clearOut.pending = s.pending := rfl
@[simp] theorem State.clearOut_powered : s.clearOut.powered = s.powered := rfl
@[simp] theorem State.clearOut_stage : s.clearOut.stage = s.stage := rfl
@[simp] theorem State.clearOut_up : s.clearOut.up = s.up := rfl
@[simp] theorem State.clearOut_filter : s.clearOut.filter = s.filter := rfl
@[simp] theorem State.clearOut_down : s.clearOut.down = s.down := rfl
@[simp] theorem State.clearOut_ve : s.clearOut.ve = s.ve := rfl
@[simp] theorem State.clearOut_slots : s.clearOut.slots = s.slots := rfl
@[simp] theorem State.clearOut_keys : s.clearOut.keys = s.keys := rfl
@[simp] theorem State.clearOut_cred : s.clearOut.cred = s.cred := rfl
@[simp] theorem State.clearOut_presence : s.clearOut.presence = s.presence := rfl
@[simp] theorem State.clearOut_log : s.clearOut.log = s.log := rfl
@[simp] theorem State.clearOut_events : s.clearOut.events = s.events := rfl
@[simp] theorem State.clearOut_fuses : s.clearOut.fuses = s.fuses := rfl
@[simp] theorem State.clearOut_records : s.clearOut.records = s.records := rfl
@[simp] theorem State.clearOut_config : s.clearOut.config = s.config := rfl
@[simp] theorem State.clearOut_cert : s.clearOut.cert = s.cert := rfl
@[simp] theorem State.clearOut_supply : s.clearOut.supply = s.supply := rfl
@[simp] theorem State.clearOut_timers : s.clearOut.timers = s.timers := rfl
@[simp] theorem State.clearOut_aperture : s.clearOut.aperture = s.aperture := rfl
@[simp] theorem State.clearOut_engine : s.clearOut.engine = s.engine := rfl
@[simp] theorem State.clearOut_flow : s.clearOut.flow = s.flow := rfl
@[simp] theorem State.clearOut_resetIn : s.clearOut.resetIn = s.resetIn := rfl
@[simp] theorem State.clearOut_draws : s.clearOut.draws = s.draws := rfl
@[simp] theorem State.clearOut_out : s.clearOut.out = ⟨[], []⟩ := rfl

/-! ### toSoc -/

@[simp] theorem State.toSoc_pending (b : List Byte) : (s.toSoc b).pending = s.pending := rfl
@[simp] theorem State.toSoc_powered (b : List Byte) : (s.toSoc b).powered = s.powered := rfl
@[simp] theorem State.toSoc_stage (b : List Byte) : (s.toSoc b).stage = s.stage := rfl
@[simp] theorem State.toSoc_up (b : List Byte) : (s.toSoc b).up = s.up := rfl
@[simp] theorem State.toSoc_filter (b : List Byte) : (s.toSoc b).filter = s.filter := rfl
@[simp] theorem State.toSoc_down (b : List Byte) : (s.toSoc b).down = s.down := rfl
@[simp] theorem State.toSoc_ve (b : List Byte) : (s.toSoc b).ve = s.ve := rfl
@[simp] theorem State.toSoc_slots (b : List Byte) : (s.toSoc b).slots = s.slots := rfl
@[simp] theorem State.toSoc_keys (b : List Byte) : (s.toSoc b).keys = s.keys := rfl
@[simp] theorem State.toSoc_cred (b : List Byte) : (s.toSoc b).cred = s.cred := rfl
@[simp] theorem State.toSoc_presence (b : List Byte) : (s.toSoc b).presence = s.presence := rfl
@[simp] theorem State.toSoc_log (b : List Byte) : (s.toSoc b).log = s.log := rfl
@[simp] theorem State.toSoc_events (b : List Byte) : (s.toSoc b).events = s.events := rfl
@[simp] theorem State.toSoc_fuses (b : List Byte) : (s.toSoc b).fuses = s.fuses := rfl
@[simp] theorem State.toSoc_records (b : List Byte) : (s.toSoc b).records = s.records := rfl
@[simp] theorem State.toSoc_config (b : List Byte) : (s.toSoc b).config = s.config := rfl
@[simp] theorem State.toSoc_cert (b : List Byte) : (s.toSoc b).cert = s.cert := rfl
@[simp] theorem State.toSoc_supply (b : List Byte) : (s.toSoc b).supply = s.supply := rfl
@[simp] theorem State.toSoc_timers (b : List Byte) : (s.toSoc b).timers = s.timers := rfl
@[simp] theorem State.toSoc_aperture (b : List Byte) : (s.toSoc b).aperture = s.aperture := rfl
@[simp] theorem State.toSoc_engine (b : List Byte) : (s.toSoc b).engine = s.engine := rfl
@[simp] theorem State.toSoc_flow (b : List Byte) : (s.toSoc b).flow = s.flow := rfl
@[simp] theorem State.toSoc_resetIn (b : List Byte) : (s.toSoc b).resetIn = s.resetIn := rfl
@[simp] theorem State.toSoc_draws (b : List Byte) : (s.toSoc b).draws = s.draws := rfl
@[simp] theorem State.toSoc_out (b : List Byte) :
    (s.toSoc b).out = { s.out with toSoc := s.out.toSoc ++ b } := rfl

/-! ### toFlash -/

@[simp] theorem State.toFlash_pending (o : List DownOp) : (s.toFlash o).pending = s.pending := rfl
@[simp] theorem State.toFlash_powered (o : List DownOp) : (s.toFlash o).powered = s.powered := rfl
@[simp] theorem State.toFlash_stage (o : List DownOp) : (s.toFlash o).stage = s.stage := rfl
@[simp] theorem State.toFlash_up (o : List DownOp) : (s.toFlash o).up = s.up := rfl
@[simp] theorem State.toFlash_filter (o : List DownOp) : (s.toFlash o).filter = s.filter := rfl
@[simp] theorem State.toFlash_down (o : List DownOp) : (s.toFlash o).down = s.down := rfl
@[simp] theorem State.toFlash_ve (o : List DownOp) : (s.toFlash o).ve = s.ve := rfl
@[simp] theorem State.toFlash_slots (o : List DownOp) : (s.toFlash o).slots = s.slots := rfl
@[simp] theorem State.toFlash_keys (o : List DownOp) : (s.toFlash o).keys = s.keys := rfl
@[simp] theorem State.toFlash_cred (o : List DownOp) : (s.toFlash o).cred = s.cred := rfl
@[simp] theorem State.toFlash_presence (o : List DownOp) :
    (s.toFlash o).presence = s.presence := rfl
@[simp] theorem State.toFlash_log (o : List DownOp) : (s.toFlash o).log = s.log := rfl
@[simp] theorem State.toFlash_events (o : List DownOp) : (s.toFlash o).events = s.events := rfl
@[simp] theorem State.toFlash_fuses (o : List DownOp) : (s.toFlash o).fuses = s.fuses := rfl
@[simp] theorem State.toFlash_records (o : List DownOp) : (s.toFlash o).records = s.records := rfl
@[simp] theorem State.toFlash_config (o : List DownOp) : (s.toFlash o).config = s.config := rfl
@[simp] theorem State.toFlash_cert (o : List DownOp) : (s.toFlash o).cert = s.cert := rfl
@[simp] theorem State.toFlash_supply (o : List DownOp) : (s.toFlash o).supply = s.supply := rfl
@[simp] theorem State.toFlash_timers (o : List DownOp) : (s.toFlash o).timers = s.timers := rfl
@[simp] theorem State.toFlash_aperture (o : List DownOp) :
    (s.toFlash o).aperture = s.aperture := rfl
@[simp] theorem State.toFlash_engine (o : List DownOp) : (s.toFlash o).engine = s.engine := rfl
@[simp] theorem State.toFlash_flow (o : List DownOp) : (s.toFlash o).flow = s.flow := rfl
@[simp] theorem State.toFlash_resetIn (o : List DownOp) : (s.toFlash o).resetIn = s.resetIn := rfl
@[simp] theorem State.toFlash_draws (o : List DownOp) : (s.toFlash o).draws = s.draws := rfl
@[simp] theorem State.toFlash_out (o : List DownOp) :
    (s.toFlash o).out = { s.out with toFlash := s.out.toFlash ++ o } := rfl

/-! ### setPort -/

@[simp] theorem State.setPort_pending (p : PortState) : (s.setPort p).pending = s.pending := rfl
@[simp] theorem State.setPort_powered (p : PortState) : (s.setPort p).powered = s.powered := rfl
@[simp] theorem State.setPort_stage (p : PortState) : (s.setPort p).stage = s.stage := rfl
@[simp] theorem State.setPort_up (p : PortState) : (s.setPort p).up = s.up := rfl
@[simp] theorem State.setPort_filter (p : PortState) : (s.setPort p).filter = s.filter := rfl
@[simp] theorem State.setPort_down (p : PortState) :
    (s.setPort p).down = { s.down with port := p } := rfl
@[simp] theorem State.setPort_ve (p : PortState) : (s.setPort p).ve = s.ve := rfl
@[simp] theorem State.setPort_slots (p : PortState) : (s.setPort p).slots = s.slots := rfl
@[simp] theorem State.setPort_keys (p : PortState) : (s.setPort p).keys = s.keys := rfl
@[simp] theorem State.setPort_cred (p : PortState) : (s.setPort p).cred = s.cred := rfl
@[simp] theorem State.setPort_presence (p : PortState) : (s.setPort p).presence = s.presence := rfl
@[simp] theorem State.setPort_log (p : PortState) : (s.setPort p).log = s.log := rfl
@[simp] theorem State.setPort_events (p : PortState) : (s.setPort p).events = s.events := rfl
@[simp] theorem State.setPort_fuses (p : PortState) : (s.setPort p).fuses = s.fuses := rfl
@[simp] theorem State.setPort_records (p : PortState) : (s.setPort p).records = s.records := rfl
@[simp] theorem State.setPort_config (p : PortState) : (s.setPort p).config = s.config := rfl
@[simp] theorem State.setPort_cert (p : PortState) : (s.setPort p).cert = s.cert := rfl
@[simp] theorem State.setPort_supply (p : PortState) : (s.setPort p).supply = s.supply := rfl
@[simp] theorem State.setPort_timers (p : PortState) : (s.setPort p).timers = s.timers := rfl
@[simp] theorem State.setPort_aperture (p : PortState) : (s.setPort p).aperture = s.aperture := rfl
@[simp] theorem State.setPort_engine (p : PortState) : (s.setPort p).engine = s.engine := rfl
@[simp] theorem State.setPort_flow (p : PortState) : (s.setPort p).flow = s.flow := rfl
@[simp] theorem State.setPort_resetIn (p : PortState) : (s.setPort p).resetIn = s.resetIn := rfl
@[simp] theorem State.setPort_draws (p : PortState) : (s.setPort p).draws = s.draws := rfl
@[simp] theorem State.setPort_out (p : PortState) : (s.setPort p).out = s.out := rfl

/-! ### forward -/

@[simp] theorem State.forward_pending (o : DownOp) : (s.forward o).pending = s.pending := rfl
@[simp] theorem State.forward_powered (o : DownOp) : (s.forward o).powered = s.powered := rfl
@[simp] theorem State.forward_stage (o : DownOp) : (s.forward o).stage = s.stage := rfl
@[simp] theorem State.forward_up (o : DownOp) : (s.forward o).up = s.up := rfl
@[simp] theorem State.forward_filter (o : DownOp) : (s.forward o).filter = s.filter := rfl
@[simp] theorem State.forward_down (o : DownOp) :
    (s.forward o).down = { s.down with port := .flashBusy, chunk := s.down.chunk.preempted } := rfl
@[simp] theorem State.forward_ve (o : DownOp) : (s.forward o).ve = s.ve := rfl
@[simp] theorem State.forward_slots (o : DownOp) : (s.forward o).slots = s.slots := rfl
@[simp] theorem State.forward_keys (o : DownOp) : (s.forward o).keys = s.keys := rfl
@[simp] theorem State.forward_cred (o : DownOp) : (s.forward o).cred = s.cred := rfl
@[simp] theorem State.forward_presence (o : DownOp) : (s.forward o).presence = s.presence := rfl
@[simp] theorem State.forward_log (o : DownOp) : (s.forward o).log = s.log := rfl
@[simp] theorem State.forward_events (o : DownOp) : (s.forward o).events = s.events := rfl
@[simp] theorem State.forward_fuses (o : DownOp) : (s.forward o).fuses = s.fuses := rfl
@[simp] theorem State.forward_records (o : DownOp) : (s.forward o).records = s.records := rfl
@[simp] theorem State.forward_config (o : DownOp) : (s.forward o).config = s.config := rfl
@[simp] theorem State.forward_cert (o : DownOp) : (s.forward o).cert = s.cert := rfl
@[simp] theorem State.forward_supply (o : DownOp) : (s.forward o).supply = s.supply := rfl
@[simp] theorem State.forward_timers (o : DownOp) : (s.forward o).timers = s.timers := rfl
@[simp] theorem State.forward_aperture (o : DownOp) : (s.forward o).aperture = s.aperture := rfl
@[simp] theorem State.forward_engine (o : DownOp) : (s.forward o).engine = s.engine := rfl
@[simp] theorem State.forward_flow (o : DownOp) : (s.forward o).flow = s.flow := rfl
@[simp] theorem State.forward_resetIn (o : DownOp) : (s.forward o).resetIn = s.resetIn := rfl
@[simp] theorem State.forward_draws (o : DownOp) : (s.forward o).draws = s.draws := rfl
@[simp] theorem State.forward_out (o : DownOp) :
    (s.forward o).out = { s.out with toFlash := s.out.toFlash ++ [.writeEnable, o] } := rfl

/-! ### raise -/

@[simp] theorem State.raise_pending (c : Cause) : (s.raise c).pending = s.pending := rfl
@[simp] theorem State.raise_powered (c : Cause) : (s.raise c).powered = s.powered := rfl
@[simp] theorem State.raise_stage (c : Cause) : (s.raise c).stage = s.stage := rfl
@[simp] theorem State.raise_up (c : Cause) : (s.raise c).up = s.up := rfl
@[simp] theorem State.raise_filter (c : Cause) : (s.raise c).filter = s.filter := rfl
@[simp] theorem State.raise_down (c : Cause) : (s.raise c).down = s.down := rfl
@[simp] theorem State.raise_ve (c : Cause) : (s.raise c).ve = s.ve := rfl
@[simp] theorem State.raise_slots (c : Cause) : (s.raise c).slots = s.slots := rfl
@[simp] theorem State.raise_keys (c : Cause) : (s.raise c).keys = s.keys := rfl
@[simp] theorem State.raise_cred (c : Cause) : (s.raise c).cred = s.cred := rfl
@[simp] theorem State.raise_presence (c : Cause) : (s.raise c).presence = s.presence := rfl
@[simp] theorem State.raise_log (c : Cause) : (s.raise c).log = s.log := rfl
@[simp] theorem State.raise_events (c : Cause) :
    (s.raise c).events = { s.events with pending := s.events.pending ||| c.mask } := rfl
@[simp] theorem State.raise_fuses (c : Cause) : (s.raise c).fuses = s.fuses := rfl
@[simp] theorem State.raise_records (c : Cause) : (s.raise c).records = s.records := rfl
@[simp] theorem State.raise_config (c : Cause) : (s.raise c).config = s.config := rfl
@[simp] theorem State.raise_cert (c : Cause) : (s.raise c).cert = s.cert := rfl
@[simp] theorem State.raise_supply (c : Cause) : (s.raise c).supply = s.supply := rfl
@[simp] theorem State.raise_timers (c : Cause) : (s.raise c).timers = s.timers := rfl
@[simp] theorem State.raise_aperture (c : Cause) : (s.raise c).aperture = s.aperture := rfl
@[simp] theorem State.raise_engine (c : Cause) : (s.raise c).engine = s.engine := rfl
@[simp] theorem State.raise_flow (c : Cause) : (s.raise c).flow = s.flow := rfl
@[simp] theorem State.raise_resetIn (c : Cause) : (s.raise c).resetIn = s.resetIn := rfl
@[simp] theorem State.raise_draws (c : Cause) : (s.raise c).draws = s.draws := rfl
@[simp] theorem State.raise_out (c : Cause) : (s.raise c).out = s.out := rfl

/-! ### violate -/

@[simp] theorem State.violate_pending (v : Violation) : (s.violate v).pending = s.pending := rfl
@[simp] theorem State.violate_powered (v : Violation) : (s.violate v).powered = s.powered := rfl
@[simp] theorem State.violate_stage (v : Violation) : (s.violate v).stage = s.stage := rfl
@[simp] theorem State.violate_up (v : Violation) : (s.violate v).up = s.up := rfl
@[simp] theorem State.violate_filter (v : Violation) : (s.violate v).filter = s.filter := rfl
@[simp] theorem State.violate_down (v : Violation) : (s.violate v).down = s.down := rfl
@[simp] theorem State.violate_ve (v : Violation) : (s.violate v).ve = s.ve := rfl
@[simp] theorem State.violate_slots (v : Violation) : (s.violate v).slots = s.slots := rfl
@[simp] theorem State.violate_keys (v : Violation) : (s.violate v).keys = s.keys := rfl
@[simp] theorem State.violate_cred (v : Violation) : (s.violate v).cred = s.cred := rfl
@[simp] theorem State.violate_presence (v : Violation) : (s.violate v).presence = s.presence := rfl
@[simp] theorem State.violate_log (v : Violation) : (s.violate v).log = s.log := rfl
@[simp] theorem State.violate_events (v : Violation) :
    (s.violate v).events = { s.events with
      pending := s.events.pending ||| Cause.mask .violation
      violations := mergeViolation s.events.violations v
      total := min (s.events.total + 1) 4294967295 } := rfl
@[simp] theorem State.violate_fuses (v : Violation) : (s.violate v).fuses = s.fuses := rfl
@[simp] theorem State.violate_records (v : Violation) : (s.violate v).records = s.records := rfl
@[simp] theorem State.violate_config (v : Violation) : (s.violate v).config = s.config := rfl
@[simp] theorem State.violate_cert (v : Violation) : (s.violate v).cert = s.cert := rfl
@[simp] theorem State.violate_supply (v : Violation) : (s.violate v).supply = s.supply := rfl
@[simp] theorem State.violate_timers (v : Violation) : (s.violate v).timers = s.timers := rfl
@[simp] theorem State.violate_aperture (v : Violation) : (s.violate v).aperture = s.aperture := rfl
@[simp] theorem State.violate_engine (v : Violation) : (s.violate v).engine = s.engine := rfl
@[simp] theorem State.violate_flow (v : Violation) : (s.violate v).flow = s.flow := rfl
@[simp] theorem State.violate_resetIn (v : Violation) : (s.violate v).resetIn = s.resetIn := rfl
@[simp] theorem State.violate_draws (v : Violation) : (s.violate v).draws = s.draws := rfl
@[simp] theorem State.violate_out (v : Violation) : (s.violate v).out = s.out := rfl

/-! ### setSlot -/

@[simp] theorem State.setSlot_pending (x : SlotId) (r : SlotRec) :
    (s.setSlot x r).pending = s.pending := rfl
@[simp] theorem State.setSlot_powered (x : SlotId) (r : SlotRec) :
    (s.setSlot x r).powered = s.powered := rfl
@[simp] theorem State.setSlot_stage (x : SlotId) (r : SlotRec) :
    (s.setSlot x r).stage = s.stage := rfl
@[simp] theorem State.setSlot_up (x : SlotId) (r : SlotRec) : (s.setSlot x r).up = s.up := rfl
@[simp] theorem State.setSlot_filter (x : SlotId) (r : SlotRec) :
    (s.setSlot x r).filter = s.filter := rfl
@[simp] theorem State.setSlot_down (x : SlotId) (r : SlotRec) : (s.setSlot x r).down = s.down := rfl
@[simp] theorem State.setSlot_ve (x : SlotId) (r : SlotRec) : (s.setSlot x r).ve = s.ve := rfl
@[simp] theorem State.setSlot_slots (x : SlotId) (r : SlotRec) :
    (s.setSlot x r).slots = s.slots.put x r := rfl
@[simp] theorem State.setSlot_keys (x : SlotId) (r : SlotRec) : (s.setSlot x r).keys = s.keys := rfl
@[simp] theorem State.setSlot_cred (x : SlotId) (r : SlotRec) : (s.setSlot x r).cred = s.cred := rfl
@[simp] theorem State.setSlot_presence (x : SlotId) (r : SlotRec) :
    (s.setSlot x r).presence = s.presence := rfl
@[simp] theorem State.setSlot_log (x : SlotId) (r : SlotRec) : (s.setSlot x r).log = s.log := rfl
@[simp] theorem State.setSlot_events (x : SlotId) (r : SlotRec) :
    (s.setSlot x r).events = s.events := rfl
@[simp] theorem State.setSlot_fuses (x : SlotId) (r : SlotRec) :
    (s.setSlot x r).fuses = s.fuses := rfl
@[simp] theorem State.setSlot_records (x : SlotId) (r : SlotRec) :
    (s.setSlot x r).records = s.records := rfl
@[simp] theorem State.setSlot_config (x : SlotId) (r : SlotRec) :
    (s.setSlot x r).config = s.config := rfl
@[simp] theorem State.setSlot_cert (x : SlotId) (r : SlotRec) : (s.setSlot x r).cert = s.cert := rfl
@[simp] theorem State.setSlot_supply (x : SlotId) (r : SlotRec) :
    (s.setSlot x r).supply = s.supply := rfl
@[simp] theorem State.setSlot_timers (x : SlotId) (r : SlotRec) :
    (s.setSlot x r).timers = s.timers := rfl
@[simp] theorem State.setSlot_aperture (x : SlotId) (r : SlotRec) :
    (s.setSlot x r).aperture = s.aperture := rfl
@[simp] theorem State.setSlot_engine (x : SlotId) (r : SlotRec) :
    (s.setSlot x r).engine = s.engine := rfl
@[simp] theorem State.setSlot_flow (x : SlotId) (r : SlotRec) : (s.setSlot x r).flow = s.flow := rfl
@[simp] theorem State.setSlot_resetIn (x : SlotId) (r : SlotRec) :
    (s.setSlot x r).resetIn = s.resetIn := rfl
@[simp] theorem State.setSlot_draws (x : SlotId) (r : SlotRec) :
    (s.setSlot x r).draws = s.draws := rfl
@[simp] theorem State.setSlot_out (x : SlotId) (r : SlotRec) : (s.setSlot x r).out = s.out := rfl

/-! ### request -/

@[simp] theorem State.request_pending (k : RecordId) (w : Who) (c : Change) :
    (s.request k w c).pending = s.pending := rfl
@[simp] theorem State.request_powered (k : RecordId) (w : Who) (c : Change) :
    (s.request k w c).powered = s.powered := rfl
@[simp] theorem State.request_stage (k : RecordId) (w : Who) (c : Change) :
    (s.request k w c).stage = s.stage := rfl
@[simp] theorem State.request_up (k : RecordId) (w : Who) (c : Change) :
    (s.request k w c).up = s.up := rfl
@[simp] theorem State.request_filter (k : RecordId) (w : Who) (c : Change) :
    (s.request k w c).filter = s.filter := rfl
@[simp] theorem State.request_down (k : RecordId) (w : Who) (c : Change) :
    (s.request k w c).down = s.down := rfl
@[simp] theorem State.request_ve (k : RecordId) (w : Who) (c : Change) :
    (s.request k w c).ve = s.ve := rfl
@[simp] theorem State.request_slots (k : RecordId) (w : Who) (c : Change) :
    (s.request k w c).slots = s.slots := rfl
@[simp] theorem State.request_keys (k : RecordId) (w : Who) (c : Change) :
    (s.request k w c).keys = s.keys := rfl
@[simp] theorem State.request_cred (k : RecordId) (w : Who) (c : Change) :
    (s.request k w c).cred = s.cred := rfl
@[simp] theorem State.request_presence (k : RecordId) (w : Who) (c : Change) :
    (s.request k w c).presence = s.presence := rfl
@[simp] theorem State.request_log (k : RecordId) (w : Who) (c : Change) :
    (s.request k w c).log = s.log := rfl
@[simp] theorem State.request_events (k : RecordId) (w : Who) (c : Change) :
    (s.request k w c).events = s.events := rfl
@[simp] theorem State.request_fuses (k : RecordId) (w : Who) (c : Change) :
    (s.request k w c).fuses = s.fuses := rfl
@[simp] theorem State.request_records (k : RecordId) (w : Who) (c : Change) :
    (s.request k w c).records = { s.records with waiting := requestIn s.records.waiting k ⟨w, c⟩ } := rfl
@[simp] theorem State.request_config (k : RecordId) (w : Who) (c : Change) :
    (s.request k w c).config = s.config := rfl
@[simp] theorem State.request_cert (k : RecordId) (w : Who) (c : Change) :
    (s.request k w c).cert = s.cert := rfl
@[simp] theorem State.request_supply (k : RecordId) (w : Who) (c : Change) :
    (s.request k w c).supply = s.supply := rfl
@[simp] theorem State.request_timers (k : RecordId) (w : Who) (c : Change) :
    (s.request k w c).timers = s.timers := rfl
@[simp] theorem State.request_aperture (k : RecordId) (w : Who) (c : Change) :
    (s.request k w c).aperture = s.aperture := rfl
@[simp] theorem State.request_engine (k : RecordId) (w : Who) (c : Change) :
    (s.request k w c).engine = s.engine := rfl
@[simp] theorem State.request_flow (k : RecordId) (w : Who) (c : Change) :
    (s.request k w c).flow = s.flow := rfl
@[simp] theorem State.request_resetIn (k : RecordId) (w : Who) (c : Change) :
    (s.request k w c).resetIn = s.resetIn := rfl
@[simp] theorem State.request_draws (k : RecordId) (w : Who) (c : Change) :
    (s.request k w c).draws = s.draws := rfl
@[simp] theorem State.request_out (k : RecordId) (w : Who) (c : Change) :
    (s.request k w c).out = s.out := rfl

/-! ### withdrawCommand -/

@[simp] theorem State.withdrawCommand_pending : s.withdrawCommand.pending = s.pending := rfl
@[simp] theorem State.withdrawCommand_powered : s.withdrawCommand.powered = s.powered := rfl
@[simp] theorem State.withdrawCommand_stage : s.withdrawCommand.stage = s.stage := rfl
@[simp] theorem State.withdrawCommand_up : s.withdrawCommand.up = s.up := rfl
@[simp] theorem State.withdrawCommand_filter : s.withdrawCommand.filter = s.filter := rfl
@[simp] theorem State.withdrawCommand_down : s.withdrawCommand.down = s.down := rfl
@[simp] theorem State.withdrawCommand_ve : s.withdrawCommand.ve = s.ve := rfl
@[simp] theorem State.withdrawCommand_slots : s.withdrawCommand.slots = s.slots := rfl
@[simp] theorem State.withdrawCommand_keys : s.withdrawCommand.keys = s.keys := rfl
@[simp] theorem State.withdrawCommand_cred : s.withdrawCommand.cred = s.cred := rfl
@[simp] theorem State.withdrawCommand_presence : s.withdrawCommand.presence = s.presence := rfl
@[simp] theorem State.withdrawCommand_log : s.withdrawCommand.log = s.log := rfl
@[simp] theorem State.withdrawCommand_events : s.withdrawCommand.events = s.events := rfl
@[simp] theorem State.withdrawCommand_fuses : s.withdrawCommand.fuses = s.fuses := rfl
@[simp] theorem State.withdrawCommand_records :
    s.withdrawCommand.records = { s.records with
      waiting := mapRequesters (fun r => if r.who = .command then none else some r)
        s.records.waiting } := rfl
@[simp] theorem State.withdrawCommand_config : s.withdrawCommand.config = s.config := rfl
@[simp] theorem State.withdrawCommand_cert : s.withdrawCommand.cert = s.cert := rfl
@[simp] theorem State.withdrawCommand_supply : s.withdrawCommand.supply = s.supply := rfl
@[simp] theorem State.withdrawCommand_timers : s.withdrawCommand.timers = s.timers := rfl
@[simp] theorem State.withdrawCommand_aperture : s.withdrawCommand.aperture = s.aperture := rfl
@[simp] theorem State.withdrawCommand_engine : s.withdrawCommand.engine = s.engine := rfl
@[simp] theorem State.withdrawCommand_flow : s.withdrawCommand.flow = s.flow := rfl
@[simp] theorem State.withdrawCommand_resetIn : s.withdrawCommand.resetIn = s.resetIn := rfl
@[simp] theorem State.withdrawCommand_draws : s.withdrawCommand.draws = s.draws := rfl
@[simp] theorem State.withdrawCommand_out : s.withdrawCommand.out = s.out := rfl

/-! ### changeSlot -/

@[simp] theorem State.changeSlot_pending (x : SlotId) (r : SlotRec) :
    (s.changeSlot x r).pending = s.pending := rfl
@[simp] theorem State.changeSlot_powered (x : SlotId) (r : SlotRec) :
    (s.changeSlot x r).powered = s.powered := rfl
@[simp] theorem State.changeSlot_stage (x : SlotId) (r : SlotRec) :
    (s.changeSlot x r).stage = s.stage := rfl
@[simp] theorem State.changeSlot_up (x : SlotId) (r : SlotRec) : (s.changeSlot x r).up = s.up := rfl
@[simp] theorem State.changeSlot_filter (x : SlotId) (r : SlotRec) :
    (s.changeSlot x r).filter = s.filter := rfl
@[simp] theorem State.changeSlot_down (x : SlotId) (r : SlotRec) :
    (s.changeSlot x r).down = s.down := rfl
@[simp] theorem State.changeSlot_ve (x : SlotId) (r : SlotRec) : (s.changeSlot x r).ve = s.ve := rfl
@[simp] theorem State.changeSlot_slots (x : SlotId) (r : SlotRec) :
    (s.changeSlot x r).slots = s.slots.put x r := rfl
@[simp] theorem State.changeSlot_keys (x : SlotId) (r : SlotRec) :
    (s.changeSlot x r).keys = s.keys := rfl
@[simp] theorem State.changeSlot_cred (x : SlotId) (r : SlotRec) :
    (s.changeSlot x r).cred = s.cred := rfl
@[simp] theorem State.changeSlot_presence (x : SlotId) (r : SlotRec) :
    (s.changeSlot x r).presence = s.presence := rfl
@[simp] theorem State.changeSlot_log (x : SlotId) (r : SlotRec) :
    (s.changeSlot x r).log = s.log := rfl
@[simp] theorem State.changeSlot_events (x : SlotId) (r : SlotRec) :
    (s.changeSlot x r).events = s.events := rfl
@[simp] theorem State.changeSlot_fuses (x : SlotId) (r : SlotRec) :
    (s.changeSlot x r).fuses = s.fuses := rfl
@[simp] theorem State.changeSlot_records (x : SlotId) (r : SlotRec) :
    (s.changeSlot x r).records = { s.records with waiting := requestIn s.records.waiting (.slot x) ⟨.block, .asIs⟩ } := rfl
@[simp] theorem State.changeSlot_config (x : SlotId) (r : SlotRec) :
    (s.changeSlot x r).config = s.config := rfl
@[simp] theorem State.changeSlot_cert (x : SlotId) (r : SlotRec) :
    (s.changeSlot x r).cert = s.cert := rfl
@[simp] theorem State.changeSlot_supply (x : SlotId) (r : SlotRec) :
    (s.changeSlot x r).supply = s.supply := rfl
@[simp] theorem State.changeSlot_timers (x : SlotId) (r : SlotRec) :
    (s.changeSlot x r).timers = s.timers := rfl
@[simp] theorem State.changeSlot_aperture (x : SlotId) (r : SlotRec) :
    (s.changeSlot x r).aperture = s.aperture := rfl
@[simp] theorem State.changeSlot_engine (x : SlotId) (r : SlotRec) :
    (s.changeSlot x r).engine = s.engine := rfl
@[simp] theorem State.changeSlot_flow (x : SlotId) (r : SlotRec) :
    (s.changeSlot x r).flow = s.flow := rfl
@[simp] theorem State.changeSlot_resetIn (x : SlotId) (r : SlotRec) :
    (s.changeSlot x r).resetIn = s.resetIn := rfl
@[simp] theorem State.changeSlot_draws (x : SlotId) (r : SlotRec) :
    (s.changeSlot x r).draws = s.draws := rfl
@[simp] theorem State.changeSlot_out (x : SlotId) (r : SlotRec) :
    (s.changeSlot x r).out = s.out := rfl

/-! ### setWel -/

@[simp] theorem State.setWel_pending (b : Bool) : (s.setWel b).pending = s.pending := rfl
@[simp] theorem State.setWel_powered (b : Bool) : (s.setWel b).powered = s.powered := rfl
@[simp] theorem State.setWel_stage (b : Bool) : (s.setWel b).stage = s.stage := rfl
@[simp] theorem State.setWel_up (b : Bool) : (s.setWel b).up = { s.up with wel := b } := rfl
@[simp] theorem State.setWel_filter (b : Bool) : (s.setWel b).filter = s.filter := rfl
@[simp] theorem State.setWel_down (b : Bool) : (s.setWel b).down = s.down := rfl
@[simp] theorem State.setWel_ve (b : Bool) : (s.setWel b).ve = s.ve := rfl
@[simp] theorem State.setWel_slots (b : Bool) : (s.setWel b).slots = s.slots := rfl
@[simp] theorem State.setWel_keys (b : Bool) : (s.setWel b).keys = s.keys := rfl
@[simp] theorem State.setWel_cred (b : Bool) : (s.setWel b).cred = s.cred := rfl
@[simp] theorem State.setWel_presence (b : Bool) : (s.setWel b).presence = s.presence := rfl
@[simp] theorem State.setWel_log (b : Bool) : (s.setWel b).log = s.log := rfl
@[simp] theorem State.setWel_events (b : Bool) : (s.setWel b).events = s.events := rfl
@[simp] theorem State.setWel_fuses (b : Bool) : (s.setWel b).fuses = s.fuses := rfl
@[simp] theorem State.setWel_records (b : Bool) : (s.setWel b).records = s.records := rfl
@[simp] theorem State.setWel_config (b : Bool) : (s.setWel b).config = s.config := rfl
@[simp] theorem State.setWel_cert (b : Bool) : (s.setWel b).cert = s.cert := rfl
@[simp] theorem State.setWel_supply (b : Bool) : (s.setWel b).supply = s.supply := rfl
@[simp] theorem State.setWel_timers (b : Bool) : (s.setWel b).timers = s.timers := rfl
@[simp] theorem State.setWel_aperture (b : Bool) : (s.setWel b).aperture = s.aperture := rfl
@[simp] theorem State.setWel_engine (b : Bool) : (s.setWel b).engine = s.engine := rfl
@[simp] theorem State.setWel_flow (b : Bool) : (s.setWel b).flow = s.flow := rfl
@[simp] theorem State.setWel_resetIn (b : Bool) : (s.setWel b).resetIn = s.resetIn := rfl
@[simp] theorem State.setWel_draws (b : Bool) : (s.setWel b).draws = s.draws := rfl
@[simp] theorem State.setWel_out (b : Bool) : (s.setWel b).out = s.out := rfl

/-! ### setDenied -/

@[simp] theorem State.setDenied_pending : s.setDenied.pending = s.pending := rfl
@[simp] theorem State.setDenied_powered : s.setDenied.powered = s.powered := rfl
@[simp] theorem State.setDenied_stage : s.setDenied.stage = s.stage := rfl
@[simp] theorem State.setDenied_up : s.setDenied.up = { s.up with denied := true } := rfl
@[simp] theorem State.setDenied_filter : s.setDenied.filter = s.filter := rfl
@[simp] theorem State.setDenied_down : s.setDenied.down = s.down := rfl
@[simp] theorem State.setDenied_ve : s.setDenied.ve = s.ve := rfl
@[simp] theorem State.setDenied_slots : s.setDenied.slots = s.slots := rfl
@[simp] theorem State.setDenied_keys : s.setDenied.keys = s.keys := rfl
@[simp] theorem State.setDenied_cred : s.setDenied.cred = s.cred := rfl
@[simp] theorem State.setDenied_presence : s.setDenied.presence = s.presence := rfl
@[simp] theorem State.setDenied_log : s.setDenied.log = s.log := rfl
@[simp] theorem State.setDenied_events : s.setDenied.events = s.events := rfl
@[simp] theorem State.setDenied_fuses : s.setDenied.fuses = s.fuses := rfl
@[simp] theorem State.setDenied_records : s.setDenied.records = s.records := rfl
@[simp] theorem State.setDenied_config : s.setDenied.config = s.config := rfl
@[simp] theorem State.setDenied_cert : s.setDenied.cert = s.cert := rfl
@[simp] theorem State.setDenied_supply : s.setDenied.supply = s.supply := rfl
@[simp] theorem State.setDenied_timers : s.setDenied.timers = s.timers := rfl
@[simp] theorem State.setDenied_aperture : s.setDenied.aperture = s.aperture := rfl
@[simp] theorem State.setDenied_engine : s.setDenied.engine = s.engine := rfl
@[simp] theorem State.setDenied_flow : s.setDenied.flow = s.flow := rfl
@[simp] theorem State.setDenied_resetIn : s.setDenied.resetIn = s.resetIn := rfl
@[simp] theorem State.setDenied_draws : s.setDenied.draws = s.draws := rfl
@[simp] theorem State.setDenied_out : s.setDenied.out = s.out := rfl

/-! ### released -/

@[simp] theorem State.released_pending : s.released.pending = s.pending := rfl
@[simp] theorem State.released_powered : s.released.powered = s.powered := rfl
@[simp] theorem State.released_stage : s.released.stage = s.stage := rfl
@[simp] theorem State.released_up : s.released.up = { s.up with arrived := none } := rfl
@[simp] theorem State.released_filter : s.released.filter = s.filter := rfl
@[simp] theorem State.released_down : s.released.down = s.down := rfl
@[simp] theorem State.released_ve : s.released.ve = s.ve := rfl
@[simp] theorem State.released_slots : s.released.slots = s.slots := rfl
@[simp] theorem State.released_keys : s.released.keys = s.keys := rfl
@[simp] theorem State.released_cred : s.released.cred = s.cred := rfl
@[simp] theorem State.released_presence : s.released.presence = s.presence := rfl
@[simp] theorem State.released_log : s.released.log = s.log := rfl
@[simp] theorem State.released_events : s.released.events = s.events := rfl
@[simp] theorem State.released_fuses : s.released.fuses = s.fuses := rfl
@[simp] theorem State.released_records : s.released.records = s.records := rfl
@[simp] theorem State.released_config : s.released.config = s.config := rfl
@[simp] theorem State.released_cert : s.released.cert = s.cert := rfl
@[simp] theorem State.released_supply : s.released.supply = s.supply := rfl
@[simp] theorem State.released_timers : s.released.timers = s.timers := rfl
@[simp] theorem State.released_aperture : s.released.aperture = s.aperture := rfl
@[simp] theorem State.released_engine : s.released.engine = s.engine := rfl
@[simp] theorem State.released_flow : s.released.flow = s.flow := rfl
@[simp] theorem State.released_resetIn : s.released.resetIn = s.resetIn := rfl
@[simp] theorem State.released_draws : s.released.draws = s.draws := rfl
@[simp] theorem State.released_out : s.released.out = s.out := rfl

/-! ### setReads -/

@[simp] theorem State.setReads_pending (l : List OpenRead) :
    (s.setReads l).pending = s.pending := rfl
@[simp] theorem State.setReads_powered (l : List OpenRead) :
    (s.setReads l).powered = s.powered := rfl
@[simp] theorem State.setReads_stage (l : List OpenRead) : (s.setReads l).stage = s.stage := rfl
@[simp] theorem State.setReads_up (l : List OpenRead) :
    (s.setReads l).up = { s.up with reads := l } := rfl
@[simp] theorem State.setReads_filter (l : List OpenRead) : (s.setReads l).filter = s.filter := rfl
@[simp] theorem State.setReads_down (l : List OpenRead) : (s.setReads l).down = s.down := rfl
@[simp] theorem State.setReads_ve (l : List OpenRead) : (s.setReads l).ve = s.ve := rfl
@[simp] theorem State.setReads_slots (l : List OpenRead) : (s.setReads l).slots = s.slots := rfl
@[simp] theorem State.setReads_keys (l : List OpenRead) : (s.setReads l).keys = s.keys := rfl
@[simp] theorem State.setReads_cred (l : List OpenRead) : (s.setReads l).cred = s.cred := rfl
@[simp] theorem State.setReads_presence (l : List OpenRead) :
    (s.setReads l).presence = s.presence := rfl
@[simp] theorem State.setReads_log (l : List OpenRead) : (s.setReads l).log = s.log := rfl
@[simp] theorem State.setReads_events (l : List OpenRead) : (s.setReads l).events = s.events := rfl
@[simp] theorem State.setReads_fuses (l : List OpenRead) : (s.setReads l).fuses = s.fuses := rfl
@[simp] theorem State.setReads_records (l : List OpenRead) :
    (s.setReads l).records = s.records := rfl
@[simp] theorem State.setReads_config (l : List OpenRead) : (s.setReads l).config = s.config := rfl
@[simp] theorem State.setReads_cert (l : List OpenRead) : (s.setReads l).cert = s.cert := rfl
@[simp] theorem State.setReads_supply (l : List OpenRead) : (s.setReads l).supply = s.supply := rfl
@[simp] theorem State.setReads_timers (l : List OpenRead) : (s.setReads l).timers = s.timers := rfl
@[simp] theorem State.setReads_aperture (l : List OpenRead) :
    (s.setReads l).aperture = s.aperture := rfl
@[simp] theorem State.setReads_engine (l : List OpenRead) : (s.setReads l).engine = s.engine := rfl
@[simp] theorem State.setReads_flow (l : List OpenRead) : (s.setReads l).flow = s.flow := rfl
@[simp] theorem State.setReads_resetIn (l : List OpenRead) :
    (s.setReads l).resetIn = s.resetIn := rfl
@[simp] theorem State.setReads_draws (l : List OpenRead) : (s.setReads l).draws = s.draws := rfl
@[simp] theorem State.setReads_out (l : List OpenRead) : (s.setReads l).out = s.out := rfl

/-! ### work -/

@[simp] theorem State.work_pending (w : CmdWork) : (s.work w).pending = s.pending := rfl
@[simp] theorem State.work_powered (w : CmdWork) : (s.work w).powered = s.powered := rfl
@[simp] theorem State.work_stage (w : CmdWork) : (s.work w).stage = s.stage := rfl
@[simp] theorem State.work_up (w : CmdWork) : (s.work w).up = s.up := rfl
@[simp] theorem State.work_filter (w : CmdWork) : (s.work w).filter = s.filter := rfl
@[simp] theorem State.work_down (w : CmdWork) : (s.work w).down = s.down := rfl
@[simp] theorem State.work_ve (w : CmdWork) : (s.work w).ve = s.ve := rfl
@[simp] theorem State.work_slots (w : CmdWork) : (s.work w).slots = s.slots := rfl
@[simp] theorem State.work_keys (w : CmdWork) : (s.work w).keys = s.keys := rfl
@[simp] theorem State.work_cred (w : CmdWork) : (s.work w).cred = s.cred := rfl
@[simp] theorem State.work_presence (w : CmdWork) : (s.work w).presence = s.presence := rfl
@[simp] theorem State.work_log (w : CmdWork) : (s.work w).log = s.log := rfl
@[simp] theorem State.work_events (w : CmdWork) : (s.work w).events = s.events := rfl
@[simp] theorem State.work_fuses (w : CmdWork) : (s.work w).fuses = s.fuses := rfl
@[simp] theorem State.work_records (w : CmdWork) : (s.work w).records = s.records := rfl
@[simp] theorem State.work_config (w : CmdWork) : (s.work w).config = s.config := rfl
@[simp] theorem State.work_cert (w : CmdWork) : (s.work w).cert = s.cert := rfl
@[simp] theorem State.work_supply (w : CmdWork) : (s.work w).supply = s.supply := rfl
@[simp] theorem State.work_timers (w : CmdWork) : (s.work w).timers = s.timers := rfl
@[simp] theorem State.work_aperture (w : CmdWork) : (s.work w).aperture = s.aperture := rfl
@[simp] theorem State.work_engine (w : CmdWork) :
    (s.work w).engine = { s.engine with state := .command w } := rfl
@[simp] theorem State.work_flow (w : CmdWork) : (s.work w).flow = s.flow := rfl
@[simp] theorem State.work_resetIn (w : CmdWork) : (s.work w).resetIn = s.resetIn := rfl
@[simp] theorem State.work_draws (w : CmdWork) : (s.work w).draws = s.draws := rfl
@[simp] theorem State.work_out (w : CmdWork) : (s.work w).out = s.out := rfl

/-! ### jobOn -/

@[simp] theorem State.jobOn_pending (w : JobWork) : (s.jobOn w).pending = s.pending := rfl
@[simp] theorem State.jobOn_powered (w : JobWork) : (s.jobOn w).powered = s.powered := rfl
@[simp] theorem State.jobOn_stage (w : JobWork) : (s.jobOn w).stage = s.stage := rfl
@[simp] theorem State.jobOn_up (w : JobWork) : (s.jobOn w).up = s.up := rfl
@[simp] theorem State.jobOn_filter (w : JobWork) : (s.jobOn w).filter = s.filter := rfl
@[simp] theorem State.jobOn_down (w : JobWork) : (s.jobOn w).down = s.down := rfl
@[simp] theorem State.jobOn_ve (w : JobWork) : (s.jobOn w).ve = s.ve := rfl
@[simp] theorem State.jobOn_slots (w : JobWork) : (s.jobOn w).slots = s.slots := rfl
@[simp] theorem State.jobOn_keys (w : JobWork) : (s.jobOn w).keys = s.keys := rfl
@[simp] theorem State.jobOn_cred (w : JobWork) : (s.jobOn w).cred = s.cred := rfl
@[simp] theorem State.jobOn_presence (w : JobWork) : (s.jobOn w).presence = s.presence := rfl
@[simp] theorem State.jobOn_log (w : JobWork) : (s.jobOn w).log = s.log := rfl
@[simp] theorem State.jobOn_events (w : JobWork) : (s.jobOn w).events = s.events := rfl
@[simp] theorem State.jobOn_fuses (w : JobWork) : (s.jobOn w).fuses = s.fuses := rfl
@[simp] theorem State.jobOn_records (w : JobWork) : (s.jobOn w).records = s.records := rfl
@[simp] theorem State.jobOn_config (w : JobWork) : (s.jobOn w).config = s.config := rfl
@[simp] theorem State.jobOn_cert (w : JobWork) : (s.jobOn w).cert = s.cert := rfl
@[simp] theorem State.jobOn_supply (w : JobWork) : (s.jobOn w).supply = s.supply := rfl
@[simp] theorem State.jobOn_timers (w : JobWork) : (s.jobOn w).timers = s.timers := rfl
@[simp] theorem State.jobOn_aperture (w : JobWork) : (s.jobOn w).aperture = s.aperture := rfl
@[simp] theorem State.jobOn_engine (w : JobWork) :
    (s.jobOn w).engine = { s.engine with state := .job w } := rfl
@[simp] theorem State.jobOn_flow (w : JobWork) : (s.jobOn w).flow = s.flow := rfl
@[simp] theorem State.jobOn_resetIn (w : JobWork) : (s.jobOn w).resetIn = s.resetIn := rfl
@[simp] theorem State.jobOn_draws (w : JobWork) : (s.jobOn w).draws = s.draws := rfl
@[simp] theorem State.jobOn_out (w : JobWork) : (s.jobOn w).out = s.out := rfl

/-! ### endJob -/

@[simp] theorem State.endJob_pending : s.endJob.pending = s.pending := rfl
@[simp] theorem State.endJob_powered : s.endJob.powered = s.powered := rfl
@[simp] theorem State.endJob_stage : s.endJob.stage = s.stage := rfl
@[simp] theorem State.endJob_up : s.endJob.up = s.up := rfl
@[simp] theorem State.endJob_filter : s.endJob.filter = s.filter := rfl
@[simp] theorem State.endJob_down : s.endJob.down = s.down := rfl
@[simp] theorem State.endJob_ve : s.endJob.ve = s.ve := rfl
@[simp] theorem State.endJob_slots : s.endJob.slots = s.slots := rfl
@[simp] theorem State.endJob_keys : s.endJob.keys = s.keys := rfl
@[simp] theorem State.endJob_cred : s.endJob.cred = s.cred := rfl
@[simp] theorem State.endJob_presence : s.endJob.presence = s.presence := rfl
@[simp] theorem State.endJob_log : s.endJob.log = s.log := rfl
@[simp] theorem State.endJob_events : s.endJob.events = s.events := rfl
@[simp] theorem State.endJob_fuses : s.endJob.fuses = s.fuses := rfl
@[simp] theorem State.endJob_records : s.endJob.records = s.records := rfl
@[simp] theorem State.endJob_config : s.endJob.config = s.config := rfl
@[simp] theorem State.endJob_cert : s.endJob.cert = s.cert := rfl
@[simp] theorem State.endJob_supply : s.endJob.supply = s.supply := rfl
@[simp] theorem State.endJob_timers : s.endJob.timers = s.timers := rfl
@[simp] theorem State.endJob_aperture : s.endJob.aperture = s.aperture := rfl
@[simp] theorem State.endJob_engine : s.endJob.engine = { s.engine with state := .idle } := rfl
@[simp] theorem State.endJob_flow : s.endJob.flow = s.flow := rfl
@[simp] theorem State.endJob_resetIn : s.endJob.resetIn = s.resetIn := rfl
@[simp] theorem State.endJob_draws : s.endJob.draws = s.draws := rfl
@[simp] theorem State.endJob_out : s.endJob.out = s.out := rfl

/-! ### restartAfter -/

@[simp] theorem State.restartAfter_pending (b : BootReason) :
    (s.restartAfter b).pending = s.pending := rfl
@[simp] theorem State.restartAfter_powered (b : BootReason) :
    (s.restartAfter b).powered = s.powered := rfl
@[simp] theorem State.restartAfter_stage (b : BootReason) :
    (s.restartAfter b).stage = s.stage := rfl
@[simp] theorem State.restartAfter_up (b : BootReason) : (s.restartAfter b).up = s.up := rfl
@[simp] theorem State.restartAfter_filter (b : BootReason) :
    (s.restartAfter b).filter = s.filter := rfl
@[simp] theorem State.restartAfter_down (b : BootReason) : (s.restartAfter b).down = s.down := rfl
@[simp] theorem State.restartAfter_ve (b : BootReason) : (s.restartAfter b).ve = s.ve := rfl
@[simp] theorem State.restartAfter_slots (b : BootReason) :
    (s.restartAfter b).slots = s.slots := rfl
@[simp] theorem State.restartAfter_keys (b : BootReason) : (s.restartAfter b).keys = s.keys := rfl
@[simp] theorem State.restartAfter_cred (b : BootReason) : (s.restartAfter b).cred = s.cred := rfl
@[simp] theorem State.restartAfter_presence (b : BootReason) :
    (s.restartAfter b).presence = s.presence := rfl
@[simp] theorem State.restartAfter_log (b : BootReason) : (s.restartAfter b).log = s.log := rfl
@[simp] theorem State.restartAfter_events (b : BootReason) :
    (s.restartAfter b).events = s.events := rfl
@[simp] theorem State.restartAfter_fuses (b : BootReason) :
    (s.restartAfter b).fuses = s.fuses := rfl
@[simp] theorem State.restartAfter_records (b : BootReason) :
    (s.restartAfter b).records = s.records := rfl
@[simp] theorem State.restartAfter_config (b : BootReason) :
    (s.restartAfter b).config = s.config := rfl
@[simp] theorem State.restartAfter_cert (b : BootReason) : (s.restartAfter b).cert = s.cert := rfl
@[simp] theorem State.restartAfter_supply (b : BootReason) :
    (s.restartAfter b).supply = s.supply := rfl
@[simp] theorem State.restartAfter_timers (b : BootReason) :
    (s.restartAfter b).timers = s.timers := rfl
@[simp] theorem State.restartAfter_aperture (b : BootReason) :
    (s.restartAfter b).aperture = s.aperture := rfl
@[simp] theorem State.restartAfter_engine (b : BootReason) :
    (s.restartAfter b).engine = { s.engine with restartDue := some b } := rfl
@[simp] theorem State.restartAfter_flow (b : BootReason) : (s.restartAfter b).flow = s.flow := rfl
@[simp] theorem State.restartAfter_resetIn (b : BootReason) :
    (s.restartAfter b).resetIn = s.resetIn := rfl
@[simp] theorem State.restartAfter_draws (b : BootReason) :
    (s.restartAfter b).draws = s.draws := rfl
@[simp] theorem State.restartAfter_out (b : BootReason) : (s.restartAfter b).out = s.out := rfl

/-! ### endCommand -/

@[simp] theorem State.endCommand_pending (a : Reply) : (s.endCommand a).pending = s.pending := rfl
@[simp] theorem State.endCommand_powered (a : Reply) : (s.endCommand a).powered = s.powered := rfl
@[simp] theorem State.endCommand_stage (a : Reply) : (s.endCommand a).stage = s.stage := rfl
@[simp] theorem State.endCommand_up (a : Reply) : (s.endCommand a).up = s.up := rfl
@[simp] theorem State.endCommand_filter (a : Reply) : (s.endCommand a).filter = s.filter := rfl
@[simp] theorem State.endCommand_down (a : Reply) : (s.endCommand a).down = s.down := rfl
@[simp] theorem State.endCommand_ve (a : Reply) : (s.endCommand a).ve = s.ve := rfl
@[simp] theorem State.endCommand_slots (a : Reply) : (s.endCommand a).slots = s.slots := rfl
@[simp] theorem State.endCommand_keys (a : Reply) : (s.endCommand a).keys = s.keys := rfl
@[simp] theorem State.endCommand_cred (a : Reply) : (s.endCommand a).cred = s.cred := rfl
@[simp] theorem State.endCommand_presence (a : Reply) :
    (s.endCommand a).presence = s.presence := rfl
@[simp] theorem State.endCommand_log (a : Reply) : (s.endCommand a).log = s.log := rfl
@[simp] theorem State.endCommand_events (a : Reply) :
    (s.endCommand a).events = { s.events with pending := s.events.pending ||| Cause.mask .serviceDone } := rfl
@[simp] theorem State.endCommand_fuses (a : Reply) : (s.endCommand a).fuses = s.fuses := rfl
@[simp] theorem State.endCommand_records (a : Reply) : (s.endCommand a).records = s.records := rfl
@[simp] theorem State.endCommand_config (a : Reply) : (s.endCommand a).config = s.config := rfl
@[simp] theorem State.endCommand_cert (a : Reply) : (s.endCommand a).cert = s.cert := rfl
@[simp] theorem State.endCommand_supply (a : Reply) : (s.endCommand a).supply = s.supply := rfl
@[simp] theorem State.endCommand_timers (a : Reply) : (s.endCommand a).timers = s.timers := rfl
@[simp] theorem State.endCommand_aperture (a : Reply) :
    (s.endCommand a).aperture = { s.aperture with resp := s.aperture.resp.finish a } := rfl
@[simp] theorem State.endCommand_engine (a : Reply) :
    (s.endCommand a).engine = { s.engine with state := .idle, abortRequest := false } := rfl
@[simp] theorem State.endCommand_flow (a : Reply) : (s.endCommand a).flow = s.flow := rfl
@[simp] theorem State.endCommand_resetIn (a : Reply) : (s.endCommand a).resetIn = s.resetIn := rfl
@[simp] theorem State.endCommand_draws (a : Reply) : (s.endCommand a).draws = s.draws := rfl
@[simp] theorem State.endCommand_out (a : Reply) : (s.endCommand a).out = s.out := rfl

/-! ### logAppend -/

@[simp] theorem State.logAppend_pending (k : LogKind) (st : Stage) (d l : List Byte) :
    (s.logAppend k st d l).pending = s.pending := rfl
@[simp] theorem State.logAppend_powered (k : LogKind) (st : Stage) (d l : List Byte) :
    (s.logAppend k st d l).powered = s.powered := rfl
@[simp] theorem State.logAppend_stage (k : LogKind) (st : Stage) (d l : List Byte) :
    (s.logAppend k st d l).stage = s.stage := rfl
@[simp] theorem State.logAppend_up (k : LogKind) (st : Stage) (d l : List Byte) :
    (s.logAppend k st d l).up = s.up := rfl
@[simp] theorem State.logAppend_filter (k : LogKind) (st : Stage) (d l : List Byte) :
    (s.logAppend k st d l).filter = s.filter := rfl
@[simp] theorem State.logAppend_down (k : LogKind) (st : Stage) (d l : List Byte) :
    (s.logAppend k st d l).down = s.down := rfl
@[simp] theorem State.logAppend_ve (k : LogKind) (st : Stage) (d l : List Byte) :
    (s.logAppend k st d l).ve = s.ve := rfl
@[simp] theorem State.logAppend_slots (k : LogKind) (st : Stage) (d l : List Byte) :
    (s.logAppend k st d l).slots = s.slots := rfl
@[simp] theorem State.logAppend_keys (k : LogKind) (st : Stage) (d l : List Byte) :
    (s.logAppend k st d l).keys = s.keys := rfl
@[simp] theorem State.logAppend_cred (k : LogKind) (st : Stage) (d l : List Byte) :
    (s.logAppend k st d l).cred = s.cred := rfl
@[simp] theorem State.logAppend_presence (k : LogKind) (st : Stage) (d l : List Byte) :
    (s.logAppend k st d l).presence = s.presence := rfl
@[simp] theorem State.logAppend_log (k : LogKind) (st : Stage) (d l : List Byte) :
    (s.logAppend k st d l).log = s.log.append k st d l := rfl
@[simp] theorem State.logAppend_events (k : LogKind) (st : Stage) (d l : List Byte) :
    (s.logAppend k st d l).events = s.events := rfl
@[simp] theorem State.logAppend_fuses (k : LogKind) (st : Stage) (d l : List Byte) :
    (s.logAppend k st d l).fuses = s.fuses := rfl
@[simp] theorem State.logAppend_records (k : LogKind) (st : Stage) (d l : List Byte) :
    (s.logAppend k st d l).records = s.records := rfl
@[simp] theorem State.logAppend_config (k : LogKind) (st : Stage) (d l : List Byte) :
    (s.logAppend k st d l).config = s.config := rfl
@[simp] theorem State.logAppend_cert (k : LogKind) (st : Stage) (d l : List Byte) :
    (s.logAppend k st d l).cert = s.cert := rfl
@[simp] theorem State.logAppend_supply (k : LogKind) (st : Stage) (d l : List Byte) :
    (s.logAppend k st d l).supply = s.supply := rfl
@[simp] theorem State.logAppend_timers (k : LogKind) (st : Stage) (d l : List Byte) :
    (s.logAppend k st d l).timers = s.timers := rfl
@[simp] theorem State.logAppend_aperture (k : LogKind) (st : Stage) (d l : List Byte) :
    (s.logAppend k st d l).aperture = s.aperture := rfl
@[simp] theorem State.logAppend_engine (k : LogKind) (st : Stage) (d l : List Byte) :
    (s.logAppend k st d l).engine = s.engine := rfl
@[simp] theorem State.logAppend_flow (k : LogKind) (st : Stage) (d l : List Byte) :
    (s.logAppend k st d l).flow = s.flow := rfl
@[simp] theorem State.logAppend_resetIn (k : LogKind) (st : Stage) (d l : List Byte) :
    (s.logAppend k st d l).resetIn = s.resetIn := rfl
@[simp] theorem State.logAppend_draws (k : LogKind) (st : Stage) (d l : List Byte) :
    (s.logAppend k st d l).draws = s.draws := rfl
@[simp] theorem State.logAppend_out (k : LogKind) (st : Stage) (d l : List Byte) :
    (s.logAppend k st d l).out = s.out := rfl

/-! ### startGate -/

@[simp] theorem State.startGate_pending : s.startGate.pending = s.pending := rfl
@[simp] theorem State.startGate_powered : s.startGate.powered = s.powered := rfl
@[simp] theorem State.startGate_stage : s.startGate.stage = s.stage := rfl
@[simp] theorem State.startGate_up : s.startGate.up = s.up := rfl
@[simp] theorem State.startGate_filter : s.startGate.filter = s.filter := rfl
@[simp] theorem State.startGate_down : s.startGate.down = s.down := rfl
@[simp] theorem State.startGate_ve : s.startGate.ve = s.ve := rfl
@[simp] theorem State.startGate_slots : s.startGate.slots = s.slots := rfl
@[simp] theorem State.startGate_keys : s.startGate.keys = s.keys := rfl
@[simp] theorem State.startGate_cred : s.startGate.cred = s.cred := rfl
@[simp] theorem State.startGate_presence : s.startGate.presence = s.presence := rfl
@[simp] theorem State.startGate_log : s.startGate.log = s.log := rfl
@[simp] theorem State.startGate_events : s.startGate.events = s.events := rfl
@[simp] theorem State.startGate_fuses : s.startGate.fuses = s.fuses := rfl
@[simp] theorem State.startGate_records : s.startGate.records = s.records := rfl
@[simp] theorem State.startGate_config : s.startGate.config = s.config := rfl
@[simp] theorem State.startGate_cert : s.startGate.cert = s.cert := rfl
@[simp] theorem State.startGate_supply : s.startGate.supply = s.supply := rfl
@[simp] theorem State.startGate_timers :
    s.startGate.timers = { s.timers with gate := Channel.start s.cred.gateIdle } := rfl
@[simp] theorem State.startGate_aperture : s.startGate.aperture = s.aperture := rfl
@[simp] theorem State.startGate_engine : s.startGate.engine = s.engine := rfl
@[simp] theorem State.startGate_flow : s.startGate.flow = s.flow := rfl
@[simp] theorem State.startGate_resetIn : s.startGate.resetIn = s.resetIn := rfl
@[simp] theorem State.startGate_draws : s.startGate.draws = s.draws := rfl
@[simp] theorem State.startGate_out : s.startGate.out = s.out := rfl

/-! ### openGate -/

@[simp] theorem State.openGate_pending : s.openGate.pending = s.pending := rfl
@[simp] theorem State.openGate_powered : s.openGate.powered = s.powered := rfl
@[simp] theorem State.openGate_stage : s.openGate.stage = s.stage := rfl
@[simp] theorem State.openGate_up : s.openGate.up = s.up := rfl
@[simp] theorem State.openGate_filter : s.openGate.filter = s.filter := rfl
@[simp] theorem State.openGate_down : s.openGate.down = s.down := rfl
@[simp] theorem State.openGate_ve : s.openGate.ve = s.ve := rfl
@[simp] theorem State.openGate_slots : s.openGate.slots = s.slots := rfl
@[simp] theorem State.openGate_keys : s.openGate.keys = s.keys := rfl
@[simp] theorem State.openGate_cred : s.openGate.cred = { s.cred with gateOpen := true } := rfl
@[simp] theorem State.openGate_presence : s.openGate.presence = s.presence := rfl
@[simp] theorem State.openGate_log : s.openGate.log = s.log := rfl
@[simp] theorem State.openGate_events : s.openGate.events = s.events := rfl
@[simp] theorem State.openGate_fuses : s.openGate.fuses = s.fuses := rfl
@[simp] theorem State.openGate_records : s.openGate.records = s.records := rfl
@[simp] theorem State.openGate_config : s.openGate.config = s.config := rfl
@[simp] theorem State.openGate_cert : s.openGate.cert = s.cert := rfl
@[simp] theorem State.openGate_supply : s.openGate.supply = s.supply := rfl
@[simp] theorem State.openGate_timers :
    s.openGate.timers = { s.timers with gate := Channel.start s.cred.gateIdle } := rfl
@[simp] theorem State.openGate_aperture : s.openGate.aperture = s.aperture := rfl
@[simp] theorem State.openGate_engine : s.openGate.engine = s.engine := rfl
@[simp] theorem State.openGate_flow : s.openGate.flow = s.flow := rfl
@[simp] theorem State.openGate_resetIn : s.openGate.resetIn = s.resetIn := rfl
@[simp] theorem State.openGate_draws : s.openGate.draws = s.draws := rfl
@[simp] theorem State.openGate_out : s.openGate.out = s.out := rfl

/-! ### shutGate -/

@[simp] theorem State.shutGate_pending : s.shutGate.pending = s.pending := rfl
@[simp] theorem State.shutGate_powered : s.shutGate.powered = s.powered := rfl
@[simp] theorem State.shutGate_stage : s.shutGate.stage = s.stage := rfl
@[simp] theorem State.shutGate_up : s.shutGate.up = s.up := rfl
@[simp] theorem State.shutGate_filter : s.shutGate.filter = s.filter := rfl
@[simp] theorem State.shutGate_down : s.shutGate.down = s.down := rfl
@[simp] theorem State.shutGate_ve : s.shutGate.ve = s.ve := rfl
@[simp] theorem State.shutGate_slots : s.shutGate.slots = s.slots := rfl
@[simp] theorem State.shutGate_keys : s.shutGate.keys = s.keys := rfl
@[simp] theorem State.shutGate_cred : s.shutGate.cred = { s.cred with gateOpen := false } := rfl
@[simp] theorem State.shutGate_presence : s.shutGate.presence = s.presence := rfl
@[simp] theorem State.shutGate_log : s.shutGate.log = s.log := rfl
@[simp] theorem State.shutGate_events : s.shutGate.events = s.events := rfl
@[simp] theorem State.shutGate_fuses : s.shutGate.fuses = s.fuses := rfl
@[simp] theorem State.shutGate_records : s.shutGate.records = s.records := rfl
@[simp] theorem State.shutGate_config : s.shutGate.config = s.config := rfl
@[simp] theorem State.shutGate_cert : s.shutGate.cert = s.cert := rfl
@[simp] theorem State.shutGate_supply : s.shutGate.supply = s.supply := rfl
@[simp] theorem State.shutGate_timers :
    s.shutGate.timers = { s.timers with gate := s.timers.gate.stop } := rfl
@[simp] theorem State.shutGate_aperture : s.shutGate.aperture = s.aperture := rfl
@[simp] theorem State.shutGate_engine : s.shutGate.engine = s.engine := rfl
@[simp] theorem State.shutGate_flow : s.shutGate.flow = s.flow := rfl
@[simp] theorem State.shutGate_resetIn : s.shutGate.resetIn = s.resetIn := rfl
@[simp] theorem State.shutGate_draws : s.shutGate.draws = s.draws := rfl
@[simp] theorem State.shutGate_out : s.shutGate.out = s.out := rfl

/-! ### stopTrial -/

@[simp] theorem State.stopTrial_pending : s.stopTrial.pending = s.pending := rfl
@[simp] theorem State.stopTrial_powered : s.stopTrial.powered = s.powered := rfl
@[simp] theorem State.stopTrial_stage : s.stopTrial.stage = s.stage := rfl
@[simp] theorem State.stopTrial_up : s.stopTrial.up = s.up := rfl
@[simp] theorem State.stopTrial_filter : s.stopTrial.filter = s.filter := rfl
@[simp] theorem State.stopTrial_down : s.stopTrial.down = s.down := rfl
@[simp] theorem State.stopTrial_ve : s.stopTrial.ve = s.ve := rfl
@[simp] theorem State.stopTrial_slots : s.stopTrial.slots = s.slots := rfl
@[simp] theorem State.stopTrial_keys : s.stopTrial.keys = s.keys := rfl
@[simp] theorem State.stopTrial_cred : s.stopTrial.cred = s.cred := rfl
@[simp] theorem State.stopTrial_presence : s.stopTrial.presence = s.presence := rfl
@[simp] theorem State.stopTrial_log : s.stopTrial.log = s.log := rfl
@[simp] theorem State.stopTrial_events : s.stopTrial.events = s.events := rfl
@[simp] theorem State.stopTrial_fuses : s.stopTrial.fuses = s.fuses := rfl
@[simp] theorem State.stopTrial_records : s.stopTrial.records = s.records := rfl
@[simp] theorem State.stopTrial_config : s.stopTrial.config = s.config := rfl
@[simp] theorem State.stopTrial_cert : s.stopTrial.cert = s.cert := rfl
@[simp] theorem State.stopTrial_supply : s.stopTrial.supply = s.supply := rfl
@[simp] theorem State.stopTrial_timers :
    s.stopTrial.timers = { s.timers with trial := s.timers.trial.stop } := rfl
@[simp] theorem State.stopTrial_aperture : s.stopTrial.aperture = s.aperture := rfl
@[simp] theorem State.stopTrial_engine : s.stopTrial.engine = s.engine := rfl
@[simp] theorem State.stopTrial_flow : s.stopTrial.flow = s.flow := rfl
@[simp] theorem State.stopTrial_resetIn : s.stopTrial.resetIn = s.resetIn := rfl
@[simp] theorem State.stopTrial_draws : s.stopTrial.draws = s.draws := rfl
@[simp] theorem State.stopTrial_out : s.stopTrial.out = s.out := rfl

/-! ### startTrial -/

@[simp] theorem State.startTrial_pending (n : Nat) : (s.startTrial n).pending = s.pending := rfl
@[simp] theorem State.startTrial_powered (n : Nat) : (s.startTrial n).powered = s.powered := rfl
@[simp] theorem State.startTrial_stage (n : Nat) : (s.startTrial n).stage = s.stage := rfl
@[simp] theorem State.startTrial_up (n : Nat) : (s.startTrial n).up = s.up := rfl
@[simp] theorem State.startTrial_filter (n : Nat) : (s.startTrial n).filter = s.filter := rfl
@[simp] theorem State.startTrial_down (n : Nat) : (s.startTrial n).down = s.down := rfl
@[simp] theorem State.startTrial_ve (n : Nat) : (s.startTrial n).ve = s.ve := rfl
@[simp] theorem State.startTrial_slots (n : Nat) : (s.startTrial n).slots = s.slots := rfl
@[simp] theorem State.startTrial_keys (n : Nat) : (s.startTrial n).keys = s.keys := rfl
@[simp] theorem State.startTrial_cred (n : Nat) : (s.startTrial n).cred = s.cred := rfl
@[simp] theorem State.startTrial_presence (n : Nat) : (s.startTrial n).presence = s.presence := rfl
@[simp] theorem State.startTrial_log (n : Nat) : (s.startTrial n).log = s.log := rfl
@[simp] theorem State.startTrial_events (n : Nat) : (s.startTrial n).events = s.events := rfl
@[simp] theorem State.startTrial_fuses (n : Nat) : (s.startTrial n).fuses = s.fuses := rfl
@[simp] theorem State.startTrial_records (n : Nat) : (s.startTrial n).records = s.records := rfl
@[simp] theorem State.startTrial_config (n : Nat) : (s.startTrial n).config = s.config := rfl
@[simp] theorem State.startTrial_cert (n : Nat) : (s.startTrial n).cert = s.cert := rfl
@[simp] theorem State.startTrial_supply (n : Nat) : (s.startTrial n).supply = s.supply := rfl
@[simp] theorem State.startTrial_timers (n : Nat) :
    (s.startTrial n).timers = { s.timers with trial := Channel.start n } := rfl
@[simp] theorem State.startTrial_aperture (n : Nat) : (s.startTrial n).aperture = s.aperture := rfl
@[simp] theorem State.startTrial_engine (n : Nat) : (s.startTrial n).engine = s.engine := rfl
@[simp] theorem State.startTrial_flow (n : Nat) : (s.startTrial n).flow = s.flow := rfl
@[simp] theorem State.startTrial_resetIn (n : Nat) : (s.startTrial n).resetIn = s.resetIn := rfl
@[simp] theorem State.startTrial_draws (n : Nat) : (s.startTrial n).draws = s.draws := rfl
@[simp] theorem State.startTrial_out (n : Nat) : (s.startTrial n).out = s.out := rfl

/-! ### startPresence -/

@[simp] theorem State.startPresence_pending (n : Nat) :
    (s.startPresence n).pending = s.pending := rfl
@[simp] theorem State.startPresence_powered (n : Nat) :
    (s.startPresence n).powered = s.powered := rfl
@[simp] theorem State.startPresence_stage (n : Nat) : (s.startPresence n).stage = s.stage := rfl
@[simp] theorem State.startPresence_up (n : Nat) : (s.startPresence n).up = s.up := rfl
@[simp] theorem State.startPresence_filter (n : Nat) : (s.startPresence n).filter = s.filter := rfl
@[simp] theorem State.startPresence_down (n : Nat) : (s.startPresence n).down = s.down := rfl
@[simp] theorem State.startPresence_ve (n : Nat) : (s.startPresence n).ve = s.ve := rfl
@[simp] theorem State.startPresence_slots (n : Nat) : (s.startPresence n).slots = s.slots := rfl
@[simp] theorem State.startPresence_keys (n : Nat) : (s.startPresence n).keys = s.keys := rfl
@[simp] theorem State.startPresence_cred (n : Nat) : (s.startPresence n).cred = s.cred := rfl
@[simp] theorem State.startPresence_presence (n : Nat) :
    (s.startPresence n).presence = s.presence := rfl
@[simp] theorem State.startPresence_log (n : Nat) : (s.startPresence n).log = s.log := rfl
@[simp] theorem State.startPresence_events (n : Nat) : (s.startPresence n).events = s.events := rfl
@[simp] theorem State.startPresence_fuses (n : Nat) : (s.startPresence n).fuses = s.fuses := rfl
@[simp] theorem State.startPresence_records (n : Nat) :
    (s.startPresence n).records = s.records := rfl
@[simp] theorem State.startPresence_config (n : Nat) : (s.startPresence n).config = s.config := rfl
@[simp] theorem State.startPresence_cert (n : Nat) : (s.startPresence n).cert = s.cert := rfl
@[simp] theorem State.startPresence_supply (n : Nat) : (s.startPresence n).supply = s.supply := rfl
@[simp] theorem State.startPresence_timers (n : Nat) :
    (s.startPresence n).timers = { s.timers with presence := Channel.start n } := rfl
@[simp] theorem State.startPresence_aperture (n : Nat) :
    (s.startPresence n).aperture = s.aperture := rfl
@[simp] theorem State.startPresence_engine (n : Nat) : (s.startPresence n).engine = s.engine := rfl
@[simp] theorem State.startPresence_flow (n : Nat) : (s.startPresence n).flow = s.flow := rfl
@[simp] theorem State.startPresence_resetIn (n : Nat) :
    (s.startPresence n).resetIn = s.resetIn := rfl
@[simp] theorem State.startPresence_draws (n : Nat) : (s.startPresence n).draws = s.draws := rfl
@[simp] theorem State.startPresence_out (n : Nat) : (s.startPresence n).out = s.out := rfl

/-! ### consumeProof -/

@[simp] theorem State.consumeProof_pending : s.consumeProof.pending = s.pending := rfl
@[simp] theorem State.consumeProof_powered : s.consumeProof.powered = s.powered := rfl
@[simp] theorem State.consumeProof_stage : s.consumeProof.stage = s.stage := rfl
@[simp] theorem State.consumeProof_up : s.consumeProof.up = s.up := rfl
@[simp] theorem State.consumeProof_filter : s.consumeProof.filter = s.filter := rfl
@[simp] theorem State.consumeProof_down : s.consumeProof.down = s.down := rfl
@[simp] theorem State.consumeProof_ve : s.consumeProof.ve = s.ve := rfl
@[simp] theorem State.consumeProof_slots : s.consumeProof.slots = s.slots := rfl
@[simp] theorem State.consumeProof_keys : s.consumeProof.keys = s.keys := rfl
@[simp] theorem State.consumeProof_cred : s.consumeProof.cred = s.cred := rfl
@[simp] theorem State.consumeProof_presence :
    s.consumeProof.presence = { s.presence with state := .idle } := rfl
@[simp] theorem State.consumeProof_log : s.consumeProof.log = s.log := rfl
@[simp] theorem State.consumeProof_events : s.consumeProof.events = s.events := rfl
@[simp] theorem State.consumeProof_fuses : s.consumeProof.fuses = s.fuses := rfl
@[simp] theorem State.consumeProof_records : s.consumeProof.records = s.records := rfl
@[simp] theorem State.consumeProof_config : s.consumeProof.config = s.config := rfl
@[simp] theorem State.consumeProof_cert : s.consumeProof.cert = s.cert := rfl
@[simp] theorem State.consumeProof_supply : s.consumeProof.supply = s.supply := rfl
@[simp] theorem State.consumeProof_timers :
    s.consumeProof.timers = { s.timers with presence := s.timers.presence.stop } := rfl
@[simp] theorem State.consumeProof_aperture : s.consumeProof.aperture = s.aperture := rfl
@[simp] theorem State.consumeProof_engine : s.consumeProof.engine = s.engine := rfl
@[simp] theorem State.consumeProof_flow : s.consumeProof.flow = s.flow := rfl
@[simp] theorem State.consumeProof_resetIn : s.consumeProof.resetIn = s.resetIn := rfl
@[simp] theorem State.consumeProof_draws : s.consumeProof.draws = s.draws := rfl
@[simp] theorem State.consumeProof_out : s.consumeProof.out = s.out := rfl

/-! ### penaltyExpires -/

@[simp] theorem State.penaltyExpires_pending : s.penaltyExpires.pending = s.pending := rfl
@[simp] theorem State.penaltyExpires_powered : s.penaltyExpires.powered = s.powered := rfl
@[simp] theorem State.penaltyExpires_stage : s.penaltyExpires.stage = s.stage := rfl
@[simp] theorem State.penaltyExpires_up : s.penaltyExpires.up = s.up := rfl
@[simp] theorem State.penaltyExpires_filter : s.penaltyExpires.filter = s.filter := rfl
@[simp] theorem State.penaltyExpires_down : s.penaltyExpires.down = s.down := rfl
@[simp] theorem State.penaltyExpires_ve : s.penaltyExpires.ve = s.ve := rfl
@[simp] theorem State.penaltyExpires_slots : s.penaltyExpires.slots = s.slots := rfl
@[simp] theorem State.penaltyExpires_keys : s.penaltyExpires.keys = s.keys := rfl
@[simp] theorem State.penaltyExpires_cred : s.penaltyExpires.cred = s.cred := rfl
@[simp] theorem State.penaltyExpires_presence : s.penaltyExpires.presence = s.presence := rfl
@[simp] theorem State.penaltyExpires_log : s.penaltyExpires.log = s.log := rfl
@[simp] theorem State.penaltyExpires_events : s.penaltyExpires.events = s.events := rfl
@[simp] theorem State.penaltyExpires_fuses : s.penaltyExpires.fuses = s.fuses := rfl
@[simp] theorem State.penaltyExpires_records : s.penaltyExpires.records = s.records := rfl
@[simp] theorem State.penaltyExpires_config : s.penaltyExpires.config = s.config := rfl
@[simp] theorem State.penaltyExpires_cert : s.penaltyExpires.cert = s.cert := rfl
@[simp] theorem State.penaltyExpires_supply : s.penaltyExpires.supply = s.supply := rfl
@[simp] theorem State.penaltyExpires_timers :
    s.penaltyExpires.timers = { s.timers with penalty := Channel.expired } := rfl
@[simp] theorem State.penaltyExpires_aperture : s.penaltyExpires.aperture = s.aperture := rfl
@[simp] theorem State.penaltyExpires_engine : s.penaltyExpires.engine = s.engine := rfl
@[simp] theorem State.penaltyExpires_flow : s.penaltyExpires.flow = s.flow := rfl
@[simp] theorem State.penaltyExpires_resetIn : s.penaltyExpires.resetIn = s.resetIn := rfl
@[simp] theorem State.penaltyExpires_draws : s.penaltyExpires.draws = s.draws := rfl
@[simp] theorem State.penaltyExpires_out : s.penaltyExpires.out = s.out := rfl

/-! ### setResponse -/

@[simp] theorem State.setResponse_pending (r : Response) :
    (s.setResponse r).pending = s.pending := rfl
@[simp] theorem State.setResponse_powered (r : Response) :
    (s.setResponse r).powered = s.powered := rfl
@[simp] theorem State.setResponse_stage (r : Response) : (s.setResponse r).stage = s.stage := rfl
@[simp] theorem State.setResponse_up (r : Response) : (s.setResponse r).up = s.up := rfl
@[simp] theorem State.setResponse_filter (r : Response) : (s.setResponse r).filter = s.filter := rfl
@[simp] theorem State.setResponse_down (r : Response) : (s.setResponse r).down = s.down := rfl
@[simp] theorem State.setResponse_ve (r : Response) : (s.setResponse r).ve = s.ve := rfl
@[simp] theorem State.setResponse_slots (r : Response) : (s.setResponse r).slots = s.slots := rfl
@[simp] theorem State.setResponse_keys (r : Response) : (s.setResponse r).keys = s.keys := rfl
@[simp] theorem State.setResponse_cred (r : Response) : (s.setResponse r).cred = s.cred := rfl
@[simp] theorem State.setResponse_presence (r : Response) :
    (s.setResponse r).presence = s.presence := rfl
@[simp] theorem State.setResponse_log (r : Response) : (s.setResponse r).log = s.log := rfl
@[simp] theorem State.setResponse_events (r : Response) : (s.setResponse r).events = s.events := rfl
@[simp] theorem State.setResponse_fuses (r : Response) : (s.setResponse r).fuses = s.fuses := rfl
@[simp] theorem State.setResponse_records (r : Response) :
    (s.setResponse r).records = s.records := rfl
@[simp] theorem State.setResponse_config (r : Response) : (s.setResponse r).config = s.config := rfl
@[simp] theorem State.setResponse_cert (r : Response) : (s.setResponse r).cert = s.cert := rfl
@[simp] theorem State.setResponse_supply (r : Response) : (s.setResponse r).supply = s.supply := rfl
@[simp] theorem State.setResponse_timers (r : Response) : (s.setResponse r).timers = s.timers := rfl
@[simp] theorem State.setResponse_aperture (r : Response) :
    (s.setResponse r).aperture = { s.aperture with resp := r } := rfl
@[simp] theorem State.setResponse_engine (r : Response) : (s.setResponse r).engine = s.engine := rfl
@[simp] theorem State.setResponse_flow (r : Response) : (s.setResponse r).flow = s.flow := rfl
@[simp] theorem State.setResponse_resetIn (r : Response) :
    (s.setResponse r).resetIn = s.resetIn := rfl
@[simp] theorem State.setResponse_draws (r : Response) : (s.setResponse r).draws = s.draws := rfl
@[simp] theorem State.setResponse_out (r : Response) : (s.setResponse r).out = s.out := rfl

/-! ### refuseFrame -/

@[simp] theorem State.refuseFrame_pending : s.refuseFrame.pending = s.pending := rfl
@[simp] theorem State.refuseFrame_powered : s.refuseFrame.powered = s.powered := rfl
@[simp] theorem State.refuseFrame_stage : s.refuseFrame.stage = s.stage := rfl
@[simp] theorem State.refuseFrame_up : s.refuseFrame.up = s.up := rfl
@[simp] theorem State.refuseFrame_filter : s.refuseFrame.filter = s.filter := rfl
@[simp] theorem State.refuseFrame_down : s.refuseFrame.down = s.down := rfl
@[simp] theorem State.refuseFrame_ve : s.refuseFrame.ve = s.ve := rfl
@[simp] theorem State.refuseFrame_slots : s.refuseFrame.slots = s.slots := rfl
@[simp] theorem State.refuseFrame_keys : s.refuseFrame.keys = s.keys := rfl
@[simp] theorem State.refuseFrame_cred : s.refuseFrame.cred = s.cred := rfl
@[simp] theorem State.refuseFrame_presence : s.refuseFrame.presence = s.presence := rfl
@[simp] theorem State.refuseFrame_log : s.refuseFrame.log = s.log := rfl
@[simp] theorem State.refuseFrame_events : s.refuseFrame.events = s.events := rfl
@[simp] theorem State.refuseFrame_fuses : s.refuseFrame.fuses = s.fuses := rfl
@[simp] theorem State.refuseFrame_records : s.refuseFrame.records = s.records := rfl
@[simp] theorem State.refuseFrame_config : s.refuseFrame.config = s.config := rfl
@[simp] theorem State.refuseFrame_cert : s.refuseFrame.cert = s.cert := rfl
@[simp] theorem State.refuseFrame_supply : s.refuseFrame.supply = s.supply := rfl
@[simp] theorem State.refuseFrame_timers : s.refuseFrame.timers = s.timers := rfl
@[simp] theorem State.refuseFrame_aperture :
    s.refuseFrame.aperture = { s.aperture with resp := s.aperture.resp.countRefused } := rfl
@[simp] theorem State.refuseFrame_engine : s.refuseFrame.engine = s.engine := rfl
@[simp] theorem State.refuseFrame_flow : s.refuseFrame.flow = s.flow := rfl
@[simp] theorem State.refuseFrame_resetIn : s.refuseFrame.resetIn = s.resetIn := rfl
@[simp] theorem State.refuseFrame_draws : s.refuseFrame.draws = s.draws := rfl
@[simp] theorem State.refuseFrame_out : s.refuseFrame.out = s.out := rfl

/-! ### holdFrame -/

@[simp] theorem State.holdFrame_pending (f : Frame) : (s.holdFrame f).pending = s.pending := rfl
@[simp] theorem State.holdFrame_powered (f : Frame) : (s.holdFrame f).powered = s.powered := rfl
@[simp] theorem State.holdFrame_stage (f : Frame) : (s.holdFrame f).stage = s.stage := rfl
@[simp] theorem State.holdFrame_up (f : Frame) : (s.holdFrame f).up = s.up := rfl
@[simp] theorem State.holdFrame_filter (f : Frame) : (s.holdFrame f).filter = s.filter := rfl
@[simp] theorem State.holdFrame_down (f : Frame) : (s.holdFrame f).down = s.down := rfl
@[simp] theorem State.holdFrame_ve (f : Frame) : (s.holdFrame f).ve = s.ve := rfl
@[simp] theorem State.holdFrame_slots (f : Frame) : (s.holdFrame f).slots = s.slots := rfl
@[simp] theorem State.holdFrame_keys (f : Frame) : (s.holdFrame f).keys = s.keys := rfl
@[simp] theorem State.holdFrame_cred (f : Frame) : (s.holdFrame f).cred = s.cred := rfl
@[simp] theorem State.holdFrame_presence (f : Frame) : (s.holdFrame f).presence = s.presence := rfl
@[simp] theorem State.holdFrame_log (f : Frame) : (s.holdFrame f).log = s.log := rfl
@[simp] theorem State.holdFrame_events (f : Frame) : (s.holdFrame f).events = s.events := rfl
@[simp] theorem State.holdFrame_fuses (f : Frame) : (s.holdFrame f).fuses = s.fuses := rfl
@[simp] theorem State.holdFrame_records (f : Frame) : (s.holdFrame f).records = s.records := rfl
@[simp] theorem State.holdFrame_config (f : Frame) : (s.holdFrame f).config = s.config := rfl
@[simp] theorem State.holdFrame_cert (f : Frame) : (s.holdFrame f).cert = s.cert := rfl
@[simp] theorem State.holdFrame_supply (f : Frame) : (s.holdFrame f).supply = s.supply := rfl
@[simp] theorem State.holdFrame_timers (f : Frame) : (s.holdFrame f).timers = s.timers := rfl
@[simp] theorem State.holdFrame_aperture (f : Frame) :
    (s.holdFrame f).aperture = { s.aperture with
      resp := Response.queued f s.aperture.resp.lost, aside := some s.aperture.resp, held := some f } := rfl
@[simp] theorem State.holdFrame_engine (f : Frame) : (s.holdFrame f).engine = s.engine := rfl
@[simp] theorem State.holdFrame_flow (f : Frame) : (s.holdFrame f).flow = s.flow := rfl
@[simp] theorem State.holdFrame_resetIn (f : Frame) : (s.holdFrame f).resetIn = s.resetIn := rfl
@[simp] theorem State.holdFrame_draws (f : Frame) : (s.holdFrame f).draws = s.draws := rfl
@[simp] theorem State.holdFrame_out (f : Frame) : (s.holdFrame f).out = s.out := rfl

/-! ### dropReception -/

@[simp] theorem State.dropReception_pending : s.dropReception.pending = s.pending := rfl
@[simp] theorem State.dropReception_powered : s.dropReception.powered = s.powered := rfl
@[simp] theorem State.dropReception_stage : s.dropReception.stage = s.stage := rfl
@[simp] theorem State.dropReception_up : s.dropReception.up = s.up := rfl
@[simp] theorem State.dropReception_filter : s.dropReception.filter = s.filter := rfl
@[simp] theorem State.dropReception_down : s.dropReception.down = s.down := rfl
@[simp] theorem State.dropReception_ve : s.dropReception.ve = s.ve := rfl
@[simp] theorem State.dropReception_slots : s.dropReception.slots = s.slots := rfl
@[simp] theorem State.dropReception_keys : s.dropReception.keys = s.keys := rfl
@[simp] theorem State.dropReception_cred : s.dropReception.cred = s.cred := rfl
@[simp] theorem State.dropReception_presence : s.dropReception.presence = s.presence := rfl
@[simp] theorem State.dropReception_log : s.dropReception.log = s.log := rfl
@[simp] theorem State.dropReception_events : s.dropReception.events = s.events := rfl
@[simp] theorem State.dropReception_fuses : s.dropReception.fuses = s.fuses := rfl
@[simp] theorem State.dropReception_records : s.dropReception.records = s.records := rfl
@[simp] theorem State.dropReception_config : s.dropReception.config = s.config := rfl
@[simp] theorem State.dropReception_cert : s.dropReception.cert = s.cert := rfl
@[simp] theorem State.dropReception_supply : s.dropReception.supply = s.supply := rfl
@[simp] theorem State.dropReception_timers : s.dropReception.timers = s.timers := rfl
@[simp] theorem State.dropReception_aperture :
    s.dropReception.aperture = { s.aperture with rx := none } := rfl
@[simp] theorem State.dropReception_engine : s.dropReception.engine = s.engine := rfl
@[simp] theorem State.dropReception_flow : s.dropReception.flow = s.flow := rfl
@[simp] theorem State.dropReception_resetIn : s.dropReception.resetIn = s.resetIn := rfl
@[simp] theorem State.dropReception_draws : s.dropReception.draws = s.draws := rfl
@[simp] theorem State.dropReception_out : s.dropReception.out = s.out := rfl

/-! ### keepReception -/

@[simp] theorem State.keepReception_pending (b : List Byte) :
    (s.keepReception b).pending = s.pending := rfl
@[simp] theorem State.keepReception_powered (b : List Byte) :
    (s.keepReception b).powered = s.powered := rfl
@[simp] theorem State.keepReception_stage (b : List Byte) :
    (s.keepReception b).stage = s.stage := rfl
@[simp] theorem State.keepReception_up (b : List Byte) : (s.keepReception b).up = s.up := rfl
@[simp] theorem State.keepReception_filter (b : List Byte) :
    (s.keepReception b).filter = s.filter := rfl
@[simp] theorem State.keepReception_down (b : List Byte) : (s.keepReception b).down = s.down := rfl
@[simp] theorem State.keepReception_ve (b : List Byte) : (s.keepReception b).ve = s.ve := rfl
@[simp] theorem State.keepReception_slots (b : List Byte) :
    (s.keepReception b).slots = s.slots := rfl
@[simp] theorem State.keepReception_keys (b : List Byte) : (s.keepReception b).keys = s.keys := rfl
@[simp] theorem State.keepReception_cred (b : List Byte) : (s.keepReception b).cred = s.cred := rfl
@[simp] theorem State.keepReception_presence (b : List Byte) :
    (s.keepReception b).presence = s.presence := rfl
@[simp] theorem State.keepReception_log (b : List Byte) : (s.keepReception b).log = s.log := rfl
@[simp] theorem State.keepReception_events (b : List Byte) :
    (s.keepReception b).events = s.events := rfl
@[simp] theorem State.keepReception_fuses (b : List Byte) :
    (s.keepReception b).fuses = s.fuses := rfl
@[simp] theorem State.keepReception_records (b : List Byte) :
    (s.keepReception b).records = s.records := rfl
@[simp] theorem State.keepReception_config (b : List Byte) :
    (s.keepReception b).config = s.config := rfl
@[simp] theorem State.keepReception_cert (b : List Byte) : (s.keepReception b).cert = s.cert := rfl
@[simp] theorem State.keepReception_supply (b : List Byte) :
    (s.keepReception b).supply = s.supply := rfl
@[simp] theorem State.keepReception_timers (b : List Byte) :
    (s.keepReception b).timers = s.timers := rfl
@[simp] theorem State.keepReception_aperture (b : List Byte) :
    (s.keepReception b).aperture = { s.aperture with rx := some b } := rfl
@[simp] theorem State.keepReception_engine (b : List Byte) :
    (s.keepReception b).engine = s.engine := rfl
@[simp] theorem State.keepReception_flow (b : List Byte) : (s.keepReception b).flow = s.flow := rfl
@[simp] theorem State.keepReception_resetIn (b : List Byte) :
    (s.keepReception b).resetIn = s.resetIn := rfl
@[simp] theorem State.keepReception_draws (b : List Byte) :
    (s.keepReception b).draws = s.draws := rfl
@[simp] theorem State.keepReception_out (b : List Byte) : (s.keepReception b).out = s.out := rfl

/-! ### setTable -/

@[simp] theorem State.setTable_pending (t : RegionTable) : (s.setTable t).pending = s.pending := rfl
@[simp] theorem State.setTable_powered (t : RegionTable) : (s.setTable t).powered = s.powered := rfl
@[simp] theorem State.setTable_stage (t : RegionTable) : (s.setTable t).stage = s.stage := rfl
@[simp] theorem State.setTable_up (t : RegionTable) : (s.setTable t).up = s.up := rfl
@[simp] theorem State.setTable_filter (t : RegionTable) :
    (s.setTable t).filter = { s.filter with table := t } := rfl
@[simp] theorem State.setTable_down (t : RegionTable) : (s.setTable t).down = s.down := rfl
@[simp] theorem State.setTable_ve (t : RegionTable) : (s.setTable t).ve = s.ve := rfl
@[simp] theorem State.setTable_slots (t : RegionTable) : (s.setTable t).slots = s.slots := rfl
@[simp] theorem State.setTable_keys (t : RegionTable) : (s.setTable t).keys = s.keys := rfl
@[simp] theorem State.setTable_cred (t : RegionTable) : (s.setTable t).cred = s.cred := rfl
@[simp] theorem State.setTable_presence (t : RegionTable) :
    (s.setTable t).presence = s.presence := rfl
@[simp] theorem State.setTable_log (t : RegionTable) : (s.setTable t).log = s.log := rfl
@[simp] theorem State.setTable_events (t : RegionTable) : (s.setTable t).events = s.events := rfl
@[simp] theorem State.setTable_fuses (t : RegionTable) : (s.setTable t).fuses = s.fuses := rfl
@[simp] theorem State.setTable_records (t : RegionTable) : (s.setTable t).records = s.records := rfl
@[simp] theorem State.setTable_config (t : RegionTable) : (s.setTable t).config = s.config := rfl
@[simp] theorem State.setTable_cert (t : RegionTable) : (s.setTable t).cert = s.cert := rfl
@[simp] theorem State.setTable_supply (t : RegionTable) : (s.setTable t).supply = s.supply := rfl
@[simp] theorem State.setTable_timers (t : RegionTable) : (s.setTable t).timers = s.timers := rfl
@[simp] theorem State.setTable_aperture (t : RegionTable) :
    (s.setTable t).aperture = s.aperture := rfl
@[simp] theorem State.setTable_engine (t : RegionTable) : (s.setTable t).engine = s.engine := rfl
@[simp] theorem State.setTable_flow (t : RegionTable) : (s.setTable t).flow = s.flow := rfl
@[simp] theorem State.setTable_resetIn (t : RegionTable) : (s.setTable t).resetIn = s.resetIn := rfl
@[simp] theorem State.setTable_draws (t : RegionTable) : (s.setTable t).draws = s.draws := rfl
@[simp] theorem State.setTable_out (t : RegionTable) : (s.setTable t).out = s.out := rfl

/-! ### setFails -/

@[simp] theorem State.setFails_pending (n : Nat) : (s.setFails n).pending = s.pending := rfl
@[simp] theorem State.setFails_powered (n : Nat) : (s.setFails n).powered = s.powered := rfl
@[simp] theorem State.setFails_stage (n : Nat) : (s.setFails n).stage = s.stage := rfl
@[simp] theorem State.setFails_up (n : Nat) : (s.setFails n).up = s.up := rfl
@[simp] theorem State.setFails_filter (n : Nat) : (s.setFails n).filter = s.filter := rfl
@[simp] theorem State.setFails_down (n : Nat) : (s.setFails n).down = s.down := rfl
@[simp] theorem State.setFails_ve (n : Nat) : (s.setFails n).ve = s.ve := rfl
@[simp] theorem State.setFails_slots (n : Nat) : (s.setFails n).slots = s.slots := rfl
@[simp] theorem State.setFails_keys (n : Nat) : (s.setFails n).keys = s.keys := rfl
@[simp] theorem State.setFails_cred (n : Nat) :
    (s.setFails n).cred = { s.cred with failCount := n } := rfl
@[simp] theorem State.setFails_presence (n : Nat) : (s.setFails n).presence = s.presence := rfl
@[simp] theorem State.setFails_log (n : Nat) : (s.setFails n).log = s.log := rfl
@[simp] theorem State.setFails_events (n : Nat) : (s.setFails n).events = s.events := rfl
@[simp] theorem State.setFails_fuses (n : Nat) : (s.setFails n).fuses = s.fuses := rfl
@[simp] theorem State.setFails_records (n : Nat) : (s.setFails n).records = s.records := rfl
@[simp] theorem State.setFails_config (n : Nat) : (s.setFails n).config = s.config := rfl
@[simp] theorem State.setFails_cert (n : Nat) : (s.setFails n).cert = s.cert := rfl
@[simp] theorem State.setFails_supply (n : Nat) : (s.setFails n).supply = s.supply := rfl
@[simp] theorem State.setFails_timers (n : Nat) : (s.setFails n).timers = s.timers := rfl
@[simp] theorem State.setFails_aperture (n : Nat) : (s.setFails n).aperture = s.aperture := rfl
@[simp] theorem State.setFails_engine (n : Nat) : (s.setFails n).engine = s.engine := rfl
@[simp] theorem State.setFails_flow (n : Nat) : (s.setFails n).flow = s.flow := rfl
@[simp] theorem State.setFails_resetIn (n : Nat) : (s.setFails n).resetIn = s.resetIn := rfl
@[simp] theorem State.setFails_draws (n : Nat) : (s.setFails n).draws = s.draws := rfl
@[simp] theorem State.setFails_out (n : Nat) : (s.setFails n).out = s.out := rfl

/-! ### setSupply -/

@[simp] theorem State.setSupply_pending (b : Bool) : (s.setSupply b).pending = s.pending := rfl
@[simp] theorem State.setSupply_powered (b : Bool) : (s.setSupply b).powered = s.powered := rfl
@[simp] theorem State.setSupply_stage (b : Bool) : (s.setSupply b).stage = s.stage := rfl
@[simp] theorem State.setSupply_up (b : Bool) : (s.setSupply b).up = s.up := rfl
@[simp] theorem State.setSupply_filter (b : Bool) : (s.setSupply b).filter = s.filter := rfl
@[simp] theorem State.setSupply_down (b : Bool) : (s.setSupply b).down = s.down := rfl
@[simp] theorem State.setSupply_ve (b : Bool) : (s.setSupply b).ve = s.ve := rfl
@[simp] theorem State.setSupply_slots (b : Bool) : (s.setSupply b).slots = s.slots := rfl
@[simp] theorem State.setSupply_keys (b : Bool) : (s.setSupply b).keys = s.keys := rfl
@[simp] theorem State.setSupply_cred (b : Bool) : (s.setSupply b).cred = s.cred := rfl
@[simp] theorem State.setSupply_presence (b : Bool) : (s.setSupply b).presence = s.presence := rfl
@[simp] theorem State.setSupply_log (b : Bool) : (s.setSupply b).log = s.log := rfl
@[simp] theorem State.setSupply_events (b : Bool) : (s.setSupply b).events = s.events := rfl
@[simp] theorem State.setSupply_fuses (b : Bool) : (s.setSupply b).fuses = s.fuses := rfl
@[simp] theorem State.setSupply_records (b : Bool) : (s.setSupply b).records = s.records := rfl
@[simp] theorem State.setSupply_config (b : Bool) : (s.setSupply b).config = s.config := rfl
@[simp] theorem State.setSupply_cert (b : Bool) : (s.setSupply b).cert = s.cert := rfl
@[simp] theorem State.setSupply_supply (b : Bool) :
    (s.setSupply b).supply = { s.supply with normal := b, run := 0 } := rfl
@[simp] theorem State.setSupply_timers (b : Bool) : (s.setSupply b).timers = s.timers := rfl
@[simp] theorem State.setSupply_aperture (b : Bool) : (s.setSupply b).aperture = s.aperture := rfl
@[simp] theorem State.setSupply_engine (b : Bool) : (s.setSupply b).engine = s.engine := rfl
@[simp] theorem State.setSupply_flow (b : Bool) : (s.setSupply b).flow = s.flow := rfl
@[simp] theorem State.setSupply_resetIn (b : Bool) : (s.setSupply b).resetIn = s.resetIn := rfl
@[simp] theorem State.setSupply_draws (b : Bool) : (s.setSupply b).draws = s.draws := rfl
@[simp] theorem State.setSupply_out (b : Bool) : (s.setSupply b).out = s.out := rfl

/-! ### setPresence -/

@[simp] theorem State.setPresence_pending (p : PresenceState) :
    (s.setPresence p).pending = s.pending := rfl
@[simp] theorem State.setPresence_powered (p : PresenceState) :
    (s.setPresence p).powered = s.powered := rfl
@[simp] theorem State.setPresence_stage (p : PresenceState) :
    (s.setPresence p).stage = s.stage := rfl
@[simp] theorem State.setPresence_up (p : PresenceState) : (s.setPresence p).up = s.up := rfl
@[simp] theorem State.setPresence_filter (p : PresenceState) :
    (s.setPresence p).filter = s.filter := rfl
@[simp] theorem State.setPresence_down (p : PresenceState) : (s.setPresence p).down = s.down := rfl
@[simp] theorem State.setPresence_ve (p : PresenceState) : (s.setPresence p).ve = s.ve := rfl
@[simp] theorem State.setPresence_slots (p : PresenceState) :
    (s.setPresence p).slots = s.slots := rfl
@[simp] theorem State.setPresence_keys (p : PresenceState) : (s.setPresence p).keys = s.keys := rfl
@[simp] theorem State.setPresence_cred (p : PresenceState) : (s.setPresence p).cred = s.cred := rfl
@[simp] theorem State.setPresence_presence (p : PresenceState) :
    (s.setPresence p).presence = { s.presence with state := p } := rfl
@[simp] theorem State.setPresence_log (p : PresenceState) : (s.setPresence p).log = s.log := rfl
@[simp] theorem State.setPresence_events (p : PresenceState) :
    (s.setPresence p).events = s.events := rfl
@[simp] theorem State.setPresence_fuses (p : PresenceState) :
    (s.setPresence p).fuses = s.fuses := rfl
@[simp] theorem State.setPresence_records (p : PresenceState) :
    (s.setPresence p).records = s.records := rfl
@[simp] theorem State.setPresence_config (p : PresenceState) :
    (s.setPresence p).config = s.config := rfl
@[simp] theorem State.setPresence_cert (p : PresenceState) : (s.setPresence p).cert = s.cert := rfl
@[simp] theorem State.setPresence_supply (p : PresenceState) :
    (s.setPresence p).supply = s.supply := rfl
@[simp] theorem State.setPresence_timers (p : PresenceState) :
    (s.setPresence p).timers = s.timers := rfl
@[simp] theorem State.setPresence_aperture (p : PresenceState) :
    (s.setPresence p).aperture = s.aperture := rfl
@[simp] theorem State.setPresence_engine (p : PresenceState) :
    (s.setPresence p).engine = s.engine := rfl
@[simp] theorem State.setPresence_flow (p : PresenceState) : (s.setPresence p).flow = s.flow := rfl
@[simp] theorem State.setPresence_resetIn (p : PresenceState) :
    (s.setPresence p).resetIn = s.resetIn := rfl
@[simp] theorem State.setPresence_draws (p : PresenceState) :
    (s.setPresence p).draws = s.draws := rfl
@[simp] theorem State.setPresence_out (p : PresenceState) : (s.setPresence p).out = s.out := rfl

/-! ### setLevel -/

@[simp] theorem State.setLevel_pending (b : Bool) : (s.setLevel b).pending = s.pending := rfl
@[simp] theorem State.setLevel_powered (b : Bool) : (s.setLevel b).powered = s.powered := rfl
@[simp] theorem State.setLevel_stage (b : Bool) : (s.setLevel b).stage = s.stage := rfl
@[simp] theorem State.setLevel_up (b : Bool) : (s.setLevel b).up = s.up := rfl
@[simp] theorem State.setLevel_filter (b : Bool) : (s.setLevel b).filter = s.filter := rfl
@[simp] theorem State.setLevel_down (b : Bool) : (s.setLevel b).down = s.down := rfl
@[simp] theorem State.setLevel_ve (b : Bool) : (s.setLevel b).ve = s.ve := rfl
@[simp] theorem State.setLevel_slots (b : Bool) : (s.setLevel b).slots = s.slots := rfl
@[simp] theorem State.setLevel_keys (b : Bool) : (s.setLevel b).keys = s.keys := rfl
@[simp] theorem State.setLevel_cred (b : Bool) : (s.setLevel b).cred = s.cred := rfl
@[simp] theorem State.setLevel_presence (b : Bool) :
    (s.setLevel b).presence = { s.presence with level := b, ticks := 0 } := rfl
@[simp] theorem State.setLevel_log (b : Bool) : (s.setLevel b).log = s.log := rfl
@[simp] theorem State.setLevel_events (b : Bool) : (s.setLevel b).events = s.events := rfl
@[simp] theorem State.setLevel_fuses (b : Bool) : (s.setLevel b).fuses = s.fuses := rfl
@[simp] theorem State.setLevel_records (b : Bool) : (s.setLevel b).records = s.records := rfl
@[simp] theorem State.setLevel_config (b : Bool) : (s.setLevel b).config = s.config := rfl
@[simp] theorem State.setLevel_cert (b : Bool) : (s.setLevel b).cert = s.cert := rfl
@[simp] theorem State.setLevel_supply (b : Bool) : (s.setLevel b).supply = s.supply := rfl
@[simp] theorem State.setLevel_timers (b : Bool) : (s.setLevel b).timers = s.timers := rfl
@[simp] theorem State.setLevel_aperture (b : Bool) : (s.setLevel b).aperture = s.aperture := rfl
@[simp] theorem State.setLevel_engine (b : Bool) : (s.setLevel b).engine = s.engine := rfl
@[simp] theorem State.setLevel_flow (b : Bool) : (s.setLevel b).flow = s.flow := rfl
@[simp] theorem State.setLevel_resetIn (b : Bool) : (s.setLevel b).resetIn = s.resetIn := rfl
@[simp] theorem State.setLevel_draws (b : Bool) : (s.setLevel b).draws = s.draws := rfl
@[simp] theorem State.setLevel_out (b : Bool) : (s.setLevel b).out = s.out := rfl

/-! ### setDeferral -/

@[simp] theorem State.setDeferral_pending (b : Bool) : (s.setDeferral b).pending = s.pending := rfl
@[simp] theorem State.setDeferral_powered (b : Bool) : (s.setDeferral b).powered = s.powered := rfl
@[simp] theorem State.setDeferral_stage (b : Bool) : (s.setDeferral b).stage = s.stage := rfl
@[simp] theorem State.setDeferral_up (b : Bool) : (s.setDeferral b).up = s.up := rfl
@[simp] theorem State.setDeferral_filter (b : Bool) : (s.setDeferral b).filter = s.filter := rfl
@[simp] theorem State.setDeferral_down (b : Bool) : (s.setDeferral b).down = s.down := rfl
@[simp] theorem State.setDeferral_ve (b : Bool) : (s.setDeferral b).ve = s.ve := rfl
@[simp] theorem State.setDeferral_slots (b : Bool) :
    (s.setDeferral b).slots = { s.slots with deferral := b } := rfl
@[simp] theorem State.setDeferral_keys (b : Bool) : (s.setDeferral b).keys = s.keys := rfl
@[simp] theorem State.setDeferral_cred (b : Bool) : (s.setDeferral b).cred = s.cred := rfl
@[simp] theorem State.setDeferral_presence (b : Bool) :
    (s.setDeferral b).presence = s.presence := rfl
@[simp] theorem State.setDeferral_log (b : Bool) : (s.setDeferral b).log = s.log := rfl
@[simp] theorem State.setDeferral_events (b : Bool) : (s.setDeferral b).events = s.events := rfl
@[simp] theorem State.setDeferral_fuses (b : Bool) : (s.setDeferral b).fuses = s.fuses := rfl
@[simp] theorem State.setDeferral_records (b : Bool) : (s.setDeferral b).records = s.records := rfl
@[simp] theorem State.setDeferral_config (b : Bool) : (s.setDeferral b).config = s.config := rfl
@[simp] theorem State.setDeferral_cert (b : Bool) : (s.setDeferral b).cert = s.cert := rfl
@[simp] theorem State.setDeferral_supply (b : Bool) : (s.setDeferral b).supply = s.supply := rfl
@[simp] theorem State.setDeferral_timers (b : Bool) : (s.setDeferral b).timers = s.timers := rfl
@[simp] theorem State.setDeferral_aperture (b : Bool) :
    (s.setDeferral b).aperture = s.aperture := rfl
@[simp] theorem State.setDeferral_engine (b : Bool) : (s.setDeferral b).engine = s.engine := rfl
@[simp] theorem State.setDeferral_flow (b : Bool) : (s.setDeferral b).flow = s.flow := rfl
@[simp] theorem State.setDeferral_resetIn (b : Bool) : (s.setDeferral b).resetIn = s.resetIn := rfl
@[simp] theorem State.setDeferral_draws (b : Bool) : (s.setDeferral b).draws = s.draws := rfl
@[simp] theorem State.setDeferral_out (b : Bool) : (s.setDeferral b).out = s.out := rfl

/-! ### setResetIn -/

@[simp] theorem State.setResetIn_pending (b : Bool) : (s.setResetIn b).pending = s.pending := rfl
@[simp] theorem State.setResetIn_powered (b : Bool) : (s.setResetIn b).powered = s.powered := rfl
@[simp] theorem State.setResetIn_stage (b : Bool) : (s.setResetIn b).stage = s.stage := rfl
@[simp] theorem State.setResetIn_up (b : Bool) : (s.setResetIn b).up = s.up := rfl
@[simp] theorem State.setResetIn_filter (b : Bool) : (s.setResetIn b).filter = s.filter := rfl
@[simp] theorem State.setResetIn_down (b : Bool) : (s.setResetIn b).down = s.down := rfl
@[simp] theorem State.setResetIn_ve (b : Bool) : (s.setResetIn b).ve = s.ve := rfl
@[simp] theorem State.setResetIn_slots (b : Bool) : (s.setResetIn b).slots = s.slots := rfl
@[simp] theorem State.setResetIn_keys (b : Bool) : (s.setResetIn b).keys = s.keys := rfl
@[simp] theorem State.setResetIn_cred (b : Bool) : (s.setResetIn b).cred = s.cred := rfl
@[simp] theorem State.setResetIn_presence (b : Bool) : (s.setResetIn b).presence = s.presence := rfl
@[simp] theorem State.setResetIn_log (b : Bool) : (s.setResetIn b).log = s.log := rfl
@[simp] theorem State.setResetIn_events (b : Bool) : (s.setResetIn b).events = s.events := rfl
@[simp] theorem State.setResetIn_fuses (b : Bool) : (s.setResetIn b).fuses = s.fuses := rfl
@[simp] theorem State.setResetIn_records (b : Bool) : (s.setResetIn b).records = s.records := rfl
@[simp] theorem State.setResetIn_config (b : Bool) : (s.setResetIn b).config = s.config := rfl
@[simp] theorem State.setResetIn_cert (b : Bool) : (s.setResetIn b).cert = s.cert := rfl
@[simp] theorem State.setResetIn_supply (b : Bool) : (s.setResetIn b).supply = s.supply := rfl
@[simp] theorem State.setResetIn_timers (b : Bool) : (s.setResetIn b).timers = s.timers := rfl
@[simp] theorem State.setResetIn_aperture (b : Bool) : (s.setResetIn b).aperture = s.aperture := rfl
@[simp] theorem State.setResetIn_engine (b : Bool) : (s.setResetIn b).engine = s.engine := rfl
@[simp] theorem State.setResetIn_flow (b : Bool) : (s.setResetIn b).flow = s.flow := rfl
@[simp] theorem State.setResetIn_resetIn (b : Bool) : (s.setResetIn b).resetIn = b := rfl
@[simp] theorem State.setResetIn_draws (b : Bool) : (s.setResetIn b).draws = s.draws := rfl
@[simp] theorem State.setResetIn_out (b : Bool) : (s.setResetIn b).out = s.out := rfl

/-! ### withPending -/

@[simp] theorem State.withPending_pending (q : List Instr) : (s.withPending q).pending = q := rfl
@[simp] theorem State.withPending_powered (q : List Instr) :
    (s.withPending q).powered = s.powered := rfl
@[simp] theorem State.withPending_stage (q : List Instr) : (s.withPending q).stage = s.stage := rfl
@[simp] theorem State.withPending_up (q : List Instr) : (s.withPending q).up = s.up := rfl
@[simp] theorem State.withPending_filter (q : List Instr) :
    (s.withPending q).filter = s.filter := rfl
@[simp] theorem State.withPending_down (q : List Instr) : (s.withPending q).down = s.down := rfl
@[simp] theorem State.withPending_ve (q : List Instr) : (s.withPending q).ve = s.ve := rfl
@[simp] theorem State.withPending_slots (q : List Instr) : (s.withPending q).slots = s.slots := rfl
@[simp] theorem State.withPending_keys (q : List Instr) : (s.withPending q).keys = s.keys := rfl
@[simp] theorem State.withPending_cred (q : List Instr) : (s.withPending q).cred = s.cred := rfl
@[simp] theorem State.withPending_presence (q : List Instr) :
    (s.withPending q).presence = s.presence := rfl
@[simp] theorem State.withPending_log (q : List Instr) : (s.withPending q).log = s.log := rfl
@[simp] theorem State.withPending_events (q : List Instr) :
    (s.withPending q).events = s.events := rfl
@[simp] theorem State.withPending_fuses (q : List Instr) : (s.withPending q).fuses = s.fuses := rfl
@[simp] theorem State.withPending_records (q : List Instr) :
    (s.withPending q).records = s.records := rfl
@[simp] theorem State.withPending_config (q : List Instr) :
    (s.withPending q).config = s.config := rfl
@[simp] theorem State.withPending_cert (q : List Instr) : (s.withPending q).cert = s.cert := rfl
@[simp] theorem State.withPending_supply (q : List Instr) :
    (s.withPending q).supply = s.supply := rfl
@[simp] theorem State.withPending_timers (q : List Instr) :
    (s.withPending q).timers = s.timers := rfl
@[simp] theorem State.withPending_aperture (q : List Instr) :
    (s.withPending q).aperture = s.aperture := rfl
@[simp] theorem State.withPending_engine (q : List Instr) :
    (s.withPending q).engine = s.engine := rfl
@[simp] theorem State.withPending_flow (q : List Instr) : (s.withPending q).flow = s.flow := rfl
@[simp] theorem State.withPending_resetIn (q : List Instr) :
    (s.withPending q).resetIn = s.resetIn := rfl
@[simp] theorem State.withPending_draws (q : List Instr) : (s.withPending q).draws = s.draws := rfl
@[simp] theorem State.withPending_out (q : List Instr) : (s.withPending q).out = s.out := rfl

/-! ### capture -/

@[simp] theorem State.capture_pending (a b c : Byte) : (s.capture a b c).pending = s.pending := rfl
@[simp] theorem State.capture_powered (a b c : Byte) : (s.capture a b c).powered = s.powered := rfl
@[simp] theorem State.capture_stage (a b c : Byte) : (s.capture a b c).stage = s.stage := rfl
@[simp] theorem State.capture_up (a b c : Byte) : (s.capture a b c).up = s.up := rfl
@[simp] theorem State.capture_filter (a b c : Byte) : (s.capture a b c).filter = s.filter := rfl
@[simp] theorem State.capture_down (a b c : Byte) :
    (s.capture a b c).down = { s.down with id0 := a, id1 := b, id2 := c } := rfl
@[simp] theorem State.capture_ve (a b c : Byte) : (s.capture a b c).ve = s.ve := rfl
@[simp] theorem State.capture_slots (a b c : Byte) : (s.capture a b c).slots = s.slots := rfl
@[simp] theorem State.capture_keys (a b c : Byte) : (s.capture a b c).keys = s.keys := rfl
@[simp] theorem State.capture_cred (a b c : Byte) : (s.capture a b c).cred = s.cred := rfl
@[simp] theorem State.capture_presence (a b c : Byte) :
    (s.capture a b c).presence = s.presence := rfl
@[simp] theorem State.capture_log (a b c : Byte) : (s.capture a b c).log = s.log := rfl
@[simp] theorem State.capture_events (a b c : Byte) : (s.capture a b c).events = s.events := rfl
@[simp] theorem State.capture_fuses (a b c : Byte) : (s.capture a b c).fuses = s.fuses := rfl
@[simp] theorem State.capture_records (a b c : Byte) : (s.capture a b c).records = s.records := rfl
@[simp] theorem State.capture_config (a b c : Byte) : (s.capture a b c).config = s.config := rfl
@[simp] theorem State.capture_cert (a b c : Byte) : (s.capture a b c).cert = s.cert := rfl
@[simp] theorem State.capture_supply (a b c : Byte) : (s.capture a b c).supply = s.supply := rfl
@[simp] theorem State.capture_timers (a b c : Byte) : (s.capture a b c).timers = s.timers := rfl
@[simp] theorem State.capture_aperture (a b c : Byte) :
    (s.capture a b c).aperture = s.aperture := rfl
@[simp] theorem State.capture_engine (a b c : Byte) : (s.capture a b c).engine = s.engine := rfl
@[simp] theorem State.capture_flow (a b c : Byte) : (s.capture a b c).flow = s.flow := rfl
@[simp] theorem State.capture_resetIn (a b c : Byte) : (s.capture a b c).resetIn = s.resetIn := rfl
@[simp] theorem State.capture_draws (a b c : Byte) : (s.capture a b c).draws = s.draws := rfl
@[simp] theorem State.capture_out (a b c : Byte) :
    (s.capture a b c).out = { s.out with toFlash := s.out.toFlash ++ [.identify] } := rfl

/-! ### countBoot -/

@[simp] theorem State.countBoot_pending : s.countBoot.pending = s.pending := rfl
@[simp] theorem State.countBoot_powered : s.countBoot.powered = s.powered := rfl
@[simp] theorem State.countBoot_stage : s.countBoot.stage = s.stage := rfl
@[simp] theorem State.countBoot_up : s.countBoot.up = s.up := rfl
@[simp] theorem State.countBoot_filter : s.countBoot.filter = s.filter := rfl
@[simp] theorem State.countBoot_down : s.countBoot.down = s.down := rfl
@[simp] theorem State.countBoot_ve : s.countBoot.ve = s.ve := rfl
@[simp] theorem State.countBoot_slots :
    s.countBoot.slots = { s.slots with
      bootCounter := min (s.slots.bootCounter + 1) 4294967295, lastReason := s.flow.reason } := rfl
@[simp] theorem State.countBoot_keys : s.countBoot.keys = s.keys := rfl
@[simp] theorem State.countBoot_cred : s.countBoot.cred = s.cred := rfl
@[simp] theorem State.countBoot_presence : s.countBoot.presence = s.presence := rfl
@[simp] theorem State.countBoot_log : s.countBoot.log = s.log := rfl
@[simp] theorem State.countBoot_events : s.countBoot.events = s.events := rfl
@[simp] theorem State.countBoot_fuses : s.countBoot.fuses = s.fuses := rfl
@[simp] theorem State.countBoot_records :
    s.countBoot.records = { s.records with waiting := requestIn s.records.waiting .counters ⟨.block, .asIs⟩ } := rfl
@[simp] theorem State.countBoot_config : s.countBoot.config = s.config := rfl
@[simp] theorem State.countBoot_cert : s.countBoot.cert = s.cert := rfl
@[simp] theorem State.countBoot_supply : s.countBoot.supply = s.supply := rfl
@[simp] theorem State.countBoot_timers : s.countBoot.timers = s.timers := rfl
@[simp] theorem State.countBoot_aperture : s.countBoot.aperture = s.aperture := rfl
@[simp] theorem State.countBoot_engine : s.countBoot.engine = s.engine := rfl
@[simp] theorem State.countBoot_flow : s.countBoot.flow = s.flow := rfl
@[simp] theorem State.countBoot_resetIn : s.countBoot.resetIn = s.resetIn := rfl
@[simp] theorem State.countBoot_draws : s.countBoot.draws = s.draws := rfl
@[simp] theorem State.countBoot_out : s.countBoot.out = s.out := rfl

/-! ### The slots -/

@[simp] theorem SlotTable.get_put_same (t : SlotTable) (x : SlotId) (r : SlotRec) :
    (t.put x r).get x = r := by cases x <;> rfl
@[simp] theorem SlotTable.get_put_other (t : SlotTable) (x : SlotId) (r : SlotRec) :
    (t.put x r).get x.other = t.get x.other := by cases x <;> rfl
@[simp] theorem SlotTable.put_pendingFloor (t : SlotTable) (x : SlotId) (r : SlotRec) :
    (t.put x r).pendingFloor = t.pendingFloor := by cases x <;> rfl
@[simp] theorem SlotTable.put_pendingRevoke (t : SlotTable) (x : SlotId) (r : SlotRec) :
    (t.put x r).pendingRevoke = t.pendingRevoke := by cases x <;> rfl
@[simp] theorem SlotTable.put_deferral (t : SlotTable) (x : SlotId) (r : SlotRec) :
    (t.put x r).deferral = t.deferral := by cases x <;> rfl
@[simp] theorem SlotTable.put_bootCounter (t : SlotTable) (x : SlotId) (r : SlotRec) :
    (t.put x r).bootCounter = t.bootCounter := by cases x <;> rfl
@[simp] theorem SlotTable.put_lastReason (t : SlotTable) (x : SlotId) (r : SlotRec) :
    (t.put x r).lastReason = t.lastReason := by cases x <;> rfl
@[simp] theorem SlotId.other_other (x : SlotId) : x.other.other = x := by cases x <;> rfl

end Sys2Proof.Machine
end

