-- ==== Sys2Proof/Laws/Service.lean ====
section
/-! SUPPORT. What a service command's row does up to the command itself: a quiet part's arbiter does
nothing, a ready part takes the frame, and a refusal or an end at once is an answer. -/

namespace Sys2Proof.Machine

/-- An idle engine with nothing waiting stays as it is (R68). -/
theorem State.arbitrate_quiet {s : State} (h : s.Quiet) : s.arbitrate = s := by
  unfold State.arbitrate
  split
  · next he => obtain ⟨h1, h2, h3⟩ := h he; simp [h1, h2, h3]
  · rfl
  · rfl

/-- The arbiter leaves a quiet part as it is (R68). -/
theorem State.settled_quiet {s : State} (h : s.Quiet) : s.settled = s := by
  simp [State.settled, State.arbitrate_quiet h]

/-- A ready part is quiet. -/
theorem State.Ready.quiet {s : State} (h : s.Ready) : s.Quiet :=
  fun _ => ⟨h.2.2.2.1, h.2.2.2.2.1, h.2.2.2.2.2⟩

/-- A working engine is quiet. -/
theorem State.quiet_of_busy {s : State} (h : s.engine.state ≠ .idle) : s.Quiet :=
  fun he => absurd he h

/-- What `perform` answers on a powered part when the body leaves it quiet. -/
theorem State.perform_quiet {s : State} {body : State → State} (hp : s.powered = true)
    (hq : (body s.clearOut).Quiet) : s.perform body = .next (body s.clearOut) := by
  simp [State.perform, hp, State.settled_quiet hq]

/-- What `perform` answers on a powered part, once the body's result is known to be quiet. -/
theorem State.perform_event {s t : State} {body : State → State} (hp : s.powered = true)
    (hb : body s.clearOut = t) (hq : t.Quiet) : s.perform body = .next t := by
  subst hb
  exact State.perform_quiet hp hq

/-- On a ready part a request frame is taken at once (R66). -/
theorem State.submit_ready {s : State} (h : s.Ready) (code : Byte) (r : Request)
    (hf : r.fits = true) :
    s.clearOut.submit code r = dispatch (requestFrame code r) (s.taken code r) := by
  obtain ⟨_, hs, he, _⟩ := h
  have hl : r.params.length ≤ paramsMax := by
    simpa [Request.fits, paramsMax, Config.requestSize] using hf
  simp [State.submit, hs, hl, State.dispose, he]
  rfl

/-- A taken frame's end is an answer (R67). -/
theorem State.taken_endCommand (s : State) (code : Byte) (r : Request) (a : Reply) :
    (s.taken code r).endCommand a = s.answered code r a := rfl

/-- A taken frame that leaves the engine at work has started. -/
theorem State.taken_work (s : State) (code : Byte) (r : Request) (w : CmdWork) :
    (s.taken code r).work w = s.started code r w := rfl

/-- The row of a service command on a ready part, once the command is known to leave it quiet. -/
theorem State.perform_service {s : State} (h : s.Ready) (code : Byte) (r : Request)
    (hf : r.fits = true) {t : State} (hd : dispatch (requestFrame code r) (s.taken code r) = t)
    (hq : t.Quiet) : s.perform (fun u => u.submit code r) = .next t := by
  have hb : s.clearOut.submit code r = t := (s.submit_ready h code r hf).trans hd
  rw [State.perform_quiet h.1 (by rw [hb]; exact hq), hb]

/-- An answered part is quiet (R68). -/
theorem State.answered_quiet {s : State} (h : s.Ready) (code : Byte) (r : Request) (a : Reply) :
    (s.answered code r a).Quiet := fun _ => ⟨h.2.2.2.1, h.2.2.2.2.1, h.2.2.2.2.2⟩

/-- A started command keeps the part quiet (R68). -/
theorem State.started_quiet (s : State) (code : Byte) (r : Request) (w : CmdWork) :
    (s.started code r w).Quiet := fun h => by simp [State.started] at h

/-- Every service row submits its frame; nothing else of the row differs (R61, R62, R66). -/
theorem exec_service_row {i : Instr} {code : Byte} {r : Request}
    (h : serviceRow i = some (code, r)) (s : State) :
    exec i s = s.perform fun t => t.submit code r := by
  cases i <;> simp only [serviceRow, Option.some.injEq, Prod.mk.injEq, reduceCtorEq] at h <;>
    (obtain ⟨rfl, rfl⟩ := h; rfl)

/-! ### What a taken frame leaves of the state -/

section
variable (s : State) (code : Byte) (r : Request)
@[simp] theorem State.taken_powered : (s.taken code r).powered = s.powered := (rfl)
@[simp] theorem State.taken_stage : (s.taken code r).stage = s.stage := (rfl)
@[simp] theorem State.taken_filter : (s.taken code r).filter = s.filter := (rfl)
@[simp] theorem State.taken_slots : (s.taken code r).slots = s.slots := (rfl)
@[simp] theorem State.taken_keys : (s.taken code r).keys = s.keys := (rfl)
@[simp] theorem State.taken_cred : (s.taken code r).cred = s.cred := (rfl)
@[simp] theorem State.taken_log : (s.taken code r).log = s.log := (rfl)
@[simp] theorem State.taken_events : (s.taken code r).events = s.events := (rfl)
@[simp] theorem State.taken_fuses : (s.taken code r).fuses = s.fuses := (rfl)
@[simp] theorem State.taken_records : (s.taken code r).records = s.records := (rfl)
@[simp] theorem State.taken_cert : (s.taken code r).cert = s.cert := (rfl)
@[simp] theorem State.taken_supply : (s.taken code r).supply = s.supply := (rfl)
@[simp] theorem State.taken_timers : (s.taken code r).timers = s.timers := (rfl)
@[simp] theorem State.taken_presence : (s.taken code r).presence = s.presence := (rfl)
@[simp] theorem State.taken_down : (s.taken code r).down = s.down := (rfl)
@[simp] theorem State.taken_engine : (s.taken code r).engine = s.engine := (rfl)
@[simp] theorem State.taken_slot (x : SlotId) : (s.taken code r).slot x = s.slot x := (rfl)
@[simp] theorem State.taken_life : (s.taken code r).life = s.life := (rfl)
@[simp] theorem requestFrame_params : (requestFrame code r).params = r.params := (rfl)
@[simp] theorem requestFrame_reserved : (requestFrame code r).reserved = r.reserved := (rfl)
@[simp] theorem requestFrame_code : (requestFrame code r).code = code := (rfl)
end

/-! ### Gating -/

/-- The first check that fails is the first refusal of the list (R72). -/
theorem firstFailing_eq (cs : List Check) : firstFailing cs = firstRefusal cs := by
  induction cs with
  | nil => rfl
  | cons c cs ih => simp only [firstFailing, firstRefusal, ih]

/-- What gating can do: the first failing check ends the command, else the command acts (R72). -/
theorem State.gated_cases (s : State) (f : Frame) (only : Option Lifecycle) (cond : Cond)
    (reservedOk : Bool) (params state : List Check) (supply : Bool) (act : State → State) :
    (∃ a, s.gated f only cond reservedOk params state supply act = s.endCommand a) ∨
      s.gated f only cond reservedOk params state supply act = act s := by
  unfold State.gated
  split
  · exact .inl ⟨_, rfl⟩
  · exact .inr rfl

/-- A check that passes is no refusal (R72). -/
@[simp] theorem firstRefusal_true (a : Reply) (cs : List (Bool × Reply)) :
    firstRefusal ((true, a) :: cs) = firstRefusal cs := rfl

/-- A check that fails refuses (R72). -/
@[simp] theorem firstRefusal_false (a : Reply) (cs : List (Bool × Reply)) :
    firstRefusal ((false, a) :: cs) = some a := rfl

/-- No check, no refusal (R72). -/
@[simp] theorem firstRefusal_nil : firstRefusal [] = none := rfl

/-- The gating of a taken frame: the first refusal answers, else the command acts (R67, R72). -/
theorem State.gated_taken (s : State) (code : Byte) (r : Request) (only : Option Lifecycle)
    (cond : Cond) (reservedOk : Bool) (params state : List Check) (supply : Bool)
    (act : State → State) :
    (s.taken code r).gated (requestFrame code r) only cond reservedOk params state supply act =
      match firstRefusal ([lifecycleCheck s only, (cond.holds s.stage, .detailed .stageDenied 0),
          (decide (r.reserved = 0) && reservedOk, Reply.reservedField)] ++ params ++ state ++
          [(!supply || s.supply.normal, Reply.plain .supplyLow)]) with
        | some refusal => s.answered code r refusal
        | none => act (s.taken code r) := by
  rw [State.gated, firstFailing_eq]
  rfl

/-- ALWAYS holds at every stage (R6). -/
@[simp] theorem Cond.always_holds (st : Stage) : Cond.always.holds st = true := by
  cases st with
  | num n => revert n; decide
  | unset => decide

end Sys2Proof.Machine
end

