-- ==== Sys2Proof/Laws/Operations.lean ====
section
/-! SUPPORT. One lemma for each shared operation: everything it can do, said once, so that a proof cites it
and does not unfold the operation. -/

namespace Sys2Proof.Machine

/-! ### The supply wait (R71) -/

/-- Nothing is observed without an abort request (R71). -/
theorem State.observeAbort_of_not_requested {s : State} (h : s.engine.abortRequest = false) :
    s.observeAbort = s := by
  unfold State.observeAbort
  split <;> simp [h]

/-- Nothing is observed while the engine is idle (R71). -/
theorem State.observeAbort_of_idle {s : State} (h : s.engine.state = .idle) : s.observeAbort = s := by
  simp [State.observeAbort, h]

/-- The command's own requests leave the list (R124, R135). -/
theorem mapRequesters_command (l : List Entry) :
    mapRequesters (fun r => if r.who = .command then none else some r) l = withoutCommand l := by
  unfold mapRequesters withoutCommand
  congr 1
  funext e
  have h : e.requesters.filterMap (fun r => if r.who = .command then none else some r) =
      e.requesters.filter (fun q => decide (q.who ≠ .command)) := by
    induction e.requesters with
    | nil => rfl
    | cons a l ih => by_cases h : a.who = .command <;> simp [h, ih]
  cases g : e.requesters.filter (fun q => decide (q.who ≠ .command)) <;> simp only [h, g]

/-- Withdrawing the command's requests (R124, R135). -/
theorem State.withdrawCommand_eq (s : State) : s.withdrawCommand =
    { s with records := { s.records with waiting := withoutCommand s.records.waiting } } := by
  simp only [State.withdrawCommand, mapRequesters_command]

/-! ### The waiting list (R124) -/

/-- A record that does not wait is added at the tail (R124). -/
theorem requestIn_tail {l : List Entry} {rec : RecordId} (r : Requester)
    (h : ∀ e ∈ l, e.record ≠ rec) : requestIn l rec r = l ++ [⟨rec, [r]⟩] := by
  induction l with
  | nil => rfl
  | cons e es ih =>
    simp only [requestIn]
    rw [if_neg (h e (by simp)), ih (fun x hx => h x (by simp [hx]))]
    rfl

/-- A request for a record that waits joins its first entry (R124). -/
theorem requestIn_joins {before : List Entry} {e : Entry} {behind : List Entry} {rec : RecordId}
    (r : Requester) (he : e.record = rec) (h : ∀ d ∈ before, d.record ≠ rec) :
    requestIn (before ++ e :: behind) rec r = before ++ e.join r :: behind := by
  induction before with
  | nil => simp [requestIn, he]
  | cons d ds ih =>
    simp only [List.cons_append, requestIn]
    rw [if_neg (h d (by simp)), ih (fun x hx => h x (by simp [hx]))]

/-- Joining never empties a set of requesters (R124). -/
theorem Entry.join_requesters_ne_nil {e : Entry} (r : Requester) (h : e.requesters ≠ []) :
    (e.join r).requesters ≠ [] := by
  unfold Entry.join
  split
  · simp
  · split
    · exact h
    · simp

/-- Joining keeps the record (R124). -/
@[simp] theorem Entry.join_record (e : Entry) (r : Requester) : (e.join r).record = e.record := by
  unfold Entry.join
  split
  · rfl
  · split <;> rfl

/-- Whoever is in a set of requesters is told (R125). -/
theorem involves_of_mem {rs : List Requester} {who : Who} (h : ∃ q ∈ rs, q.who = who) :
    involves rs who = true := by
  simpa [involves] using h

/-- Whoever is not in it is not (R125). -/
theorem involves_of_not_mem {rs : List Requester} {who : Who} (h : ∀ q ∈ rs, q.who ≠ who) :
    involves rs who = false := by
  simpa [involves] using h

/-- Without an UPDATE_CONFIRM in the set the pending values are the working copy's (R125). -/
theorem pendingOf_of_no_confirm (rs : List Requester) (floor : Nat) (revoke : BitVec 2)
    (h : ∀ q ∈ rs, ∀ f v, q.change ≠ .confirm f v) : pendingOf rs floor revoke = (floor, revoke) := by
  induction rs with
  | nil => rfl
  | cons q qs ih =>
    have h1 := h q (by simp)
    have h2 := ih (fun x hx => h x (by simp [hx]))
    unfold pendingOf
    cases hq : q.change <;> simp_all

/-- With an UPDATE_CONFIRM in the set the pending values are those it carries (R110, R125). -/
theorem pendingOf_of_confirm {rs : List Requester} {floor : Nat} {rv : BitVec 2} (f : Nat) (v : BitVec 2)
    (h : ∃ q ∈ rs, q.change = .confirm floor rv)
    (h1 : ∀ q ∈ rs, ∀ f v, q.change = .confirm f v → f = floor ∧ v = rv) :
    pendingOf rs f v = (floor, rv) := by
  induction rs with
  | nil => simp at h
  | cons q qs ih =>
    unfold pendingOf
    cases hq : q.change with
    | confirm a b =>
      obtain ⟨rfl, rfl⟩ := h1 q (by simp) a b hq
      rfl
    | _ =>
      obtain ⟨p, hp, e⟩ := h
      refine ih ⟨p, ?_, e⟩ fun x hx => h1 x (by simp [hx])
      rcases List.mem_cons.1 hp with rfl | hp
      · rw [hq] at e; cases e
      · exact hp

/-- A completion without an UPDATE_CONFIRM in the set: the store takes the content, the write is over, and
the requesters are told (R125). -/
theorem State.recordComplete_of_no_confirm {s : State} {w : Writing}
    (hw : s.records.writing = some w) (hno : ∀ q ∈ w.requesters, ∀ f v, q.change ≠ .confirm f v) :
    s.recordComplete = (State.tell { s with records := { s.records with
      store := s.records.store.put w.record w.content, writing := none } } w.record
        w.requesters).observeAbort := by
  simp only [State.recordComplete, hw, State.completeWrite, State.takePending]
  rw [pendingOf_of_no_confirm _ _ _ hno]

/-- The same with a command of the set in progress: the command is told (R125). -/
theorem State.recordComplete_tells_command {s : State} {w : Writing} {work : CmdWork}
    (hw : s.records.writing = some w) (hno : ∀ q ∈ w.requesters, ∀ f v, q.change ≠ .confirm f v)
    (hq : ∃ q ∈ w.requesters, q.who = .command) (he : s.engine.state = .command work) :
    s.recordComplete = (State.tellCommand { s with records := { s.records with
      store := s.records.store.put w.record w.content, writing := none } } w.record
        work).observeAbort := by
  rw [State.recordComplete_of_no_confirm hw hno]
  simp only [State.tell, he, involves_of_mem hq, if_true]

/-! ### The flash path -/

/-- A preempted chunk waits with what it has (R32). -/
theorem Chunk.preempted_eq (c : Chunk) :
    c.preempted = { c with st := if c.st = .inFlight then .waiting else c.st } := by
  rcases c with ⟨a, b, g, st⟩
  cases st <;> rfl

/-- What the port's release can do (R30, R32). -/
theorem State.freePort_eq (s : State) : s.freePort =
    if s.down.chunk.st = .waiting then
      { s with
        out := { s.out with toFlash := s.out.toFlash ++
          [.readFrom (s.down.chunk.start + s.down.chunk.got.length)] }
        down := { s.down with
          port := .carryingChunk, chunk := { s.down.chunk with st := .inFlight } } }
    else { s with down := { s.down with port := .idle } } := by
  unfold State.freePort
  cases hc : s.down.chunk.st <;> simp [State.setPort, State.toFlash]

/-- A page image from a position on: what stands there and behind it, then what stands before it (R18). -/
theorem imageFrom_append {start : Nat} {low high : List (Nat × Byte)} (hl : ∀ e ∈ low, e.1 < start)
    (hh : ∀ e ∈ high, start ≤ e.1) : imageFrom start (low ++ high) = (high ++ low).map Prod.snd := by
  have h1 : low.filter (fun e => decide (start ≤ e.1)) = [] :=
    List.filter_eq_nil_iff.2 fun e he => by simpa using hl e he
  have h2 : high.filter (fun e => decide (start ≤ e.1)) = high :=
    List.filter_eq_self.2 fun e he => by simpa using hh e he
  have h3 : low.filter (fun e => decide (e.1 < start)) = low :=
    List.filter_eq_self.2 fun e he => by simpa using hl e he
  have h4 : high.filter (fun e => decide (e.1 < start)) = [] :=
    List.filter_eq_nil_iff.2 fun e he => by simpa using hh e he
  simp [imageFrom, List.filter_append, h1, h2, h3, h4]

/-- A byte of a READ that needs no flash and no aperture is 0xFF (R19, R23, R38). -/
theorem State.readByte_fill (s : State) (r : OpenRead) (flash : List Byte)
    (h : r.snap.stage = .s0 ∨
      (r.snap.geo.inAperture (r.snap.geo.logical (r.addr + r.sent)) = false ∧
        (r.snap.busy = true ∨
          translate r.snap.mode r.snap.geo (r.snap.geo.logical (r.addr + r.sent)) = none))) :
    s.readByte r flash = s.sendFill r flash 0xff := by
  simp only [State.readByte]
  rcases h with h | ⟨h1, h2⟩
  · simp [h]
  · split
    · rfl
    · simp only [h1, Bool.false_eq_true, if_false]
      split
      · rfl
      · next hb =>
        rcases h2 with h2 | h2
        · exact absurd h2 hb
        · rw [h2]

/-- Where a search for a denied byte ends: past every byte, or at the first denied one (R40, R49). -/
theorem firstDeniedFrom_eq (p : Snapshot) (phys : Nat) (covers : Nat → Bool) (n : Nat) : ∀ k,
    ((∀ i, k ≤ i → i < k + n → covers i = true → p.judge .write (phys + i) = none) →
      firstDeniedFrom p phys covers n k = none) ∧
    ∀ i d f, k ≤ i → i < k + n → covers i = true → p.judge .write (phys + i) = some (f, d) →
      (∀ j, k ≤ j → j < i → covers j = true → p.judge .write (phys + j) = none) →
      firstDeniedFrom p phys covers n k = some (i, d) := by
  induction n with
  | zero => exact fun k => ⟨fun _ => rfl, fun i d f h1 h2 => by omega⟩
  | succ n ih =>
    intro k
    obtain ⟨h1, h2⟩ := ih (k + 1)
    refine ⟨fun h => ?_, fun i d f hk hn hc hj hb => ?_⟩
    · have hn := h1 (fun i ha hb => h i (by omega) (by omega))
      simp only [firstDeniedFrom]
      split
      · next hc => rw [h k (by omega) (by omega) hc]; exact hn
      · exact hn
    · simp only [firstDeniedFrom]
      by_cases hi : i = k
      · subst hi
        rw [if_pos hc, hj]
      · have hn := h2 i d f (by omega) (by omega) hc hj (fun j a b => hb j (by omega) b)
        split
        · next hc => rw [hb k (by omega) (by omega) hc]; exact hn
        · exact hn

/-- A forwarded write makes an EMPTY, VERIFIED, SPARE or FAILED slot STAGED (R51). -/
theorem State.stageSlot_stages {s : State} {m : Mode} {g : Geometry} {phys : Nat} {x : SlotId}
    (hm : m ≠ .passthrough) (hx : slotOfPhys g phys = some x)
    (hst : (s.slot x).state = .empty ∨ (s.slot x).state = .verified ∨ (s.slot x).state = .spare ∨
      (s.slot x).state = .failed) :
    s.stageSlot m g phys = s.changeSlot x SlotRec.staged := by
  unfold State.stageSlot
  split
  · exact absurd rfl hm
  · rw [hx]
    simp only
    rcases hst with h | h | h | h <;> rw [h]

/-- It leaves any other slot, and a place outside the slots, as it is (R51). -/
theorem State.stageSlot_keeps {s : State} (m : Mode) {g : Geometry} {phys : Nat}
    (hst : ∀ x, slotOfPhys g phys = some x → (s.slot x).state = .staged ∨
      (s.slot x).state = .verifying ∨ (s.slot x).state = .armed ∨ (s.slot x).state = .trial ∨
      (s.slot x).state = .active) : s.stageSlot m g phys = s := by
  unfold State.stageSlot
  split
  · rfl
  · split
    · next x hx =>
      rcases hst x hx with h | h | h | h | h <;> rw [h]
    · rfl

/-! ### The aperture -/

/-- A program in the request area is a frame program (R61). -/
theorem State.programUnit_frame (s : State) (p : Snapshot) (a : Nat) (data : List Byte)
    (h1 : p.geo.inAperture (p.geo.logical a) = true)
    (h2 : p.geo.logical a - p.geo.apBase < Config.responseBase) :
    s.programUnit p a data = s.frameProgram (p.geo.logical a - p.geo.apBase) data := by
  unfold State.programUnit
  simp only [h1, h2, if_true]

/-- A program elsewhere in the aperture is stray (R60). -/
theorem State.programUnit_stray (s : State) (p : Snapshot) (a : Nat) (data : List Byte)
    (h1 : p.geo.inAperture (p.geo.logical a) = true)
    (h2 : ¬ p.geo.logical a - p.geo.apBase < Config.responseBase) :
    s.programUnit p a data = s.strayWrite p (p.geo.logical a) := by
  unfold State.programUnit
  simp only [h1, h2, if_true, if_false]

/-- A bad frame while a frame is QUEUED or RUNNING is counted (R63, R66). -/
theorem State.frameBad_refused (s : State) (d c t : Byte)
    (h : ¬ (s.aperture.resp.state = .empty ∨ s.aperture.resp.state = .done)) :
    s.frameBad d c t = s.refuseFrame := by
  unfold State.frameBad
  split <;> simp_all

/-- Else it is reported (R63, R65). -/
theorem State.frameBad_reported (s : State) (d c t : Byte)
    (h : s.aperture.resp.state = .empty ∨ s.aperture.resp.state = .done) :
    s.frameBad d c t = State.raise (s.setResponse { Response.empty with
      state := .done, code := c, tag := t, result := .frameBad, detail := d
      previousUnread := s.aperture.resp.lost, unread := true }) .serviceDone := by
  unfold State.frameBad
  split <;> simp_all

/-! ### Burns -/

/-- With nothing waiting the queue's turn changes nothing (R119). -/
theorem takeQueue_empty (s : State) (h : s.fuses.queue = []) :
    takeQueue s.fuses.queue s = (s, []) := by
  rcases s with ⟨_, _, _, _, _, _, _, _, _, _, _, _, _, ⟨_, _, _, _, queue⟩, _, _, _, _, _, _, _, _, _, _, _⟩
  simp only at h
  subst h
  rfl

/-- No revocation is due where each pending one is burned (R121). -/
theorem revokeDue_none (image : FuseRows) (pending : BitVec 2)
    (h : pending &&& ~~~ image.revoke = 0) : revokeDue image pending = none := by
  have all : ∀ r p : BitVec 2, p &&& ~~~ r = 0 →
      ([0, 1].find? fun i => p.getLsbD i && !r.getLsbD i) = none := by decide
  exact all _ _ h

/-- The burns with nothing due are finished (R111, R114). -/
theorem State.goOnBurns_nothing_due (s : State) (owner : BurnOwner)
    (h1 : s.slots.pendingFloor ≤ s.fuses.image.count)
    (h2 : s.slots.pendingRevoke &&& ~~~ s.fuses.image.revoke = 0) :
    s.goOnBurns owner BurnSeq.start = (s, .finished ⟨true, true, false⟩) := by
  unfold State.goOnBurns
  simp only [BurnSeq.start, nextBurn, Bool.false_eq_true, if_false]
  rw [if_pos h1]
  simp [nextRevoke, revokeDue_none _ _ h2]

/-- A COUNTER raise that is due goes on with the next bit at NORMAL and stops at LOW (R111, R120). -/
theorem State.goOnBurns_counter_due (s : State) (owner : BurnOwner)
    (h1 : s.fuses.image.count < s.slots.pendingFloor)
    (h2 : (s.fuses.image.set ⟨.counter, s.fuses.image.count⟩).count ≤ s.slots.pendingFloor) :
    s.goOnBurns owner BurnSeq.start =
      if s.supply.normal then
        ((s.requestBurn ⟨.counter, s.fuses.image.count⟩ owner).1, .busy BurnSeq.start)
      else (s, .stopped BurnSeq.start) := by
  unfold State.goOnBurns
  simp only [BurnSeq.start, nextBurn, Bool.false_eq_true, if_false]
  rw [if_neg (by omega), if_neg (by omega)]

/-- Burning a bit leaves every burned bit burned (R116). -/
theorem FuseRows.burned_set (f : FuseRows) (b c : FuseBit) (h : f.burned c = true) :
    (f.set b).burned c = true := by
  rcases b with ⟨_ | _ | _, i⟩ <;> rcases c with ⟨_ | _ | _, j⟩ <;>
    simp_all [FuseRows.burned, FuseRows.set]

/-! ### Time -/

/-- A tick of a channel that does not reach 0 (R11, R13). -/
theorem Channel.tick_still (period : Nat) (c : Channel) (h : c.due = false)
    (hr : c.state = .running → c.phase + 1 < period ∨ 1 < c.count) :
    c.tick period =
      if c.state = .running then
        if c.phase + 1 < period then { c with phase := c.phase + 1 }
        else { c with phase := 0, count := c.count - 1 }
      else c := by
  rcases c with ⟨count, phase, st, due⟩
  simp only at h
  subst h
  cases st <;> simp [Channel.tick] at *
  by_cases h1 : phase + 1 < period
  · simp [h1]
  · have h2 : ¬ count ≤ 1 := by omega
    simp [h1, h2]

/-- A cause of the supply is set pending outside S0 only (R131). -/
theorem State.raiseOutsideS0_eq (s : State) (c : Cause) : s.raiseOutsideS0 c =
    { s with events := { s.events with pending :=
      if s.stage = .s0 then s.events.pending else s.events.pending ||| c.mask } } := by
  unfold State.raiseOutsideS0
  split <;> rfl

/-- FACTORY is the LIFECYCLE row unburned (R117). -/
theorem State.life_factory_iff (s : State) : s.life = .factory ↔ s.fuses.image.lifecycle = 0 := by
  simp only [State.life, FuseRows.life]
  split <;> simp_all

/-! ### The log -/

/-- An append never passes 64 records (R148, R150). -/
theorem MeasLog.append_length (l : MeasLog) (kind : LogKind) (stage : Stage)
    (digest label : List Byte) (h : l.records.length ≤ 64) :
    (l.append kind stage digest label).records.length ≤ 64 := by
  unfold MeasLog.append MeasLog.outcome
  by_cases h1 : l.records.length < 63
  · simp [h1, MeasLog.push]
    omega
  · by_cases h2 : l.records.length = 63
    · simp [h2, MeasLog.push]
    · simp [h1, h2]
      exact h

end Sys2Proof.Machine
end

