-- ==== Sys2Proof/Laws/Flow.lean ====
section
/-! SUPPORT. What the shared operations of the boot flow, the burns and the owner reset do, each said once
in the terms of Safety.lean. -/

namespace Sys2Proof.Machine

/-! ### The owner reset -/

/-- The SET credentials and the PRESENT owner keys, in order (R176). -/
theorem State.wipeWrites_eq (s : State) : s.wipeWrites = s.wipeList := by
  have h1 : ∀ i : Fin 24, s.cred.creds[i].isSet = decide (s.cred.creds[i] ≠ .empty) := by
    intro i
    cases s.cred.creds[i] <;> simp [Cred.isSet]
  have h2 : (ownerSlots.filter fun i => s.keys[i].present) =
      (List.finRange 16).filter fun i => decide (4 ≤ i.val) && s.keys[i].present := by
    rw [ownerSlots, List.filter_filter]
    congr 1
    funext i
    exact Bool.and_comm _ _
  simp only [State.wipeWrites, State.wipeList, h1, h2]

/-- The gate closed (R163). -/
theorem State.closeGate_eq (s : State) : s.closeGate = { s with
    cred := { s.cred with gateOpen := false }
    timers := { s.timers with gate := s.timers.gate.stop }
    events := { s.events with pending :=
      if s.cred.gateOpen = true then s.events.pending ||| 64 else s.events.pending } } := by
  unfold State.closeGate
  split <;> rfl

/-- Phase 1 asked for and awaited, or phase 2 at once (R176). -/
theorem State.wipeNext_requestAll (v : State) (ws : List (RecordId × Change))
    (h : v.cred.wipeUnfinished = true) :
    (v.requestAll .job ws).wipeNext (ws.map Prod.fst) =
      if ws = [] then v.wipeCounting
      else
        let t := ws.foldl (fun u w => State.asks u w.1 .job w.2) v
        { t with engine := { t.engine with state := .job (.wipe (ws.map Prod.fst)) } } := by
  cases ws with
  | nil =>
    change v.wipeCounters = v.wipeCounting
    unfold State.wipeCounters
    rw [if_pos h]
    rfl
  | cons w ws =>
    rw [if_neg (show ¬ w :: ws = [] by simp)]
    rfl

/-- The start of the job is the wipe's start (R68, R176). -/
theorem State.startOwnerReset_eq (s : State) : s.startOwnerReset =
    State.wiping { s with engine := { s.engine with ownerResetPending := false } } := by
  unfold State.startOwnerReset
  simp only [State.closeGate_eq, State.wipeWrites_eq]
  exact State.wipeNext_requestAll _ _ rfl

/-- The wipe leaves the engine at its job (R176). -/
theorem State.wiping_busy (s : State) : s.wiping.engine.state ≠ .idle := by
  unfold State.wiping
  split
  · exact fun h => by cases h
  · exact fun h => by cases h

/-- An idle engine with OWNER_RESET pending starts it (R68). -/
theorem State.settled_ownerReset {s : State} (hi : s.engine.state = .idle)
    (hp : s.engine.ownerResetPending = true) : s.settled =
    State.wiping { s with engine := { s.engine with ownerResetPending := false } } := by
  have h1 : s.arbitrate = s.startOwnerReset := by
    simp only [State.arbitrate, hi, hp, if_true]
  have h2 := State.wiping_busy { s with engine := { s.engine with ownerResetPending := false } }
  rw [State.settled, h1, State.startOwnerReset_eq]
  simp only [State.arbitrate_quiet (State.quiet_of_busy h2)]

/-! ### The release -/

/-- penalty(f) in one formula (R164). -/
theorem penalty_eq (f : Nat) : penalty f =
    if 5 ≤ f ∧ f < 20 then min (30 * 2 ^ (f - 5)) 3600 else 0 := by
  unfold penalty
  split <;> split <;> first | rfl | omega

/-- PENALTY at the release (R11, R164). -/
theorem State.startPenalty_eq (s : State) : s.startPenalty = { s with
    timers := if 5 ≤ s.cred.failCount ∧ s.cred.failCount < 20 then
      { s.timers with
        penalty := ⟨min (30 * 2 ^ (s.cred.failCount - 5)) 3600, 0, .running, false⟩ }
      else s.timers } := by
  unfold State.startPenalty
  rw [penalty_eq]
  split
  · have hp : 0 < 2 ^ (s.cred.failCount - 5) := Nat.two_pow_pos _
    rw [if_neg (by omega)]
    rfl
  · rfl

/-- The release step itself (R96). -/
theorem State.release_eq (s : State) : s.release =
    if s.cred.wipeUnfinished then s.freed.requestJob .ownerReset else s.freed := by
  have hr : s.filter.mode.handedStage = if s.runs then .num 1 else .unset := by
    cases hm : s.filter.mode <;> simp [State.runs, hm, Mode.handedStage]
  unfold State.release
  simp only [State.startPenalty_eq, hr]
  rfl

/-- The release and what an idle engine then starts (R96, R177). -/
theorem State.release_settled {s : State} (hi : s.engine.state = .idle) (hw : s.NoWork) :
    s.release.settled = s.handedOver := by
  obtain ⟨h1, h2, h3⟩ := hw
  rw [State.release_eq, State.handedOver]
  split
  · rw [State.settled_ownerReset (s := s.freed.requestJob .ownerReset) hi rfl]
    have he : ({ s.engine with ownerResetPending := false } : Engine) = s.engine := by rw [← h1]
    simp only [State.requestJob]
    exact congrArg (fun e => State.wiping { s.freed with engine := e }) he
  · exact State.settled_quiet fun _ => ⟨h1, h2, h3⟩

/-! ### The boot flow -/

/-- A chunk asked for while the port is IDLE (R31). -/
theorem State.requestChunk_idle {s : State} (h : s.down.port = .idle) (start len : Nat) :
    s.requestChunk start len = s.reads start len := by
  unfold State.requestChunk
  rw [h]
  rfl

/-- RECOVERY entered with a loader to measure (R95). -/
theorem State.enterRecovery_eq {s : State} (hp : s.down.port = .idle)
    (hr : 0 < s.configGeo.recSize) : s.enterRecovery = s.entersRecovery := by
  unfold State.enterRecovery State.goOnLoader
  simp only
  rw [if_pos (show 0 < s.configOrDefault.geo.recSize from hr)]
  simp only [State.onLoader]
  rw [State.requestChunk_idle (by exact hp)]
  rfl

/-- The next candidate, or RECOVERY (R93). -/
theorem State.tryCandidates_eq {s : State} (hp : s.down.port = .idle)
    (hr : 0 < s.configGeo.recSize) (first : Bool) (l : List SlotId) :
    s.tryCandidates first l = s.tries first l := by
  cases l with
  | nil => exact State.enterRecovery_eq hp hr
  | cons x rest =>
    simp only [State.tryCandidates, State.startVerify]
    rw [State.requestChunk_idle (by exact hp)]
    cases x <;> rfl

/-- Step 6 (R92). -/
theorem State.failTrial_eq (s : State) (x : SlotId) : s.failTrial x =
    if (s.slot x).state = .trial then
      s.slotBecomes x ⟨.failed, .failed, .trialUnconfirmed, (s.slot x).summary⟩ else s := rfl

/-- Steps 6 to 8 (R92, R93). -/
theorem State.selectSlot_eq {s : State} (hp : s.down.port = .idle)
    (hr : 0 < s.configGeo.recSize) : s.selectSlot = s.selects := by
  have hd : ∀ (t : State) (x : SlotId), (t.failTrial x).down = t.down ∧
      (t.failTrial x).config = t.config := by
    intro t x
    rw [State.failTrial_eq]
    split <;> exact ⟨rfl, rfl⟩
  unfold State.selectSlot
  rw [State.tryCandidates_eq]
  · rfl
  · rw [(hd _ _).1, (hd _ _).1]
    exact hp
  · simp only [State.configGeo, (hd _ _).2]
    exact hr

/-- The booted slot's record (R94). -/
theorem State.bootSlot_eq (s : State) (x : SlotId) (m : Summary) :
    s.bootSlot x m = s.slotBoots x m := by
  have hs : ({ s.slot x with summary := some m } = s.slot x) ↔ (s.slot x).summary = some m := by
    constructor
    · intro h
      rw [← h]
    · intro h
      rw [← h]
  unfold State.bootSlot State.slotBoots
  split
  · simp only [hs]
    rfl
  · rfl

/-- What the booted slot's record leaves (R94). -/
theorem State.slotBoots_keeps (s : State) (x : SlotId) (m : Summary) :
    (s.slotBoots x m).engine = s.engine ∧ (s.slotBoots x m).aperture = s.aperture ∧
      (s.slotBoots x m).config = s.config ∧ (s.slotBoots x m).ve = s.ve ∧
      (s.slotBoots x m).partInput = s.partInput := by
  unfold State.slotBoots
  split
  · split <;> exact ⟨rfl, rfl, rfl, rfl, rfl⟩
  · exact ⟨rfl, rfl, rfl, rfl, rfl⟩

/-- The load step and the release (R94, R96). -/
theorem State.bootVerified_settled {s : State} (hi : s.engine.state = .idle) (hw : s.NoWork)
    (x : SlotId) (m : Summary) (first : Bool) :
    (s.bootVerified x m first).settled = s.boots x m first := by
  obtain ⟨h1, h2, h3, h4, h5⟩ := s.slotBoots_keeps x m
  unfold State.bootVerified State.boots
  simp only [State.bootSlot_eq]
  generalize s.slotBoots x m = t at *
  have hp : ∀ f, State.partInput { t with filter := f } = s.partInput := fun _ => h5
  have hv : manifestTable t.ve.manifest = manifestTable s.ve.manifest := by rw [h4]
  have hg : t.configOrDefault.geo = s.configGeo := by
    simp only [State.configGeo, ← h3]
    rfl
  have hm : x.mode = if x = .a then .runA else .runB := by cases x <;> rfl
  have hl : x.label = [if x = .a then 0x41 else 0x42] := by cases x <;> rfl
  rw [State.release_settled]
  · congr 1
    simp only [State.logPart, hp, hg, hv, hm, hl]
    cases first <;> rfl
  · cases first <;> exact (congrArg Engine.state h1).trans hi
  · obtain ⟨w1, w2, w3⟩ := hw
    cases first <;> exact ⟨(congrArg _ h1).trans w1, (congrArg _ h1).trans w2, (congrArg _ h2).trans w3⟩

/-- A candidate's verification has ended (R93, R94). -/
theorem State.candidateEnded_settled {s : State} (hi : s.engine.state = .idle) (hw : s.NoWork)
    (hp : s.down.port = .idle) (hr : 0 < s.configGeo.recSize) (x : SlotId) (rest : List SlotId)
    (first : Bool) (o : VerifyOutcome) : (s.candidateEnded x rest first o).settled =
      match o with
      | .pass m => s.boots x m first
      | .fail why => (s.slotBecomes x ⟨.failed, .failed, why, none⟩).tries false rest := by
  cases o with
  | pass m => exact State.bootVerified_settled hi hw x m first
  | fail why =>
    obtain ⟨w1, w2, w3⟩ := hw
    have h : s.candidateEnded x rest first (.fail why) =
        (s.slotBecomes x ⟨.failed, .failed, why, none⟩).tries false rest :=
      State.tryCandidates_eq (s := s.changeSlot x (SlotRec.failDrop why)) hp hr false rest
    rw [h]
    refine State.settled_quiet fun _ => ?_
    cases rest <;> exact ⟨w1, w2, w3⟩

/-- RECOVERY measured (R95, R96). -/
theorem State.finishRecovery_settled {s : State} (hi : s.engine.state = .idle) (hw : s.NoWork)
    (digest : List Byte) : (s.finishRecovery digest).settled = s.leavesRecovery digest := by
  unfold State.finishRecovery
  rw [State.release_settled (by exact hi) (by exact hw)]
  rfl

/-! ### The burns -/

/-- The bit at the count is not burned (R117). -/
theorem thermometer_next (v : BitVec 64) : v.getLsbD (thermometer v) = false := by
  have hw : ∀ (p : Nat → Bool) (n k : Nat),
      p (k + (((List.range' k n).takeWhile p).length)) = false ∨
        ((List.range' k n).takeWhile p).length = n := by
    intro p n
    induction n with
    | zero => exact fun k => .inr rfl
    | succ n ih =>
      intro k
      rw [List.range'_succ, List.takeWhile_cons]
      by_cases hk : p k = true
      · rw [if_pos hk, List.length_cons]
        rcases ih (k + 1) with h | h
        · left
          have e : k + (((List.range' (k + 1) n).takeWhile p).length + 1) =
            k + 1 + ((List.range' (k + 1) n).takeWhile p).length := by omega
          rw [e, h]
        · right
          rw [h]
      · rw [if_neg hk]
        left
        simpa using hk
  rcases hw (fun i => v.getLsbD i) 64 0 with h | h
  · simpa [thermometer, List.range_eq_range'] using h
  · have e : thermometer v = 64 := by simpa [thermometer, List.range_eq_range'] using h
    rw [e]
    exact BitVec.getLsbD_of_ge _ _ (Nat.le_refl _)

/-- The next bit to burn is not burned (R120, R121). -/
theorem State.nextBit_unburned {s : State} {q p : BurnSeq} {b : FuseBit}
    (h : s.nextBit q = (some b, p)) : s.fuses.image.burned b = false := by
  unfold State.nextBit at h
  simp only at h
  split at h
  · cases h
    exact thermometer_next _
  · split at h
    · next hd => cases h; exact hd.2.2
    · split at h
      · next hd => cases h; exact hd.2.2
      · cases h

/-- What the burns do next (R111, R120, R121). -/
theorem State.nextBurn_eq (s : State) (q : BurnSeq) :
    nextBurn s.fuses.image s.slots.pendingFloor s.slots.pendingRevoke q =
      match s.nextBit q with
      | (some b, p) => .bit b p
      | (none, p) => .finished p := by
  have hr : ∀ p : BurnSeq, p.revokeDone = q.revokeDone →
      nextRevoke s.fuses.image s.slots.pendingRevoke p =
        match (if q.revokeDone = false ∧ s.slots.pendingRevoke.getLsbD 0 = true ∧
              s.fuses.image.revoke.getLsbD 0 = false then (some ⟨.revoke, 0⟩, p)
          else if q.revokeDone = false ∧ s.slots.pendingRevoke.getLsbD 1 = true ∧
              s.fuses.image.revoke.getLsbD 1 = false then (some ⟨.revoke, 1⟩, p)
          else (none, { p with revokeDone := true }) : Option FuseBit × BurnSeq) with
        | (some b, p) => .bit b p
        | (none, p) => .finished p := by
    intro p hp
    unfold nextRevoke revokeDue
    rw [hp]
    rcases p with ⟨a, b, c⟩
    simp only at hp
    subst hp
    cases q.revokeDone <;>
      cases h0 : s.slots.pendingRevoke.getLsbD 0 <;> cases h1 : s.fuses.image.revoke.getLsbD 0 <;>
      cases h2 : s.slots.pendingRevoke.getLsbD 1 <;> cases h3 : s.fuses.image.revoke.getLsbD 1 <;>
      simp only [List.find?, h0, h1, h2, h3, Bool.and_true, Bool.and_false, Bool.not_true,
        Bool.not_false, reduceCtorEq, if_true, if_false, and_true, and_false]
  unfold nextBurn State.nextBit
  rcases q with ⟨a, b, c⟩
  cases a
  · by_cases h1 : s.fuses.image.count < s.slots.pendingFloor
    · by_cases h2 : (s.fuses.image.set ⟨.counter, s.fuses.image.count⟩).count ≤ s.slots.pendingFloor
      · simp [h1, h2, Nat.not_le.2 h1, Nat.not_lt.2 h2]
      · simp only [Bool.false_eq_true, if_false, Nat.not_le.2 h1, Nat.not_le.1 h2, if_true, h1, h2,
          true_and, and_false, not_false_eq_true, decide_true, Bool.or_true]
        exact hr _ rfl
    · simp only [Bool.false_eq_true, if_false, Nat.not_lt.1 h1, if_true, h1, and_false, false_and,
        decide_false, Bool.or_false]
      exact hr _ rfl
  · simp only [if_true, reduceCtorEq, false_and, if_false, decide_false, Bool.or_false]
    exact hr _ rfl

/-- The burns go on (R111, R114). -/
theorem State.goOnBurns_eq (s : State) (owner : BurnOwner) (q : BurnSeq) :
    s.goOnBurns owner q =
      match s.nextBit q with
      | (none, p) => (s, .finished p)
      | (some b, p) =>
        if s.supply.normal = true then (s.asksBurn b owner, .busy p) else (s, .stopped p) := by
  unfold State.goOnBurns
  rw [State.nextBurn_eq]
  rcases h : s.nextBit q with ⟨_ | b, p⟩
  · rfl
  · simp only [State.requestBurn, State.takeBurn, State.nextBit_unburned h, Bool.false_eq_true,
      if_false, State.asksBurn]
    split
    · next hn =>
      cases hb : s.fuses.burn with
      | none => rfl
      | some c => simp only
    · rfl

/-- What a requester of burns does with their status (R91, R111, R114). -/
def onBurns (owner : BurnOwner) (r : State × BurnStatus) : State :=
  match owner with
  | .command => State.onCommandBurns r
  | .job => State.onJobBurns r
  | .flow => State.onFlowBurns r
  | .orphan => r.1

/-- Waiting for a bit, whoever waits (R91, R111, R114). -/
theorem onBurns_busy {s : State} {owner : BurnOwner} (ho : owner = .command → s.out = ⟨[], []⟩)
    (q : BurnSeq) :
    onBurns owner (s, .busy q) = s.burnsWait owner q := by
  have hf : s.faultIf q = s.faulted q := rfl
  have hq : owner = .command → (s.faulted q).out = ⟨[], []⟩ := by
    intro h
    unfold State.faulted
    split <;> exact ho h
  cases owner with
  | command =>
    simp only [onBurns, State.onCommandBurns, State.burnsWait, hf, State.goesOn, ← hq rfl]
    rfl
  | job => rfl
  | flow => rfl
  | orphan => rfl

/-- The supply found LOW (R91, R111, R113, R114). -/
theorem onBurns_stopped {s : State} {owner : BurnOwner} (ho : owner = .command → s.out = ⟨[], []⟩)
    (q : BurnSeq) :
    onBurns owner (s, .stopped q) = s.burnsStop owner q := by
  have hf : s.faultIf q = s.faulted q := rfl
  have hq : owner = .command → (s.faulted q).out = ⟨[], []⟩ := by
    intro h
    unfold State.faulted
    split <;> exact ho h
  cases owner with
  | command =>
    simp only [onBurns, State.onCommandBurns, State.burnsStop, hf, State.finished, ← hq rfl]
    rfl
  | job => rfl
  | flow => rfl
  | orphan => rfl

/-- Nothing left to burn (R91, R111, R114). -/
theorem onBurns_finished {s : State} {owner : BurnOwner} (ho : owner = .command → s.out = ⟨[], []⟩)
    (q : BurnSeq)
    (hflow : owner = .flow → s.down.port = .idle ∧ 0 < s.configGeo.recSize) :
    onBurns owner (s, .finished q) = s.burnsDone owner q := by
  have hf : s.faultIf q = s.faulted q := rfl
  have hq : owner = .command → (s.faulted q).out = ⟨[], []⟩ := by
    intro h
    unfold State.faulted
    split <;> exact ho h
  cases owner with
  | command =>
    simp only [onBurns, State.onCommandBurns, State.burnsDone, hf, State.finished, ← hq rfl]
    rfl
  | job =>
    simp only [onBurns, State.onJobBurns, State.burnsDone]
    split <;> rfl
  | flow =>
    obtain ⟨h1, h2⟩ := hflow rfl
    have hs : (s.faulted q).selectSlot = (s.faulted q).selects := by
      apply State.selectSlot_eq
      · unfold State.faulted; split <;> exact h1
      · unfold State.faulted; split <;> exact h2
    exact hs
  | orphan => rfl

/-- The burns go on, and their requester with them (R91, R111, R114). -/
theorem onBurns_goOn {s : State} {owner : BurnOwner} (ho : owner = .command → s.out = ⟨[], []⟩)
    (q : BurnSeq) (hflow : owner = .flow → s.down.port = .idle ∧ 0 < s.configGeo.recSize) :
    onBurns owner (s.goOnBurns owner q) = s.burnsGoOn owner q := by
  rw [State.goOnBurns_eq, State.burnsGoOn]
  rcases s.nextBit q with ⟨_ | b, p⟩
  · exact onBurns_finished ho p hflow
  · simp only
    split
    · exact onBurns_busy (s := s.asksBurn b owner) ho p
    · exact onBurns_stopped ho p

/-- The burns leave no other work waiting (R68). -/
theorem State.burnsGoOn_quiet {s : State} (hw : s.NoWork) (owner : BurnOwner) (q : BurnSeq) :
    (s.burnsGoOn owner q).Quiet := by
  obtain ⟨h1, h2, h3⟩ := hw
  have hf : ∀ (t : State) (p : BurnSeq), (t.faulted p).engine = t.engine ∧
      (t.faulted p).aperture = t.aperture := by
    intro t p
    unfold State.faulted
    split <;> exact ⟨rfl, rfl⟩
  have hs : ∀ t : State, t.selects.engine = t.engine ∧ t.selects.aperture = t.aperture := by
    intro t
    have hb : ∀ (b : Bool) (l : List SlotId) (u : State), (u.tries b l).engine = u.engine ∧
        (u.tries b l).aperture = u.aperture := by
      intro b l u
      cases l <;> exact ⟨rfl, rfl⟩
    have hc : ∀ (u : State) (x : SlotId), (u.failTrial x).engine = u.engine ∧
        (u.failTrial x).aperture = u.aperture := by
      intro u x
      rw [State.failTrial_eq]
      split <;> exact ⟨rfl, rfl⟩
    have e := hb true (State.candidates ((t.failTrial .a).failTrial .b))
      ((t.failTrial .a).failTrial .b)
    rw [(hc _ _).1, (hc _ _).1, (hc _ _).2, (hc _ _).2] at e
    exact e
  intro he
  unfold State.burnsGoOn at he ⊢
  rcases s.nextBit q with ⟨_ | b, p⟩
  · cases owner
    · simp only [State.burnsDone, State.finished, (hf _ _).1, (hf _ _).2]
      exact ⟨h1, h2, h3⟩
    · exact ⟨h1, h2, h3⟩
    · simp only [State.burnsDone, (hs _).1, (hs _).2, (hf _ _).1, (hf _ _).2]
      exact ⟨h1, h2, h3⟩
    · exact ⟨h1, h2, h3⟩
  · simp only at he ⊢
    split
    · cases owner
      · simp only [State.burnsWait, State.goesOn, (hf _ _).1, (hf _ _).2]
        exact ⟨h1, h2, h3⟩
      · simp only [State.burnsWait, (hf _ _).1, (hf _ _).2]
        exact ⟨h1, h2, h3⟩
      · exact ⟨h1, h2, h3⟩
      · exact ⟨h1, h2, h3⟩
    · cases owner
      · simp only [State.burnsStop, State.finished, (hf _ _).1, (hf _ _).2]
        exact ⟨h1, h2, h3⟩
      · simp only [State.burnsStop, (hf _ _).1, (hf _ _).2]
        exact ⟨h1, h2, h3⟩
      · exact ⟨h1, h2, h3⟩
      · exact ⟨h1, h2, h3⟩

/-- After a bit of theirs (R111, R114, R119). -/
theorem onBurns_afterBurn {s : State} {owner : BurnOwner}
    (ho : owner = .command → s.out = ⟨[], []⟩) (q : BurnSeq) (row : FuseRow) (o : BurnOutcome)
    (hflow : owner = .flow → s.down.port = .idle ∧ 0 < s.configGeo.recSize) :
    onBurns owner (s.afterBurn owner q row o) = s.burnsAfter owner q row o := by
  cases o with
  | burned => exact onBurns_goOn ho q hflow
  | supplyStop => exact onBurns_stopped ho q
  | failed =>
    have hq : q.afterFail row = { q with
        counterDone := q.counterDone || decide (row = .counter)
        revokeDone := q.revokeDone || decide (row = .revoke)
        failed := true } := by
      rcases q with ⟨a, b, c⟩
      cases row <;> simp [BurnSeq.afterFail]
    simp only [State.afterBurn, hq]
    exact onBurns_goOn ho _ hflow

/-- Nothing else waits after them (R68). -/
theorem State.burnsAfter_quiet {s : State} (hw : s.NoWork) (owner : BurnOwner) (q : BurnSeq)
    (row : FuseRow) (o : BurnOutcome) : (s.burnsAfter owner q row o).Quiet := by
  cases o with
  | burned => exact State.burnsGoOn_quiet hw owner q
  | failed => exact State.burnsGoOn_quiet hw owner _
  | supplyStop =>
    obtain ⟨h1, h2, h3⟩ := hw
    intro he
    have hf : (s.faulted q).engine = s.engine ∧ (s.faulted q).aperture = s.aperture := by
      unfold State.faulted
      split <;> exact ⟨rfl, rfl⟩
    cases owner
    · simp only [State.burnsAfter, State.burnsStop, State.finished, hf.1, hf.2]
      exact ⟨h1, h2, h3⟩
    · simp only [State.burnsAfter, State.burnsStop, hf.1, hf.2]
      exact ⟨h1, h2, h3⟩
    · exact ⟨h1, h2, h3⟩
    · exact ⟨h1, h2, h3⟩

/-- PROV_DEPLOY's phase 2 (R146). -/
theorem State.deployBurned_eq {s : State} (ho : s.out = ⟨[], []⟩) (bit : Nat) :
    s.deployBurned bit = s.deployStages bit := by
  simp only [State.deployStages, State.goesOn, ← ho]
  rfl

/-- PROV_DEPLOY's next bit (R122, R146). -/
theorem State.onDeployBurn_eq {s : State} (ho : s.out = ⟨[], []⟩) (hb : s.fuses.burn = none)
    (bit : Nat) (o : BurnOutcome) : s.onDeployBurn bit o = s.deployAfter bit o := by
  cases o with
  | burned => exact State.deployBurned_eq ho bit
  | supplyStop =>
    simp only [State.onDeployBurn, State.deployAfter, State.goesOn, ← ho]
    rfl
  | failed =>
    simp only [State.onDeployBurn, State.deployAfter]
    split
    · simp only [State.deployTry, State.requestBurn, hb, State.takeBurn]
      by_cases h1 : s.fuses.image.burned ⟨.lifecycle, bit + 1⟩ = true
      · simp only [h1, if_true]
        exact State.deployBurned_eq ho _
      · by_cases h2 : s.supply.normal = true
        · simp only [h1, h2, if_true, State.goesOn, State.asksBurn, hb, ← ho]
          rfl
        · simp only [h1, h2, State.goesOn, ← ho]
          rfl
    · simp only [State.finished, ← ho]
      rfl

/-- A bit burn's outcome goes to its requester (R119). -/
theorem State.burnEnded_eq {s : State} {owner : BurnOwner}
    (ho : owner = .command → s.out = ⟨[], []⟩) (hb : s.fuses.burn = none) (target : FuseBit) (o : BurnOutcome)
    (hflow : owner = .flow → s.down.port = .idle ∧ 0 < s.configGeo.recSize) :
    s.burnEnded owner target o = s.burnTold owner target o := by
  cases owner with
  | orphan => rfl
  | command =>
    simp only [State.burnEnded, State.burnTold]
    rcases s.engine.state with _ | w | j
    · rfl
    · cases w <;> first
        | rfl
        | exact onBurns_afterBurn (owner := .command) ho _ _ _ (by simp)
        | exact State.onDeployBurn_eq (ho rfl) hb _ _
    · rfl
  | job =>
    simp only [State.burnEnded, State.burnTold]
    rcases s.engine.state with _ | w | j
    · rfl
    · rfl
    · cases j <;> first
        | rfl
        | exact onBurns_afterBurn (owner := .job) (by simp) _ _ _ (by simp)
  | flow =>
    simp only [State.burnEnded, State.burnTold]
    cases s.flow.phase <;> first
      | rfl
      | exact onBurns_afterBurn (owner := .flow) (by simp) _ _ _ hflow

/-- PROV_DEPLOY's burn leaves no other work waiting (R68). -/
theorem State.deployAfter_quiet {s : State} (hw : s.NoWork) (bit : Nat) (o : BurnOutcome) :
    (s.deployAfter bit o).Quiet := by
  obtain ⟨h1, h2, h3⟩ := hw
  cases o
  · exact fun h => by cases h
  · exact fun h => by cases h
  · simp only [State.deployAfter]
    split
    · split
      · exact fun h => by cases h
      · split <;> exact fun h => by cases h
    · exact fun _ => ⟨h1, h2, h3⟩

/-- The requester leaves no other work waiting (R68). -/
theorem State.burnTold_quiet {s : State} (hw : s.NoWork) (owner : BurnOwner) (target : FuseBit)
    (o : BurnOutcome) : (s.burnTold owner target o).Quiet := by
  cases owner <;> simp only [State.burnTold]
  · split
    · exact State.burnsAfter_quiet hw _ _ _ _
    · exact State.deployAfter_quiet hw _ _
    · exact fun _ => hw
  · split
    · exact State.burnsAfter_quiet hw _ _ _ _
    · exact fun _ => hw
  · split
    · exact State.burnsAfter_quiet hw _ _ _ _
    · exact fun _ => hw
  · exact fun _ => hw

/-- A read-back (R119). -/
theorem State.readBack_eq (s : State) (b : BitBurn) (back : Bool) : s.readBack b back =
    match b.ends back s.supply.normal with
    | some o => (s.burnRead b.target back, some o)
    | none => ({ s.burnRead b.target back with fuses := { (s.burnRead b.target back).fuses with
        burn := some { b with attempts := b.attempts + 1 } } }, none) := by
  have hc : (s.fuses.doubtful.contains b.target = true) = (b.target ∈ s.fuses.doubtful) := by simp
  cases back
  · simp only [State.readBack, BitBurn.ends, State.burnRead, hc, Bool.false_eq_true, if_false,
      Config.burnAttempts]
    by_cases ha : b.attempts = 2
    · simp only [ha, if_true]
    · rw [if_neg (show ¬ b.attempts + 1 = 3 by omega), if_neg ha]
      by_cases hn : s.supply.normal = true
      · simp only [hn, if_true]
      · simp only [hn]
        rfl
  · rfl

/-- A waiting request that burns is taken alone (R119). -/
theorem takeQueue_takes {t : State} (r : BurnRequest) (rest : List BurnRequest)
    (hb : t.fuses.burn = none) (hu : t.fuses.image.burned r.target = false)
    (hn : t.supply.normal = true) : takeQueue (r :: rest) t =
      ({ t with fuses := { t.fuses with
        queue := rest, burn := some ⟨r.target, 0, r.owner⟩ } }, []) := by
  unfold takeQueue
  simp only [hb, State.takeBurn, hu, hn, if_true, Bool.false_eq_true, if_false]
  cases rest <;> rfl

/-- A last waiting request that need not burn, or cannot, ends at once (R119). -/
theorem takeQueue_ends {t : State} (r : BurnRequest) (hb : t.fuses.burn = none)
    (h : t.fuses.image.burned r.target = true ∨ t.supply.normal = false) :
    takeQueue [r] t = ({ t with fuses := { t.fuses with queue := [] } },
      [(r, if t.fuses.image.burned r.target = true then .burned else .supplyStop)]) := by
  unfold takeQueue
  simp only [hb, State.takeBurn]
  by_cases hu : t.fuses.image.burned r.target = true
  · simp only [hu, if_true]
    rw [← hb]
    rfl
  · have hn : t.supply.normal = false := by
      rcases h with h | h
      · exact absurd h hu
      · exact h
    simp only [hu, hn, Bool.false_eq_true, if_false]
    rw [← hb]
    rfl

/-- What FUSE_ATTEMPT_DONE does with a burn in progress (R119). -/
theorem State.fuseAttempt_eq (s : State) (b : BitBurn) (back : Bool) : s.fuseAttempt b back =
    match b.ends back s.supply.normal with
    | none => { s.burnRead b.target back with fuses := { (s.burnRead b.target back).fuses with
        burn := some { b with attempts := b.attempts + 1 } } }
    | some o =>
      let q := takeQueue s.fuses.queue (s.burnRead b.target back)
      (q.1.burnEnded b.owner b.target o).queueEnded q.2 := by
  unfold State.fuseAttempt
  rw [State.readBack_eq]
  have hq : (s.burnRead b.target back).fuses.queue = s.fuses.queue := by
    cases back <;> rfl
  cases b.ends back s.supply.normal with
  | none => rfl
  | some o =>
    simp only [hq]

/-- A flow that does not wait for NORMAL is left alone by it (R91). -/
theorem State.resumeFlowBurns_none {s : State} (h : ∀ q, s.flow.phase ≠ .burns q true) :
    s.resumeFlowBurns = s := by
  unfold State.resumeFlowBurns
  split
  · next q hq => exact absurd hq (h q)
  · rfl

/-- One that waits goes on (R91). -/
theorem State.resumeFlowBurns_waits {s : State} {q : BurnSeq} (h : s.flow.phase = .burns q true)
    (hp : s.down.port = .idle) (hr : 0 < s.configGeo.recSize) :
    s.resumeFlowBurns = s.burnsGoOn .flow q := by
  unfold State.resumeFlowBurns
  rw [h]
  exact onBurns_goOn (owner := .flow) (by simp) q fun _ => ⟨hp, hr⟩

/-- An engine without a LIFECYCLE burn that waits for NORMAL is left alone by it (R122). -/
theorem State.resumeDeploy_none {s : State}
    (h : ∀ bit, s.engine.state ≠ .command (.deployBurn bit true)) : s.resumeDeploy = s := by
  unfold State.resumeDeploy
  split
  · next b hb => exact absurd hb (h b)
  · rfl

/-- The entry into NORMAL, told by its parts (R113, R131). -/
theorem State.enterNormal_eq (s : State) : s.enterNormal =
    ({ s with
      supply := { s.supply with normal := true, run := 0 }
      events := { s.events with pending :=
        if s.stage = .s0 then s.events.pending else s.events.pending ||| 8 } } :
      State).resumeFlowBurns.resumeDeploy.requestDeferred := by
  unfold State.enterNormal
  rw [State.raiseOutsideS0_eq]
  rfl

/-- The flow's burns keep the engine and the deferral flag (R91). -/
theorem State.burnsGoOn_flow_keeps (s : State) (q : BurnSeq) :
    (s.burnsGoOn .flow q).engine = s.engine ∧
      (s.burnsGoOn .flow q).slots.deferral = s.slots.deferral := by
  have hf : ∀ p : BurnSeq, (s.faulted p).engine = s.engine ∧ (s.faulted p).slots = s.slots := by
    intro p
    unfold State.faulted
    split <;> exact ⟨rfl, rfl⟩
  have hs : ∀ t : State, t.selects.engine = t.engine ∧
      t.selects.slots.deferral = t.slots.deferral := by
    intro t
    have hb : ∀ (b : Bool) (l : List SlotId) (u : State), (u.tries b l).engine = u.engine ∧
        (u.tries b l).slots = u.slots := by
      intro b l u
      cases l <;> exact ⟨rfl, rfl⟩
    have hc : ∀ (u : State) (x : SlotId), (u.failTrial x).engine = u.engine ∧
        (u.failTrial x).slots.deferral = u.slots.deferral := by
      intro u x
      rw [State.failTrial_eq]
      split
      · cases x <;> exact ⟨rfl, rfl⟩
      · exact ⟨rfl, rfl⟩
    have e := hb true (State.candidates ((t.failTrial .a).failTrial .b))
      ((t.failTrial .a).failTrial .b)
    exact ⟨e.1.trans ((hc _ _).1.trans (hc _ _).1),
      (congrArg SlotTable.deferral e.2).trans ((hc _ _).2.trans (hc _ _).2)⟩
  unfold State.burnsGoOn
  rcases s.nextBit q with ⟨_ | b, p⟩
  · exact ⟨(hs _).1.trans (hf p).1, (hs _).2.trans (congrArg SlotTable.deferral (hf p).2)⟩
  · simp only
    split <;> exact ⟨rfl, rfl⟩

/-- An idle engine with FLOOR_BURN alone pending starts it (R68, R113, R114). -/
theorem State.settled_floorBurn {s : State} (hi : s.engine.state = .idle)
    (ho : s.engine.ownerResetPending = false) (hp : s.engine.floorBurnPending = true)
    (hh : s.aperture.held = none) : s.settled =
      State.burnsGoOn { s with
        engine := { s.engine with floorBurnPending := false }
        slots := { s.slots with deferral := false } } .job ⟨false, false, false⟩ := by
  have h1 : s.arbitrate = State.burnsGoOn { s with
      engine := { s.engine with floorBurnPending := false }
      slots := { s.slots with deferral := false } } .job ⟨false, false, false⟩ := by
    rw [← onBurns_goOn (owner := .job) (by simp) _ (by simp)]
    have hs : s.arbitrate = s.startFloorBurn := by
      simp only [State.arbitrate, hi, ho, hp, Bool.false_eq_true, if_false, if_true]
    rw [hs]
    rfl
  rw [State.settled, h1]
  have hq := State.burnsGoOn_quiet (s := { s with
      engine := { s.engine with floorBurnPending := false }
      slots := { s.slots with deferral := false } }) ⟨ho, rfl, hh⟩ .job ⟨false, false, false⟩
  simp only [State.arbitrate_quiet hq]

end Sys2Proof.Machine
end

