-- ==== Sys2Proof/Laws/Waits.lean ====
section
/-! SUPPORT. Record writes from the request to the begin: what a platform restart keeps of them, where a
wait for one is an abort point, and what a begin applies and stores, each said once in the terms of
Safety.lean. -/

namespace Sys2Proof.Machine

/-! ### A platform restart (R127) -/

/-- Whose requests a restart keeps (R135, R166, R167, R177). -/
theorem Requester.kept_eq (q : Requester) : q.kept =
    if q.who = .command ∧ q.change ≠ .credIncrement ∧ q.change ≠ .credClear then none
    else some { q with who := if q.who = .block then .block else .orphan } := by
  rcases q with ⟨who, change⟩
  cases who <;> cases change <;> rfl

/-- The requesters that a restart leaves behind a write in progress (R125). -/
theorem Requester.orphaned_eq (q : Requester) :
    q.orphaned = { q with who := if q.who = .block then .block else .orphan } := by
  rcases q with ⟨who, change⟩
  cases who <;> rfl

/-- Requesters mapped, entries left without one gone (R124). -/
theorem mapRequesters_eq (f : Requester → Option Requester) (l : List Entry) : mapRequesters f l =
    (l.map fun e => { e with requesters := e.requesters.filterMap f }).filter
      fun e => decide (e.requesters ≠ []) := by
  unfold mapRequesters
  induction l with
  | nil => rfl
  | cons e es ih =>
    rw [List.filterMap_cons, List.map_cons, List.filter_cons, ← ih]
    cases e.requesters.filterMap f <;> simp

/-- The Record Store at a platform restart (R127). -/
theorem RecordStore.abandon_eq (r : RecordStore) : r.abandon = r.restarted := by
  have hk : (fun l : List Requester => l.filterMap Requester.kept) = keptRequesters :=
    funext fun l => congrArg (fun f => List.filterMap f l) (funext Requester.kept_eq)
  have ho : Requester.orphaned = fun q =>
      { q with who := if q.who = .block then .block else .orphan } := funext Requester.orphaned_eq
  simp only [RecordStore.abandon, RecordStore.restarted, mapRequesters_eq, ho, ← hk]

/-! ### Abort points (R71) -/

/-- Which waits are abort points (R71, R108, R111, R146, R167). -/
theorem CmdWork.waitAborts_iff (w : CmdWork) : w.waitAborts = true ↔ w.StopsAtLow := by
  cases w <;> simp [CmdWork.waitAborts, CmdWork.StopsAtLow]

/-- Waiting for a write that has not begun (R135). -/
theorem State.awaitsWrite_iff (s : State) :
    (s.commandWaits = true ∧ s.commandWrites = false) ↔ s.AwaitsWrite := by
  unfold State.commandWaits State.commandWrites State.AwaitsWrite
  cases s.records.writing <;> simp

/-- A command stopped at its wait (R71, R104, R135, R166). -/
theorem State.abortCommand_eq {s : State} {w : CmdWork} (ho : s.out = ⟨[], []⟩)
    (hw : w.StopsAtLow) : s.abortCommand w = s.abortedAt w := by
  rcases hw with ⟨_, _, rfl⟩ | ⟨x, o, rfl⟩ | ⟨_, _, rfl⟩ <;>
    simp only [State.abortCommand, State.withdrawCommand_eq, State.abortedAt, State.finished, ← ho] <;>
    rfl

/-- The abort request observed (R71). -/
theorem State.observeAbort_stops {s : State} {w : CmdWork} (ho : s.out = ⟨[], []⟩)
    (he : s.engine.state = .command w) (ha : s.engine.abortRequest = true)
    (hl : s.supply.normal = false) (hw : w.StopsAtLow) (hs : s.AwaitsWrite) :
    s.observeAbort = s.abortedAt w := by
  obtain ⟨h1, h2⟩ := s.awaitsWrite_iff.2 hs
  simp only [State.observeAbort, he, ha, hl, (CmdWork.waitAborts_iff w).2 hw, h1, h2, Bool.not_false,
    Bool.and_true, if_true]
  exact State.abortCommand_eq ho hw

/-- The abort request not observed (R71). -/
theorem State.observeAbort_keeps {s : State}
    (h : ∀ w, s.engine.state = .command w → s.engine.abortRequest = true →
      s.supply.normal = false → w.StopsAtLow → ¬ s.AwaitsWrite) : s.observeAbort = s := by
  unfold State.observeAbort
  split
  · next w he =>
    split
    · next hc =>
      simp only [Bool.and_eq_true, Bool.not_eq_true', CmdWork.waitAborts_iff] at hc
      obtain ⟨⟨⟨⟨h1, h2⟩, h3⟩, h4⟩, h5⟩ := hc
      exact absurd (s.awaitsWrite_iff.1 ⟨h4, h5⟩) (h w he h1 h2 h3)
    · rfl
  · rfl
  · rfl

/-! ### The begin of a write (R125) -/

/-- The other slot, settled (R109). -/
theorem settleOther_eq (r : SlotRec) (floor : Nat) : settleOther r floor =
    if r.state = .active ∧ floor ≤ r.version then some ⟨.spare, .spare, .none, r.summary⟩
    else if (r.state = .active ∨ r.state = .verified ∨ r.state = .spare) ∧ r.version < floor then
      some ⟨.failed, .failed, .rollback, r.summary⟩
    else none := by
  unfold settleOther
  by_cases h : floor ≤ r.version
  · cases hs : r.state <;> simp [h, Nat.not_lt.2 h, SlotRec.into]
  · cases hs : r.state <;> simp [h, Nat.not_le.1 h, SlotRec.failKeep]

/-- The slots settled in a mode with a running slot, and the writes awaited (R109). -/
theorem State.settleSlots_eq {s : State} {x : SlotId} (hm : s.filter.mode.running = some x)
    (floor : Nat) : s.settleSlots floor =
      let new := max s.fuses.image.count floor
      let o := s.slot x.other
      let t1 := if o.state = .active ∧ new ≤ o.version then
          s.changeSlotTold x.other ⟨.spare, .spare, .none, o.summary⟩
        else if (o.state = .active ∨ o.state = .verified ∨ o.state = .spare) ∧ o.version < new then
          s.changeSlotTold x.other ⟨.failed, .failed, .rollback, o.summary⟩
        else s
      (if (s.slot x).state = .trial then t1.changeSlotTold x ⟨.active, .active, .none, (s.slot x).summary⟩
        else t1,
        (if (o.state = .active ∧ new ≤ o.version) ∨
            ((o.state = .active ∨ o.state = .verified ∨ o.state = .spare) ∧ o.version < new) then
          [RecordId.slot x.other] else []) ++
        (if (s.slot x).state = .trial then [.slot x] else [])) := by
  have hk : ∀ (t : State) (r : SlotRec), (t.changeSlotTold x.other r).slot x = t.slot x := by
    intro t r
    cases x <;> rfl
  unfold State.settleSlots
  simp only [hm, settleOther_eq, State.fuseCount]
  by_cases h1 : (s.slot x.other).state = .active ∧
      max s.fuses.image.count floor ≤ (s.slot x.other).version
  · simp only [h1, and_self, if_true, true_or, hk]
    split <;> rfl
  · by_cases h2 : ((s.slot x.other).state = .active ∨ (s.slot x.other).state = .verified ∨
        (s.slot x.other).state = .spare) ∧
        (s.slot x.other).version < max s.fuses.image.count floor
    · simp only [if_neg h1, if_pos h2, if_pos (Or.inr h2), hk]
      split <;> rfl
    · simp only [if_neg h1, if_neg h2, if_neg (not_or.2 ⟨h1, h2⟩)]
      split <;> rfl

/-- UPDATE_CONFIRM's settling (R109). -/
theorem State.applyConfirm_eq (s : State) (floor : Nat) : s.applyConfirm floor = s.settles floor := by
  have he : ∀ (t : State) (y : SlotId) (r : SlotRec),
      (t.changeSlotTold y r).engine = t.engine := fun _ _ _ => rfl
  have hv : ∀ r : SlotRec, (r.summary.map Summary.securityVersion).getD 0 = r.version := by
    intro r
    rcases r with ⟨_, _, _, _ | m⟩ <;> rfl
  have hc : ∀ (t : State) (y : SlotId) (r : SlotRec),
      (t.slotBecomes y r).asks (.slot y) .command .asIs = t.changeSlotTold y r := fun _ _ _ => rfl
  cases hr : s.filter.mode.running with
  | none =>
    have hn : s.runs = false := by
      cases hm : s.filter.mode <;> simp_all [Mode.running, State.runs]
    simp only [State.applyConfirm, State.settleSlots, hr, State.settles, hn, Bool.false_eq_true,
      if_false]
    rfl
  | some x =>
    have hn : s.runs = true ∧ s.runningOfRun = x ∧ s.otherOfRun = x.other := by
      cases hm : s.filter.mode <;>
        simp_all [Mode.running, State.runs, State.runningOfRun, State.otherOfRun] <;>
        (subst hr; rfl)
    obtain ⟨h1, h2, h3⟩ := hn
    simp only [State.applyConfirm, State.settleSlots_eq hr, State.settles, h1, h2, h3, hv, hc, if_true]
    have hg : ∀ (p q r : Prop) [Decidable p] [Decidable q] [Decidable r] (u v w : SlotRec),
        let t1 := if p then s.changeSlotTold x.other u
          else if q then s.changeSlotTold x.other v else s
        (if r then t1.changeSlotTold x w else t1).engine = s.engine := by
      intro p q r _ _ _ u v w t1
      have h1 : t1.engine = s.engine := by
        simp only [t1]
        split
        · exact he _ _ _
        · split
          · exact he _ _ _
          · rfl
      split
      · exact (he _ _ _).trans h1
      · exact h1
    have hf : ∀ (u : State) (l : List RecordId), u.engine = s.engine →
        (match u.engine.state with
          | .command (.confirmCounters f v _) => u.work (.confirmCounters f v l)
          | _ => u) =
        match s.engine.state with
          | .command (.confirmCounters f v _) =>
            { u with engine := { s.engine with state := .command (.confirmCounters f v l) } }
          | _ => u := by
      intro u l h
      simp only [State.work, h]
    exact hf _ _ (hg _ _ _ _ _ _)

/-- What a requester applies (R125). -/
theorem State.applyChange_eq (s : State) (rec : RecordId) (c : Change) :
    s.applyChange rec c = s.begins rec c := by
  cases c with
  | confirm floor revoke => exact s.applyConfirm_eq floor
  | verify o => cases rec <;> cases o <;> rfl
  | asIs => cases rec <;> rfl
  | credIncrement => cases rec <;> rfl
  | credClear => cases rec <;> rfl
  | ownerReset => cases rec <;> rfl
  | key k => cases rec <;> rfl
  | cred k => cases rec <;> rfl
  | config k => cases rec <;> rfl
  | cert k => cases rec <;> rfl

/-- The pending values that COUNTERS stores (R125). -/
theorem pendingOf_eq (rs : List Requester) (floor : Nat) (revoke : BitVec 2) :
    pendingOf rs floor revoke = (rs.findSome? fun q =>
      match q.change with
      | .confirm f v => some (f, v)
      | _ => none).getD (floor, revoke) := by
  induction rs with
  | nil => rfl
  | cons q qs ih =>
    unfold pendingOf
    rcases q with ⟨who, change⟩
    cases change <;> simp [ih]

/-- The content of a write (R125). -/
theorem State.content_eq (s : State) (rec : RecordId) (rs : List Requester) :
    s.content rec rs = s.stores rec rs := by
  unfold State.content State.stores State.countersContent
  simp only [pendingOf_eq]
  rfl

/-- The head entry begins (R125, R164). -/
theorem State.beginWrite_eq (s : State) (rec : RecordId) (rs : List Requester) (rest : List Entry) :
    s.beginWrite ⟨rec, rs⟩ rest =
      let t := rs.foldl (fun u q => u.begins rec q.change)
        { s with records := { s.records with waiting := rest } }
      { t with records := { t.records with writing := some ⟨rec, rs, t.stores rec rs⟩ } } := by
  simp only [State.beginWrite, State.applyChange_eq, State.content_eq]

end Sys2Proof.Machine
end

