-- ==== Sys2Proof/Laws/Time.lean ====
section
/-! SUPPORT. What the arbiter leaves when it comes to rest, and what the events of one base tick do: each
is its own row, taken in turn. -/

namespace Sys2Proof.Machine

/-! ### What taking up work leaves alone -/

/-- The power, the button's level and the work that waits are as before. -/
def State.SameWork (s t : State) : Prop :=
  t.powered = s.powered ∧ t.presence.level = s.presence.level ∧
    t.engine.ownerResetPending = s.engine.ownerResetPending ∧
    t.engine.floorBurnPending = s.engine.floorBurnPending ∧ t.aperture.held = s.aperture.held

/-- A gated command leaves alone what its act leaves alone (R72). -/
theorem gated_same {s : State} {f : Frame} {only : Option Lifecycle} {cond : Cond} {ro : Bool}
    {ps st : List Check} {sup : Bool} {act : State → State} (h : s.SameWork (act s)) :
    s.SameWork (s.gated f only cond ro ps st sup act) := by
  unfold State.gated
  split
  · exact ⟨rfl, rfl, rfl, rfl, rfl⟩
  · exact h

/-- POLICY_TIGHTEN, in each form (R53). -/
theorem tighten_same (f : Frame) (s : State) : s.SameWork (cmdPolicyTighten f s) := by
  unfold cmdPolicyTighten
  split
  · exact gated_same ⟨rfl, rfl, rfl, rfl, rfl⟩
  · split
    · exact gated_same (by (repeat' split) <;> exact ⟨rfl, rfl, rfl, rfl, rfl⟩)
    · exact gated_same ⟨rfl, rfl, rfl, rfl, rfl⟩

/-- STAGE_ADVANCE's act (R4). -/
theorem advance_same (s : State) (n : Nat) : s.SameWork (s.advanceStage n) := by
  unfold State.advanceStage State.closeGate
  simp only
  (repeat' split) <;> exact ⟨rfl, rfl, rfl, rfl, rfl⟩

/-- A burn request (R119). -/
theorem requestBurn_same (s : State) (b : FuseBit) (o : BurnOwner) :
    s.SameWork (s.requestBurn b o).1 := by
  simp only [State.requestBurn, State.takeBurn]
  (repeat' split) <;> exact ⟨rfl, rfl, rfl, rfl, rfl⟩

/-- One step after another. -/
theorem State.SameWork.trans {s t u : State} (h : s.SameWork t) (k : t.SameWork u) : s.SameWork u :=
  ⟨k.1.trans h.1, k.2.1.trans h.2.1, k.2.2.1.trans h.2.2.1, k.2.2.2.1.trans h.2.2.2.1,
    k.2.2.2.2.trans h.2.2.2.2⟩

/-- A slot record's change (R79). -/
theorem told_same (s : State) (x : SlotId) (r : SlotRec) : s.SameWork (s.changeSlotTold x r) :=
  ⟨rfl, rfl, rfl, rfl, rfl⟩

/-- A command's next work (R68). -/
theorem work_same (s : State) (w : CmdWork) : s.SameWork (s.work w) := ⟨rfl, rfl, rfl, rfl, rfl⟩

/-- The end of a LIFECYCLE burn (R146). -/
theorem deployBurned_same (s : State) (bit : Nat) : s.SameWork (s.deployBurned bit) :=
  State.SameWork.trans (State.SameWork.trans (told_same s _ _) (told_same _ _ _)) (work_same _ _)

/-- A LIFECYCLE burn asked for (R122). -/
theorem deployTry_same (s : State) (bit : Nat) : s.SameWork (s.deployTry bit) := by
  have h := requestBurn_same s ⟨.lifecycle, bit⟩ .command
  unfold State.deployTry
  generalize s.requestBurn ⟨.lifecycle, bit⟩ .command = r at h
  obtain ⟨t, o⟩ := r
  obtain ⟨h1, h2, h3, h4, h5⟩ := h
  obtain ⟨k1, k2, k3, k4, k5⟩ := deployBurned_same t bit
  rcases o with _ | o
  · exact ⟨h1, h2, h3, h4, h5⟩
  · cases o
    · exact ⟨k1.trans h1, k2.trans h2, k3.trans h3, k4.trans h4, k5.trans h5⟩
    · exact ⟨h1, h2, h3, h4, h5⟩
    · exact ⟨h1, h2, h3, h4, h5⟩

/-- A command taken, whatever its code (R66, R68). -/
theorem dispatch_same (f : Frame) (s : State) : s.SameWork (dispatch f s) := by
  unfold dispatch
  split
  all_goals first
    | exact tighten_same f s
    | exact ⟨rfl, rfl, rfl, rfl, rfl⟩
    | (refine gated_same ?_
       first
       | exact ⟨rfl, rfl, rfl, rfl, rfl⟩
       | skip)
  · exact advance_same _ _
  · simp only [State.startVerify, State.requestChunk]
    split <;> exact ⟨rfl, rfl, rfl, rfl, rfl⟩
  · unfold State.gateUse; split <;> exact ⟨rfl, rfl, rfl, rfl, rfl⟩
  · split
    · next id label rest _ =>
      unfold State.setCred
      split <;> rcases rest with p | ⟨c, g, v⟩ <;> exact ⟨rfl, rfl, rfl, rfl, rfl⟩
    · exact ⟨rfl, rfl, rfl, rfl, rfl⟩
  · unfold State.gateUse; split <;> exact ⟨rfl, rfl, rfl, rfl, rfl⟩
  · exact deployTry_same s 0

/-- FLOOR_BURN started no longer waits (R68, R114). -/
theorem startFloorBurn_same (s : State) :
    s.startFloorBurn.powered = s.powered ∧ s.startFloorBurn.presence.level = s.presence.level ∧
      s.startFloorBurn.engine.ownerResetPending = s.engine.ownerResetPending ∧
      s.startFloorBurn.engine.floorBurnPending = false ∧
      s.startFloorBurn.aperture.held = s.aperture.held := by
  unfold State.startFloorBurn
  simp only
  rw [State.goOnBurns_eq]
  split
  · simp only [State.onJobBurns, State.endJob]
    split <;> exact ⟨rfl, rfl, rfl, rfl, rfl⟩
  · split
    · simp only [State.onJobBurns, State.faultIf]
      split <;> exact ⟨rfl, rfl, rfl, rfl, rfl⟩
    · simp only [State.onJobBurns, State.faultIf]
      split <;> exact ⟨rfl, rfl, rfl, rfl, rfl⟩

/-- A held frame taken no longer waits (R66, R68). -/
theorem takeHeld_same (s : State) (f : Frame) : (s.takeHeld f).powered = s.powered ∧
    (s.takeHeld f).presence.level = s.presence.level ∧
      (s.takeHeld f).engine.ownerResetPending = s.engine.ownerResetPending ∧
      (s.takeHeld f).engine.floorBurnPending = s.engine.floorBurnPending ∧
      (s.takeHeld f).aperture.held = none := by
  obtain ⟨h1, h2, h3, h4, h5⟩ := dispatch_same f { s with aperture := { s.aperture with
    resp := Response.running f s.aperture.resp.previousUnread s.aperture.resp.refused
    aside := none, held := none } }
  exact ⟨h1, h2, h3, h4, h5⟩

/-- The owner reset started (R176). -/
theorem startOwnerReset_same (s : State) : s.startOwnerReset.powered = s.powered ∧
    s.startOwnerReset.presence.level = s.presence.level := by
  have hf : ∀ (ws : List (RecordId × Change)) (t : State),
      (ws.foldl (fun u w => State.asks u w.1 .job w.2) t).powered = t.powered ∧
      (ws.foldl (fun u w => State.asks u w.1 .job w.2) t).presence = t.presence := by
    intro ws
    induction ws with
    | nil => exact fun t => ⟨rfl, rfl⟩
    | cons w ws ih => intro t; exact ih _
  rw [State.startOwnerReset_eq, State.wiping]
  split
  · exact ⟨rfl, rfl⟩
  · simp only [(hf _ _).1, (hf _ _).2]
    exact ⟨rfl, rfl⟩

/-- One round of the arbiter (R68). -/
theorem arbitrate_same (s : State) :
    s.arbitrate.powered = s.powered ∧ s.arbitrate.presence.level = s.presence.level := by
  unfold State.arbitrate
  split
  · split
    · exact startOwnerReset_same s
    · split
      · exact ⟨(startFloorBurn_same s).1, (startFloorBurn_same s).2.1⟩
      · split
        · exact ⟨(takeHeld_same s _).1, (takeHeld_same s _).2.1⟩
        · exact ⟨rfl, rfl⟩
  · exact ⟨rfl, rfl⟩
  · exact ⟨rfl, rfl⟩

/-- The arbiter comes to rest (R68). -/
theorem settled_isQuiet (s : State) : s.settled.Quiet := by
  have h0 : ∀ t : State, t.Quiet → t.arbitrate.Quiet := fun t h => by
    rw [State.arbitrate_quiet h]; exact h
  have h1 : ∀ t : State, t.engine.ownerResetPending = false → t.engine.floorBurnPending = false →
      t.arbitrate.Quiet := by
    intro t ho hb
    unfold State.arbitrate
    split
    · rw [if_neg (by simp [ho]), if_neg (by simp [hb])]
      split
      · next f hf =>
        obtain ⟨_, _, k1, k2, k3⟩ := takeHeld_same t f
        exact fun _ => ⟨k1.trans ho, k2.trans hb, k3⟩
      · next hn => exact fun _ => ⟨ho, hb, hn⟩
    · next w hw => exact State.quiet_of_busy (by rw [hw]; simp)
    · next w hw => exact State.quiet_of_busy (by rw [hw]; simp)
  have h2 : ∀ t : State, t.engine.ownerResetPending = false → t.arbitrate.arbitrate.Quiet := by
    intro t ho
    by_cases hb : t.engine.floorBurnPending = true
    · by_cases hi : t.engine.state = .idle
      · have : t.arbitrate = t.startFloorBurn := by
          unfold State.arbitrate; rw [hi]; simp [ho, hb]
        obtain ⟨_, _, k1, k2, k3⟩ := startFloorBurn_same t
        rw [this]
        exact h1 _ (k1.trans ho) k2
      · exact h0 _ (h0 _ (State.quiet_of_busy hi))
    · exact h0 _ (h1 _ ho (by simpa using hb))
  unfold State.settled
  by_cases ho : s.engine.ownerResetPending = true
  · by_cases hi : s.engine.state = .idle
    · have : s.arbitrate = s.startOwnerReset := by
        unfold State.arbitrate; rw [hi]; simp [ho]
      rw [this]
      refine h0 _ (h0 _ (h0 _ (State.quiet_of_busy ?_)))
      rw [State.startOwnerReset_eq]
      exact State.wiping_busy _
    · exact h0 _ (h0 _ (h0 _ (h0 _ (State.quiet_of_busy hi))))
  · exact h0 _ (h0 _ (h2 _ (by simpa using ho)))

/-- The arbiter at rest (R68). -/
theorem settled_same (s : State) :
    s.settled.powered = s.powered ∧ s.settled.presence.level = s.presence.level := by
  have h := arbitrate_same
  unfold State.settled
  simp only [(h _).1, (h _).2, and_self]

/-! ### Events and the buses -/

/-- An event that leaves no work waiting does not depend on what stands on the buses. -/
theorem settled_out {G : State → State} (v : State) (o : Outputs)
    (hq : (G v).Quiet) (hc : G { v with out := o } = { G v with out := o }) :
    (G { v with out := o }).settled = { (G v).settled with out := o } := by
  rw [hc, State.settled_quiet hq]
  exact State.settled_quiet (s := { G v with out := o }) hq

/-- The wipe does not depend on the buses (R176). -/
theorem wiping_out (v : State) (o : Outputs) :
    State.wiping { v with out := o } = { v.wiping with out := o } ∧ v.wiping.out = v.out ∧
      v.wiping.supply = v.supply ∧ v.wiping.powered = v.powered ∧ v.wiping.presence = v.presence := by
  have hf : ∀ (ws : List (RecordId × Change)) (t : State),
      (ws.foldl (fun u w => State.asks u w.1 .job w.2) { t with out := o }) =
        { ws.foldl (fun u w => State.asks u w.1 .job w.2) t with out := o } ∧
      (ws.foldl (fun u w => State.asks u w.1 .job w.2) t).out = t.out ∧
      (ws.foldl (fun u w => State.asks u w.1 .job w.2) t).supply = t.supply ∧
      (ws.foldl (fun u w => State.asks u w.1 .job w.2) t).powered = t.powered ∧
      (ws.foldl (fun u w => State.asks u w.1 .job w.2) t).presence = t.presence := by
    intro ws
    induction ws with
    | nil => exact fun t => ⟨rfl, rfl, rfl, rfl, rfl⟩
    | cons w ws ih => intro t; exact ih (State.asks t w.1 .job w.2)
  have hl : State.wipeList { v with out := o } = v.wipeList := rfl
  have hb : State.wipeBegun { v with out := o } = { v.wipeBegun with out := o } := rfl
  unfold State.wiping
  rw [hl, hb]
  split
  · refine ⟨?_, rfl, rfl, rfl, rfl⟩
    rfl
  · rw [(hf _ _).1]
    obtain ⟨_, h1, h2, h3, h4⟩ := hf v.wipeList v.wipeBegun
    refine ⟨rfl, ?_, ?_, ?_, ?_⟩
    · exact h1
    · exact h2
    · exact h3
    · exact h4

/-- A press (R174). -/
theorem press_out (v : State) (o : Outputs) :
    State.press { v with out := o } = { v.press with out := o } ∧
    v.press.out = v.out ∧ v.press.supply = v.supply ∧ v.press.engine = v.engine ∧
    v.press.aperture = v.aperture := by
  by_cases hs : v.stage = .s0
  · simp [State.press, State.setLevel, hs]
  · cases h : v.presence.state <;>
      simp [State.press, State.setLevel, hs, h, State.setPresence, State.startPresence]

/-- A release (R174). -/
theorem letGo_out (v : State) (o : Outputs) :
    State.letGo { v with out := o } = { v.letGo with out := o } ∧
    v.letGo.out = v.out ∧ v.letGo.supply = v.supply ∧ v.letGo.engine = v.engine ∧
    v.letGo.aperture = v.aperture := by
  by_cases hs : v.stage = .s0
  · simp [State.letGo, State.setLevel, hs]
  · cases h : v.presence.state <;>
      simp [State.letGo, State.setLevel, hs, h, State.setPresence, State.startPresence, State.raise]

/-- An event other than the monitor's does not touch the buses, the supply or the power. -/
theorem tickEvent_out (v : State) (o : Outputs) (e : TickEvent) (he : e ≠ .supply) (hq : v.Quiet)
    (sd bd p : Bool) :
    (State.tickEvent { v with out := o } sd bd p e).settled =
      { (v.tickEvent sd bd p e).settled with out := o } ∧
    (v.tickEvent sd bd p e).settled.out = v.out ∧
    (v.tickEvent sd bd p e).settled.supply.normal = v.supply.normal := by
  have fin : ∀ G : State → State, (G v).Quiet → G { v with out := o } = { G v with out := o } →
      (G v).out = v.out → (G v).supply.normal = v.supply.normal →
      (G { v with out := o }).settled = { (G v).settled with out := o } ∧
      (G v).settled.out = v.out ∧ (G v).settled.supply.normal = v.supply.normal := by
    intro G h1 h2 h3 h4
    refine ⟨settled_out v o h1 h2, ?_, ?_⟩ <;> rw [State.settled_quiet h1] <;> assumption
  have no : ∀ e : TickEvent,
      (∀ o', State.tickEvent { v with out := o' } sd bd p e = { v with out := o' }) →
      (State.tickEvent { v with out := o } sd bd p e).settled =
        { (v.tickEvent sd bd p e).settled with out := o } ∧
      (v.tickEvent sd bd p e).settled.out = v.out ∧
      (v.tickEvent sd bd p e).settled.supply.normal = v.supply.normal := by
    intro e h
    have h2 : v.tickEvent sd bd p e = v := h v.out
    rw [h o, h2]
    exact fin id hq rfl rfl rfl
  have yes : ∀ (e : TickEvent) (G : State → State),
      (∀ o', State.tickEvent { v with out := o' } sd bd p e = G { v with out := o' }) →
      (G v).Quiet → G { v with out := o } = { G v with out := o } →
      (G v).out = v.out → (G v).supply.normal = v.supply.normal →
      (State.tickEvent { v with out := o } sd bd p e).settled =
        { (v.tickEvent sd bd p e).settled with out := o } ∧
      (v.tickEvent sd bd p e).settled.out = v.out ∧
      (v.tickEvent sd bd p e).settled.supply.normal = v.supply.normal := by
    intro e G h h1 h2 h3 h4
    have h5 : v.tickEvent sd bd p e = G v := h v.out
    rw [h o, h5]
    exact fin G h1 h2 h3 h4
  cases e with
  | supply => exact absurd rfl he
  | trial =>
    by_cases hd : v.timers.trial.due = true
    · exact yes _ (fun u => u.startFlow .trialExpiry)
        (fun o' => by simp only [State.tickEvent, Channel.canExpire, hd, if_true]; rfl)
        (fun _ => ⟨rfl, rfl, rfl⟩) rfl rfl rfl
    · exact no _ fun o' => by simp [State.tickEvent, Channel.canExpire, hd]
  | gate =>
    by_cases hd : v.timers.gate.due = true
    · refine yes _ (fun u => State.closeGate
          { u with timers := { u.timers with gate := Channel.expired } })
        (fun o' => by simp only [State.tickEvent, Channel.canExpire, hd, if_true]; rfl) ?_ ?_ ?_ ?_ <;>
        simp only [State.closeGate_eq]
      exact hq
    · exact no _ fun o' => by simp [State.tickEvent, Channel.canExpire, hd]
  | penalty =>
    by_cases hd : v.timers.penalty.due = true
    · exact yes _ (fun u => { u with timers := { u.timers with penalty := Channel.expired } })
        (fun o' => by simp only [State.tickEvent, Channel.canExpire, hd, if_true]; rfl) hq rfl rfl rfl
    · exact no _ fun o' => by simp [State.tickEvent, Channel.canExpire, hd]
  | button =>
    cases bd
    · exact no _ fun o' => rfl
    · cases p
      · obtain ⟨h1, h2, h3, h4, h5⟩ := letGo_out v o
        exact yes _ State.letGo (fun o' => rfl) (by unfold State.Quiet; rw [h4, h5]; exact hq) h1 h2
          (congrArg _ h3)
      · obtain ⟨h1, h2, h3, h4, h5⟩ := press_out v o
        exact yes _ State.press (fun o' => rfl) (by unfold State.Quiet; rw [h4, h5]; exact hq) h1 h2
          (congrArg _ h3)
  | presence =>
    by_cases hd : v.timers.presence.due = true
    · by_cases hp : v.presence.state = .pressed ∧ v.life = .deployed ∧ v.engine.state = .idle
      · obtain ⟨h1, h2, h3⟩ := hp
        have e1 : ∀ u : State, u.timers.presence.due = true → u.presence.state = .pressed →
            u.life = .deployed → u.tickEvent sd bd p .presence =
              State.requestJob { u with
                timers := { u.timers with presence := Channel.expired }
                presence := { u.presence with state := .waitRelease } } .ownerReset := by
          intro u a b c
          simp only [State.tickEvent, Channel.canExpire, a, if_true, State.presenceExpires, b]
          have : (State.setPresence { u with timers := { u.timers with presence := Channel.expired } }
            .waitRelease).life = .deployed := c
          rw [this]
          rfl
        rw [e1 v hd h1 h2, e1 { v with out := o } hd h1 h2]
        rw [State.settled_ownerReset (by exact h3) rfl, State.settled_ownerReset (by exact h3) rfl]
        obtain ⟨k1, k2, k3, k4, k5⟩ := wiping_out { v with
          timers := { v.timers with presence := Channel.expired }
          presence := { v.presence with state := .waitRelease }
          engine := { v.engine with ownerResetPending := false } } o
        exact ⟨k1, k2, by exact congrArg Supply.normal k3⟩
      · refine yes _ State.presenceExpires
          (fun o' => by simp only [State.tickEvent, Channel.canExpire, hd, if_true]) ?_ ?_ ?_ ?_ <;>
          simp only [State.presenceExpires, State.setPresence] <;>
          cases hs : v.presence.state <;> (try exact hq) <;> (try rfl) <;>
          simp only [State.life] <;> cases hl : v.fuses.image.life <;> (try exact hq) <;> (try rfl)
        exact State.quiet_of_busy (fun h => hp ⟨hs, hl, h⟩)
    · exact no _ fun o' => by simp [State.tickEvent, Channel.canExpire, hd]

/-! ### Events, the power and the button -/

/-- The power and the button's level are as before. -/
def State.SameLevel (s t : State) : Prop :=
  t.powered = s.powered ∧ t.presence.level = s.presence.level

/-- One step after another. -/
theorem State.SameLevel.trans {s t u : State} (h : s.SameLevel t) (k : t.SameLevel u) : s.SameLevel u :=
  ⟨k.1.trans h.1, k.2.trans h.2⟩

/-- The release (R96). -/
theorem release_level (s : State) : State.SameLevel s s.release := by
  rw [State.release_eq]
  split <;> exact ⟨rfl, rfl⟩

/-- A chunk asked for (R31). -/
theorem requestChunk_level (s : State) (a b : Nat) : State.SameLevel s (s.requestChunk a b) := by
  unfold State.requestChunk
  split <;> exact ⟨rfl, rfl⟩

/-- RECOVERY entered (R95). -/
theorem enterRecovery_level (s : State) : State.SameLevel s s.enterRecovery := by
  unfold State.enterRecovery State.goOnLoader
  simp only
  split
  · simp only [State.onLoader]
    exact State.SameLevel.trans ⟨rfl, rfl⟩ (requestChunk_level _ _ _)
  · simp only [State.onLoader, State.finishRecovery]
    exact State.SameLevel.trans ⟨rfl, rfl⟩ (release_level _)

/-- The next candidate (R93). -/
theorem tryCandidates_level (s : State) (b : Bool) (l : List SlotId) :
    State.SameLevel s (s.tryCandidates b l) := by
  cases l with
  | nil => exact enterRecovery_level s
  | cons x rest =>
    simp only [State.tryCandidates, State.startVerify]
    exact requestChunk_level { s with ve := ⟨.manifest x, [], 0, ShaState.initial⟩ } _ _

/-- A trial left unconfirmed (R92). -/
theorem failTrial_level (s : State) (x : SlotId) : State.SameLevel s (s.failTrial x) := by
  unfold State.failTrial
  split <;> exact ⟨rfl, rfl⟩

/-- Steps 6 to 8 (R92, R93). -/
theorem selectSlot_level (s : State) : State.SameLevel s s.selectSlot :=
  State.SameLevel.trans (State.SameLevel.trans (failTrial_level s .a) (failTrial_level _ .b))
    (tryCandidates_level _ _ _)

/-- Step 5 at NORMAL (R91). -/
theorem resumeFlowBurns_level (s : State) : State.SameLevel s s.resumeFlowBurns := by
  unfold State.resumeFlowBurns
  split
  · next q _ =>
    rw [State.goOnBurns_eq]
    rcases s.nextBit q with ⟨_ | b, p⟩
    · simp only [State.onFlowBurns]
      split
      · exact State.SameLevel.trans ⟨rfl, rfl⟩ (selectSlot_level _)
      · exact selectSlot_level _
    · simp only
      split <;> exact ⟨rfl, rfl⟩
  · exact ⟨rfl, rfl⟩

/-- The entry into NORMAL (R131). -/
theorem enterNormal_level (s : State) : State.SameLevel s s.enterNormal := by
  rw [State.enterNormal_eq]
  have hd : ∀ t : State, State.SameLevel t t.requestDeferred := by
    intro t; unfold State.requestDeferred; split <;> exact ⟨rfl, rfl⟩
  have hp : ∀ t : State, State.SameLevel t t.resumeDeploy := by
    intro t; unfold State.resumeDeploy; split
    · exact ⟨(deployTry_same _ _).1, (deployTry_same _ _).2.1⟩
    · exact ⟨rfl, rfl⟩
  refine State.SameLevel.trans (State.SameLevel.trans
    (State.SameLevel.trans ?_ (resumeFlowBurns_level _)) (hp _)) (hd _)
  exact ⟨rfl, rfl⟩

/-- The entry into LOW (R131). -/
theorem enterLow_level (s : State) : State.SameLevel s s.enterLow := by
  have h : ∀ t : State, State.SameLevel t t.observeAbort := by
    intro t
    unfold State.observeAbort
    split
    · next w _ =>
      split
      · cases w <;> exact ⟨rfl, rfl⟩
      · exact ⟨rfl, rfl⟩
    · exact ⟨rfl, rfl⟩
    · exact ⟨rfl, rfl⟩
  unfold State.enterLow
  rw [State.raiseOutsideS0_eq]
  exact State.SameLevel.trans ⟨rfl, rfl⟩ (h _)

/-- An event of a tick and what it starts; only the button's own changes its level (R174). -/
theorem tickEvent_level (u : State) (sd bd p : Bool) (e : TickEvent) :
    (u.tickEvent sd bd p e).settled.powered = u.powered ∧
      (e ≠ .button → (u.tickEvent sd bd p e).settled.presence.level = u.presence.level) := by
  rw [(settled_same _).1, (settled_same _).2]
  cases e with
  | supply =>
    simp only [State.tickEvent]
    split
    · split
      · exact ⟨(enterLow_level u).1, fun _ => (enterLow_level u).2⟩
      · exact ⟨(enterNormal_level u).1, fun _ => (enterNormal_level u).2⟩
    · exact ⟨rfl, fun _ => rfl⟩
  | trial => simp only [State.tickEvent]; split <;> exact ⟨rfl, fun _ => rfl⟩
  | gate =>
    simp only [State.tickEvent, State.gateExpires, State.closeGate_eq]
    split <;> exact ⟨rfl, fun _ => rfl⟩
  | penalty => simp only [State.tickEvent]; split <;> exact ⟨rfl, fun _ => rfl⟩
  | presence =>
    simp only [State.tickEvent]
    split
    · unfold State.presenceExpires
      simp only
      split
      · split <;> exact ⟨rfl, fun _ => rfl⟩
      · exact ⟨rfl, fun _ => rfl⟩
      · exact ⟨rfl, fun _ => rfl⟩
      · exact ⟨rfl, fun _ => rfl⟩
    · exact ⟨rfl, fun _ => rfl⟩
  | button =>
    refine ⟨?_, fun h => absurd rfl h⟩
    simp only [State.tickEvent]
    split
    · split
      · unfold State.press; simp only; split
        · rfl
        · split <;> rfl
      · unfold State.letGo; simp only; split
        · rfl
        · split <;> rfl
    · rfl

/-! ### The events of a tick as rows -/

/-- The row that an event of a tick stands for, if the event is due: `n` is whether the supply is NORMAL
before the tick, `p` the button's pin. -/
def tickRow (sd bd p n : Bool) : TickEvent → Option Instr
  | .supply => if sd = true then some (if n = true then Instr.entryIntoLow else .entryIntoNormal)
    else none
  | .trial => some .trialExpiry
  | .gate => some .gateExpiry
  | .penalty => some .penaltyExpiry
  | .presence => some .presenceExpiry
  | .button => if bd = true then some (if p = true then Instr.press else .release) else none

/-- One event of a tick is its row. -/
theorem tickEvent_row (u : State) (hp : u.powered = true) (hq : u.Quiet) (sd bd p n lv : Bool)
    (e : TickEvent) (hs : e = .supply → u.out = ⟨[], []⟩ ∧ u.supply.normal = n)
    (hl : e = .button → u.presence.level = lv) (hb : bd = true → p ≠ lv) :
    (u.tickEvent sd bd p e).settled = u.inTurn (tickRow sd bd p n e).toList := by
  have hc : ∀ (c : Instr) (G : State → State), exec c u = u.perform G →
      G u.clearOut = u.clearOut.tickEvent sd bd p e → e ≠ .supply →
      (u.tickEvent sd bd p e).settled = u.inTurn [c] := by
    intro c G h1 h2 h3
    simp only [State.inTurn, h1, State.perform, hp, if_true, h2]
    obtain ⟨k1, k2, k3⟩ := tickEvent_out u.clearOut u.out e h3 hq sd bd p
    rw [k2]
    have : ({ u.clearOut with out := u.out } : State) = u := rfl
    rw [this] at k1
    simpa [State.clearOut] using k1
  cases e with
  | supply =>
    obtain ⟨ho, hn⟩ := hs rfl
    have hu : u.clearOut = u := by unfold State.clearOut; rw [← ho]
    cases sd
    · exact State.settled_quiet hq
    · simp only [tickRow, if_true, Option.toList, State.inTurn]
      subst hn
      by_cases h : u.supply.normal = true
      · simp only [h, if_true, State.tickEvent]
        simp only [exec, execEntryIntoLow, State.perform, hp, if_true, hu, h, ho, List.nil_append]
      · have h' : u.supply.normal = false := by simpa using h
        simp only [h', Bool.false_eq_true, if_false, if_true, State.tickEvent]
        simp only [exec, execEntryIntoNormal, State.perform, hp, if_true, hu, h', Bool.false_eq_true,
          if_false, ho, List.nil_append]
  | trial => exact hc _ _ rfl rfl (by simp)
  | gate => exact hc _ _ rfl rfl (by simp)
  | penalty => exact hc _ _ rfl rfl (by simp)
  | presence => exact hc _ _ rfl rfl (by simp)
  | button =>
    cases bd
    · exact State.settled_quiet hq
    · have h1 := hb rfl
      have h2 : u.clearOut.presence.level = lv := hl rfl
      cases p
      · have this : lv = true := by cases lv <;> simp_all
        have e1 : u.clearOut.tickEvent sd true false .button = u.clearOut.letGo := rfl
        exact hc .release (fun t => if t.presence.level then t.letGo else t) rfl
          (by rw [e1]; simp only [h2, this, if_true]) (by simp)
      · have this : lv = false := by cases lv <;> simp_all
        have e1 : u.clearOut.tickEvent sd true true .button = u.clearOut.press := rfl
        exact hc .press (fun t => if t.presence.level then t else t.press) rfl
          (by rw [e1]; simp only [h2, this, Bool.false_eq_true, if_false]) (by simp)

/-- Rows in turn, in two runs. -/
theorem inTurn_append (s : State) (a b : List Instr) (h : ∀ c ∈ a, ∀ u, ∃ t, exec c u = .next t) :
    s.inTurn (a ++ b) = (s.inTurn a).inTurn b := by
  induction a generalizing s with
  | nil => rfl
  | cons c cs ih =>
    obtain ⟨t, ht⟩ := h c (by simp) s
    simp only [List.cons_append, State.inTurn, ht]
    exact ih _ fun d hd => h d (by simp [hd])

/-- The rows of a tick answer a next state. -/
theorem tickRow_next (sd bd p n : Bool) (e : TickEvent) : ∀ c ∈ (tickRow sd bd p n e).toList,
    ∀ u, ∃ t, exec c u = .next t := by
  intro c hc u
  cases e <;> simp only [tickRow] at hc <;> (try split at hc) <;> (try split at hc) <;>
    simp at hc <;> subst hc <;> exact ⟨_, rfl⟩

/-- The events of a tick are their rows, in turn (R11, R13, R129, R174). -/
theorem tickEvents_inTurn (sd bd p n lv : Bool) (hb : bd = true → p ≠ lv) (l : List TickEvent) :
    ∀ u : State, u.powered = true → u.Quiet → l.Nodup →
      (.supply ∈ l → u.out = ⟨[], []⟩ ∧ u.supply.normal = n) →
      (.button ∈ l → u.presence.level = lv) →
      l.foldl (fun v e => (v.tickEvent sd bd p e).settled) u =
        u.inTurn (l.filterMap (tickRow sd bd p n)) := by
  induction l with
  | nil => intros; rfl
  | cons e l ih =>
    intro u hp hq hn hs hl
    have hr : (e :: l).filterMap (tickRow sd bd p n) =
        (tickRow sd bd p n e).toList ++ l.filterMap (tickRow sd bd p n) := by
      rw [List.filterMap_cons]; cases tickRow sd bd p n e <;> rfl
    rw [hr, inTurn_append _ _ _ (tickRow_next sd bd p n e), List.foldl_cons]
    have h1 := tickEvent_row u hp hq sd bd p n lv e (fun h => hs (by simp [h]))
      (fun h => hl (by simp [h])) hb
    rw [← h1]
    obtain ⟨hne, hnl⟩ := List.nodup_cons.1 hn
    refine ih _ ((tickEvent_level u sd bd p e).1.trans hp) (settled_isQuiet _) hnl
      (fun h => ?_) fun h => ?_
    · have he : e ≠ .supply := fun h' => hne (h' ▸ h)
      obtain ⟨_, k2, k3⟩ := tickEvent_out u u.out e he hq sd bd p
      obtain ⟨a, b⟩ := hs (by simp [h])
      exact ⟨k2.trans a, k3.trans b⟩
    · have he : e ≠ .button := fun h' => hne (h' ▸ h)
      exact ((tickEvent_level u sd bd p e).2 he).trans (hl (by simp [h]))

/-- The order of a tick: the events named, then the monitor's and the button's if left out (assumption
8). -/
theorem tickOrder_nodup (l : List TickEvent) (h : l.Nodup) :
    tickOrder l = l ++ ([TickEvent.supply, .button]).filter fun e => decide (e ∉ l) := by
  have key : ∀ (m a : List TickEvent), (a ++ m).Nodup →
      m.foldl (fun taken e => if e ∈ taken then taken else taken ++ [e]) a = a ++ m := by
    intro m
    induction m with
    | nil => simp
    | cons e m ih =>
      intro a ha
      have hne : e ∉ a := fun hh => (List.nodup_append.1 ha).2.2 e hh e (by simp) rfl
      simp only [List.foldl_cons, hne, if_false]
      rw [ih (a ++ [e]) (by simpa using ha)]
      simp
  unfold tickOrder
  rw [List.foldl_append, key l [] (by simpa using h)]
  by_cases h1 : TickEvent.supply ∈ l <;> by_cases h2 : TickEvent.button ∈ l <;> simp [h1, h2]

end Sys2Proof.Machine
end

