-- ==== Sys2Proof/Laws/Arbiter.lean ====
section
/-! SUPPORT. What an engine that becomes idle takes up (R68): the pending jobs, and then the held frame, which
is taken as its command's row takes it (R66). -/

namespace Sys2Proof.Machine

/-! ### The jobs and the held frame -/

/-- The arbiter with no job pending takes the held frame, and is then at rest (R68). -/
theorem State.arbitrate_held {u : State} (ho : u.engine.ownerResetPending = false)
    (hf : u.engine.floorBurnPending = false) : u.arbitrate.Quiet ∧ u.arbitrate =
      match u.engine.state, u.aperture.held with
      | .idle, some f => u.takeHeld f
      | _, _ => u := by
  have busy : u.engine.state ≠ .idle → u.arbitrate.Quiet ∧ u.arbitrate = u := by
    intro h
    have hq := State.quiet_of_busy h
    exact ⟨by rw [State.arbitrate_quiet hq]; exact hq, State.arbitrate_quiet hq⟩
  cases hs : u.engine.state with
  | command w => exact busy (by simp [hs])
  | job w => exact busy (by simp [hs])
  | idle =>
    cases hh : u.aperture.held with
    | none =>
      have hq : u.Quiet := fun _ => ⟨ho, hf, hh⟩
      exact ⟨by rw [State.arbitrate_quiet hq]; exact hq, State.arbitrate_quiet hq⟩
    | some f =>
      have he : u.arbitrate = u.takeHeld f := by
        unfold State.arbitrate
        simp [hs, ho, hf, hh]
      obtain ⟨_, _, k1, k2, k3⟩ := takeHeld_same u f
      exact ⟨by rw [he]; exact fun _ => ⟨k1.trans ho, k2.trans hf, k3⟩, he⟩

/-- The arbiter at an idle engine: its jobs, and then its held frame (R68). -/
theorem State.settled_idle {s : State} (hi : s.engine.state = .idle) : s.settled =
    match s.startsJob.engine.state, s.startsJob.aperture.held with
    | .idle, some f => s.startsJob.takeHeld f
    | _, _ => s.startsJob := by
  by_cases ho : s.engine.ownerResetPending = true
  · have hw := State.wiping_busy { s with engine := { s.engine with ownerResetPending := false } }
    rw [State.settled_ownerReset hi ho, State.startsJob, if_pos ho]
    split
    · next h _ => exact absurd h hw
    · rfl
  · have ho' : s.engine.ownerResetPending = false := by simpa using ho
    by_cases hf : s.engine.floorBurnPending = true
    · have h1 : s.arbitrate = s.startsJob := by
        rw [State.startsJob, if_neg ho, if_pos hf, ← onBurns_goOn (owner := .job) (by simp) _ (by simp)]
        have : s.arbitrate = s.startFloorBurn := by
          simp only [State.arbitrate, hi, ho', hf, Bool.false_eq_true, if_false, if_true]
        rw [this]
        rfl
      obtain ⟨_, _, k1, k2, _⟩ := startFloorBurn_same s
      have h2 : s.startsJob = s.startFloorBurn := by
        rw [← h1]
        simp only [State.arbitrate, hi, ho', hf, Bool.false_eq_true, if_false, if_true]
      have k := State.arbitrate_held (u := s.startsJob) (by rw [h2, k1, ho']) (by rw [h2, k2])
      rw [State.settled, h1, State.arbitrate_quiet k.1, State.arbitrate_quiet k.1]
      exact k.2
    · have hf' : s.engine.floorBurnPending = false := by simpa using hf
      have k := State.arbitrate_held ho' hf'
      have h2 : s.startsJob = s := by
        rw [State.startsJob, if_neg ho, if_neg hf]
      rw [State.settled, State.arbitrate_quiet k.1, State.arbitrate_quiet k.1, State.arbitrate_quiet k.1,
        h2]
      exact k.2

/-! ### A held frame is taken as its row takes it -/

/-- A part with what it has put on the buses before, a frame in reception, and another refused-frame count. -/
def State.overlaid (s : State) (o : Outputs) (rx : Option (List Byte)) (n : Nat) : State :=
  { s with
    out := ⟨o.toSoc ++ s.out.toSoc, o.toFlash ++ s.out.toFlash⟩
    aperture := { s.aperture with rx := rx, resp := { s.aperture.resp with refused := n } } }

/-- The gating does not look at it (R72). -/
theorem State.gated_overlaid {s : State} (o : Outputs) (rx : Option (List Byte)) (n : Nat) {f : Frame}
    {only : Option Lifecycle} {cond : Cond} {ok : Bool} {ps ss : List Check} {b : Bool}
    {act act' : State → State} (h : act' (s.overlaid o rx n) = (act s).overlaid o rx n) :
    (s.overlaid o rx n).gated f only cond ok ps ss b act' =
      (s.gated f only cond ok ps ss b act).overlaid o rx n := by
  have e : (s.overlaid o rx n).gated f only cond ok ps ss b act' =
      match firstFailing ([lifecycleCheck s only, (cond.holds s.stage, .detailed .stageDenied 0),
        (decide (f.reserved = 0) && ok, Reply.reservedField)] ++ ps ++ ss ++
        [(!b || s.supply.normal, Reply.plain .supplyLow)]) with
      | some refusal => (s.overlaid o rx n).endCommand refusal
      | none => act' (s.overlaid o rx n) := rfl
  rw [e, State.gated]
  generalize firstFailing _ = r
  cases r with
  | none => exact h
  | some a => rfl

/-- No command looks at it. -/
theorem dispatch_overlaid (s : State) (f : Frame) (o : Outputs) (rx : Option (List Byte)) (n : Nat) :
    dispatch f (s.overlaid o rx n) = (dispatch f s).overlaid o rx n := by
  have hr : ∀ (t : State) b w, ((t.overlaid o rx n).requestBurn b w) =
      ((t.requestBurn b w).1.overlaid o rx n, (t.requestBurn b w).2) := by
    intro t b w
    have e : ∀ u : State, (u.overlaid o rx n).takeBurn b w =
        ((u.takeBurn b w).1.overlaid o rx n, (u.takeBurn b w).2) := by
      intro u
      have e : (u.overlaid o rx n).takeBurn b w =
        if u.fuses.image.burned b then (u.overlaid o rx n, some .burned)
        else if u.supply.normal then
          (({ u with fuses := { u.fuses with burn := some ⟨b, 0, w⟩ } } : State).overlaid o rx n, none)
        else (u.overlaid o rx n, some .supplyStop) := rfl
      rw [e, State.takeBurn]
      split
      · rfl
      · split <;> rfl
    have e2 : (t.overlaid o rx n).requestBurn b w = match t.fuses.burn with
      | some _ => (({ t with fuses := { t.fuses with
          queue := t.fuses.queue ++ [⟨b, w⟩] } } : State).overlaid o rx n, none)
      | none => (t.overlaid o rx n).takeBurn b w := rfl
    rw [e2, State.requestBurn]
    cases hb : t.fuses.burn with
    | none => exact e t
    | some d => rfl
  have hc : ∀ (t : State) (g : Geometry) (x : SlotId),
      (t.overlaid o rx n).startVerify g x = (t.startVerify g x).overlaid o rx n := by
    intro t g x
    have e : ∀ u : State, (u.overlaid o rx n).requestChunk (slotBase g x) Config.chunkSize =
        match u.down.port with
        | .idle => (({ u with down := { u.down with
            port := .carryingChunk, chunk := ⟨slotBase g x, Config.chunkSize, [], .inFlight⟩ } } :
            State).overlaid o rx n).toFlash [.readFrom (slotBase g x)]
        | _ => ({ u with down := { u.down with
            chunk := ⟨slotBase g x, Config.chunkSize, [], .waiting⟩ } } : State).overlaid o rx n :=
      fun u => rfl
    change State.requestChunk (State.overlaid { t with ve := _ } o rx n) _ _ = _
    rw [e, State.startVerify, State.requestChunk]
    cases t.down.port with
    | idle => simp [State.toFlash, State.overlaid]
    | carryingSoc => rfl
    | flashBusy => rfl
    | carryingChunk => rfl
  have hg : ∀ (t : State) b, (t.overlaid o rx n).gateUse b = (t.gateUse b).overlaid o rx n := by
    intro t b
    unfold State.gateUse
    split <;> rfl
  unfold dispatch
  split
  · unfold cmdIdentify
    exact State.gated_overlaid o rx n rfl
  · unfold cmdSlotStatus
    exact State.gated_overlaid o rx n rfl
  · unfold cmdPolicyRead
    exact State.gated_overlaid o rx n rfl
  · unfold cmdLogRead
    exact State.gated_overlaid o rx n rfl
  · unfold cmdCertRead
    exact State.gated_overlaid o rx n rfl
  · unfold cmdKeyPublic
    exact State.gated_overlaid o rx n rfl
  · unfold cmdCredList
    exact State.gated_overlaid o rx n rfl
  · unfold cmdEventsRead
    exact State.gated_overlaid o rx n rfl
  · unfold cmdStageAdvance
    refine State.gated_overlaid o rx n ?_
    unfold State.advanceStage State.closeGate
    simp only
    have e : (s.overlaid o rx n).cred.gateOpen = s.cred.gateOpen := rfl
    rw [e]
    split <;> rfl
  · unfold cmdMeasureExtend
    exact State.gated_overlaid o rx n rfl
  · unfold cmdPolicyTighten
    split
    · unfold cmdTightenA
      exact State.gated_overlaid o rx n rfl
    · split
      · unfold cmdTightenB
        refine State.gated_overlaid o rx n ?_
        simp only
        split <;> rfl
      · exact State.gated_overlaid o rx n rfl
  · unfold cmdQuote
    exact State.gated_overlaid o rx n rfl
  · unfold cmdUpdateVerify
    refine State.gated_overlaid o rx n ?_
    exact congrArg (fun u => State.work u (.verify s.target))
      (hc (s.setSlot s.target (s.slot s.target).verifying) s.filter.geo s.target)
  · unfold cmdUpdateArm
    exact State.gated_overlaid o rx n rfl
  · unfold cmdUpdateDisarm
    exact State.gated_overlaid o rx n rfl
  · unfold cmdUpdateConfirm
    exact State.gated_overlaid o rx n rfl
  · unfold cmdReboot
    exact State.gated_overlaid o rx n rfl
  · unfold cmdKeySign
    refine State.gated_overlaid o rx n ?_
    simp only [hg]
    rfl
  · unfold cmdKeyGenerate
    exact State.gated_overlaid o rx n rfl
  · unfold cmdKeyErase
    exact State.gated_overlaid o rx n rfl
  · unfold cmdCredCheck
    exact State.gated_overlaid o rx n rfl
  · unfold cmdCredSet
    refine State.gated_overlaid o rx n ?_
    split
    · next id label rest _ =>
      unfold State.setCred
      have e : (s.overlaid o rx n).proofCase id = s.proofCase id := rfl
      simp only [e]
      split <;> rcases rest with p | ⟨c, g, v⟩ <;> rfl
    · rfl
  · unfold cmdCredGet
    refine State.gated_overlaid o rx n ?_
    simp only [hg]
    rfl
  · unfold cmdCredDelete
    exact State.gated_overlaid o rx n rfl
  · unfold cmdGateClose
    exact State.gated_overlaid o rx n rfl
  · unfold cmdEventsAck
    exact State.gated_overlaid o rx n rfl
  · unfold cmdEventsEnable
    exact State.gated_overlaid o rx n rfl
  · unfold cmdProvConfig
    exact State.gated_overlaid o rx n rfl
  · unfold cmdProvIdentity
    exact State.gated_overlaid o rx n rfl
  · unfold cmdProvAuthority
    exact State.gated_overlaid o rx n rfl
  · unfold cmdProvCert
    exact State.gated_overlaid o rx n rfl
  · unfold cmdProvDeploy
    refine State.gated_overlaid o rx n ?_
    simp only [State.deployTry, hr]
    rcases s.requestBurn ⟨.lifecycle, 0⟩ .command with ⟨t, _ | o'⟩
    · rfl
    · cases o' <;> rfl
  · rfl

/-- A row of a service command on a part that holds no frame and whose engine is idle with nothing pending, and
the same frame taken by the arbiter (R66, R68). -/
theorem State.takeHeld_row {u v : State} {row : Instr} {code : Byte} {r : Request}
    (hrow : serviceRow row = some (code, r)) (hf : r.fits = true) (hp : u.powered = true)
    (hs : u.stage ≠ .s0) (hi : u.engine.state = .idle) (ho : u.engine.ownerResetPending = false)
    (hb : u.engine.floorBurnPending = false) (he : exec row u.unheld = .next v) :
    u.takeHeld ⟨code, r.tag, r.reserved, r.params⟩ = u.afterHeld v := by
  have hready : u.unheld.Ready := ⟨hp, hs, hi, ho, hb, rfl⟩
  have hd := dispatch_same (requestFrame code r) (u.unheld.taken code r)
  obtain ⟨_, _, k1, k2, k3⟩ := hd
  rw [exec_service_row hrow, State.perform_service hready code r hf rfl
    fun _ => ⟨k1.trans ho, k2.trans hb, k3⟩] at he
  cases he
  have h1 : u.takeHeld ⟨code, r.tag, r.reserved, r.params⟩ = dispatch (requestFrame code r)
      ((u.unheld.taken code r).overlaid u.out u.aperture.rx u.aperture.resp.refused) := by
    unfold State.takeHeld
    simp [State.overlaid, State.taken, State.unheld, Response.running, Response.empty, requestFrame]
  rw [h1, dispatch_overlaid]
  rfl

/-- A code of no row is answered UNKNOWN_COMMAND (R72). -/
theorem dispatch_unlisted {f : Frame} (h : ∀ row r, serviceRow row ≠ some (f.code, r)) (s : State) :
    dispatch f s = s.endCommand (.plain .unknownCommand) := by
  have hc : ∀ (n : Nat), f.code.toNat = n → n < 256 → f.code = BitVec.ofNat 8 n := by
    intro n hn hl
    apply BitVec.eq_of_toNat_eq
    simp [hn, Nat.mod_eq_of_lt hl]
  have no : ∀ (i : Request → Instr) (n : Nat), n < 256 →
      (∀ r, serviceRow (i r) = some (BitVec.ofNat 8 n, r)) → f.code.toNat ≠ n := by
    intro i n hl hi hn
    exact h (i ⟨0, 0, []⟩) ⟨0, 0, []⟩ (by rw [hi, hc n hn hl])
  unfold dispatch
  split
  · next e => exact absurd e (no .identify _ (by decide) fun _ => rfl)
  · next e => exact absurd e (no .slotStatus _ (by decide) fun _ => rfl)
  · next e => exact absurd e (no .policyRead _ (by decide) fun _ => rfl)
  · next e => exact absurd e (no .logRead _ (by decide) fun _ => rfl)
  · next e => exact absurd e (no .certRead _ (by decide) fun _ => rfl)
  · next e => exact absurd e (no .keyPublic _ (by decide) fun _ => rfl)
  · next e => exact absurd e (no .credList _ (by decide) fun _ => rfl)
  · next e => exact absurd e (no .eventsRead _ (by decide) fun _ => rfl)
  · next e => exact absurd e (no .stageAdvance _ (by decide) fun _ => rfl)
  · next e => exact absurd e (no .measureExtend _ (by decide) fun _ => rfl)
  · next e => exact absurd e (no .policyTighten _ (by decide) fun _ => rfl)
  · next e => exact absurd e (no .quote _ (by decide) fun _ => rfl)
  · next e => exact absurd e (no .updateVerify _ (by decide) fun _ => rfl)
  · next e => exact absurd e (no .updateArm _ (by decide) fun _ => rfl)
  · next e => exact absurd e (no .updateDisarm _ (by decide) fun _ => rfl)
  · next e => exact absurd e (no .updateConfirm _ (by decide) fun _ => rfl)
  · next e => exact absurd e (no .reboot _ (by decide) fun _ => rfl)
  · next e => exact absurd e (no .keySign _ (by decide) fun _ => rfl)
  · next e => exact absurd e (no .keyGenerate _ (by decide) fun _ => rfl)
  · next e => exact absurd e (no .keyErase _ (by decide) fun _ => rfl)
  · next e => exact absurd e (no .credCheck _ (by decide) fun _ => rfl)
  · next e => exact absurd e (no .credSet _ (by decide) fun _ => rfl)
  · next e => exact absurd e (no .credGet _ (by decide) fun _ => rfl)
  · next e => exact absurd e (no .credDelete _ (by decide) fun _ => rfl)
  · next e => exact absurd e (no .gateClose _ (by decide) fun _ => rfl)
  · next e => exact absurd e (no .eventsAck _ (by decide) fun _ => rfl)
  · next e => exact absurd e (no .eventsEnable _ (by decide) fun _ => rfl)
  · next e => exact absurd e (no .provConfig _ (by decide) fun _ => rfl)
  · next e => exact absurd e (no .provIdentity _ (by decide) fun _ => rfl)
  · next e => exact absurd e (no .provAuthority _ (by decide) fun _ => rfl)
  · next e => exact absurd e (no .provCert _ (by decide) fun _ => rfl)
  · next e => exact absurd e (no .provDeploy _ (by decide) fun _ => rfl)
  · rfl

/-! ### The ends of the engine's work do not look at what waits (R68) -/

section
variable (a b : Bool) (h : Option Frame)

/-- Either branch of a choice. -/
theorem withWork_ite {c : Prop} [Decidable c] {x y x' y' : State} (e : x' = x.withWork a b h)
    (g : y' = y.withWork a b h) :
    (if c then x' else y') = (if c then x else y).withWork a b h := by
  split
  · exact e
  · exact g

/-- The abort of a command (R71). -/
theorem abortCommand_withWork (s : State) (w : CmdWork) :
    (s.withWork a b h).abortCommand w = (s.abortCommand w).withWork a b h := by
  cases w <;> rfl

/-- The look at an abort point (R71). -/
theorem observeAbort_withWork (s : State) :
    (s.withWork a b h).observeAbort = (s.observeAbort).withWork a b h := by
  have e : (s.withWork a b h).observeAbort = match s.engine.state with
    | .command w =>
      if s.engine.abortRequest && !s.supply.normal && w.waitAborts && s.commandWaits
          && !s.commandWrites then
        (s.withWork a b h).abortCommand w
      else s.withWork a b h
    | .idle => s.withWork a b h
    | .job _ => s.withWork a b h := rfl
  rw [e, State.observeAbort]
  cases s.engine.state with
  | idle => rfl
  | job w => rfl
  | command w =>
    simp only
    split
    · exact abortCommand_withWork a b h s _
    · rfl

/-- A finished signature (R134). -/
theorem finishSignature_withWork (s : State) :
    (s.withWork a b h).finishSignature = s.finishSignature.withWork a b h := by
  unfold State.finishSignature
  rw [show (s.withWork a b h).engine.state = s.engine.state from rfl,
    show (s.withWork a b h).draws = s.draws from rfl]
  split
  · simp only
    generalize P256.signDraws _ _ _ _ = r
    rfl
  · rfl

/-- A write asked for (R124). -/
theorem request_withWork (s : State) (rec : RecordId) (who : Who) (c : Change) :
    (s.withWork a b h).request rec who c = (s.request rec who c).withWork a b h := rfl

/-- The command at work. -/
theorem work_withWork (s : State) (w : CmdWork) :
    (s.withWork a b h).work w = (s.work w).withWork a b h := rfl

/-- Writes asked for in turn (R124). -/
theorem requestAll_withWork (s : State) (who : Who) (l : List (RecordId × Change)) :
    (s.withWork a b h).requestAll who l = (s.requestAll who l).withWork a b h := by
  unfold State.requestAll
  induction l generalizing s with
  | nil => rfl
  | cons e l ih =>
    simp only [List.foldl_cons]
    rw [request_withWork]
    exact ih _

/-- A finished generation (R134). -/
theorem finishGeneration_withWork (s : State) :
    (s.withWork a b h).finishGeneration = s.finishGeneration.withWork a b h := by
  unfold State.finishGeneration
  rw [show (s.withWork a b h).engine.state = s.engine.state from rfl,
    show (s.withWork a b h).draws = s.draws from rfl]
  split
  · simp only
    generalize KeyRec.pair _ _ _ _ = k
    exact congrArg (fun u => State.work u _)
      (request_withWork a b h ({ s with draws := s.draws + 1 } : State) _ _ _)
  · simp only
    generalize KeyRec.pair (Config.randomScalar s.draws) _ _ _ = k
    generalize KeyRec.pair _ _ _ _ = k'
    exact congrArg (fun u => State.work u _)
      (requestAll_withWork a b h ({ s with draws := s.draws + 2 } : State) _ _)
  · rfl

/-- A burn taken (R119). -/
theorem takeBurn_withWork (u : State) (t : FuseBit) (o : BurnOwner) :
    (u.withWork a b h).takeBurn t o = ((u.takeBurn t o).1.withWork a b h, (u.takeBurn t o).2) := by
  have e : (u.withWork a b h).takeBurn t o =
      if u.fuses.image.burned t then (u.withWork a b h, some .burned)
      else if u.supply.normal then
        (({ u with fuses := { u.fuses with burn := some ⟨t, 0, o⟩ } } : State).withWork a b h, none)
      else (u.withWork a b h, some .supplyStop) := rfl
  rw [e, State.takeBurn]
  split
  · rfl
  · split <;> rfl

/-- A burn asked for (R119). -/
theorem requestBurn_withWork (s : State) (t : FuseBit) (o : BurnOwner) :
    (s.withWork a b h).requestBurn t o =
      ((s.requestBurn t o).1.withWork a b h, (s.requestBurn t o).2) := by
  have e2 : (s.withWork a b h).requestBurn t o = match s.fuses.burn with
    | some _ => (({ s with fuses := { s.fuses with
        queue := s.fuses.queue ++ [⟨t, o⟩] } } : State).withWork a b h, none)
    | none => (s.withWork a b h).takeBurn t o := rfl
  rw [e2, State.requestBurn]
  cases hb : s.fuses.burn with
  | none => exact takeBurn_withWork a b h s t o
  | some d => rfl

/-- The burns go on (R111, R114). -/
theorem goOnBurns_withWork (s : State) (o : BurnOwner) (q : BurnSeq) :
    (s.withWork a b h).goOnBurns o q = ((s.goOnBurns o q).1.withWork a b h, (s.goOnBurns o q).2) := by
  have e : (s.withWork a b h).goOnBurns o q =
    match nextBurn s.fuses.image s.slots.pendingFloor s.slots.pendingRevoke q with
    | .finished q => (s.withWork a b h, .finished q)
    | .bit t q =>
      if s.supply.normal then (((s.withWork a b h).requestBurn t o).1, .busy q)
      else (s.withWork a b h, .stopped q) := rfl
  rw [e, State.goOnBurns]
  cases nextBurn s.fuses.image s.slots.pendingFloor s.slots.pendingRevoke q with
  | finished q => rfl
  | bit t q =>
    simp only [requestBurn_withWork]
    split <;> rfl

/-- UPDATE_CONFIRM after its burns (R111). -/
theorem onCommandBurns_withWork (s : State) (r : BurnStatus) :
    State.onCommandBurns (s.withWork a b h, r) = (State.onCommandBurns (s, r)).withWork a b h := by
  have hf : ∀ q, (s.withWork a b h).faultIf q = (s.faultIf q).withWork a b h := by
    intro q
    unfold State.faultIf
    split <;> rfl
  cases r <;> simp only [State.onCommandBurns, hf] <;> rfl

/-- FLOOR_BURN after its burns (R114). -/
theorem onJobBurns_withWork (s : State) (r : BurnStatus) :
    State.onJobBurns (s.withWork a b h, r) = (State.onJobBurns (s, r)).withWork a b h := by
  have hf : ∀ q, (s.withWork a b h).faultIf q = (s.faultIf q).withWork a b h := by
    intro q
    unfold State.faultIf
    split <;> rfl
  cases r <;> simp only [State.onJobBurns, hf]
  · rfl
  · rfl
  · split <;> rfl

/-- UPDATE_CONFIRM after a SLOT write (R111). -/
theorem confirmNext_withWork (s : State) (l : List RecordId) :
    (s.withWork a b h).confirmNext l = (s.confirmNext l).withWork a b h := by
  cases l with
  | nil =>
    simp only [State.confirmNext, goOnBurns_withWork]
    exact onCommandBurns_withWork a b h _ _
  | cons r rs => rfl

/-- The command told of a completion (R125). -/
theorem tellCommand_withWork (s : State) (rec : RecordId) (w : CmdWork) :
    (s.withWork a b h).tellCommand rec w = (s.tellCommand rec w).withWork a b h := by
  cases w <;> simp only [State.tellCommand, confirmNext_withWork]
  case verifyStore x o => rfl
  case store l p => split <;> rfl
  case credIncrement id c =>
    unfold State.credCompare
    refine withWork_ite a b h rfl ?_
    unfold State.credMismatch State.startPenalty
    simp only
    rw [show (s.withWork a b h).cred = s.cred from rfl]
    split
    · rfl
    · split <;> rfl
  case credClear id =>
    unfold State.credMatched
    split <;> rfl
  case deploySlots bit l => split <;> rfl

/-- The job told of a completion (R125). -/
theorem tellJob_withWork (s : State) (rec : RecordId) (w : JobWork) :
    (s.withWork a b h).tellJob rec w = (s.tellJob rec w).withWork a b h := by
  cases w with
  | wipe l =>
    simp only [State.tellJob]
    cases l.erase rec with
    | nil =>
      change (s.withWork a b h).wipeCounters = s.wipeCounters.withWork a b h
      exact withWork_ite a b h rfl rfl
    | cons r rs => rfl
  | wipeCounters => rfl
  | floorBurn q => rfl

/-- Every requester told (R125). -/
theorem tell_withWork (s : State) (rec : RecordId) (rs : List Requester) :
    (s.withWork a b h).tell rec rs = (s.tell rec rs).withWork a b h := by
  unfold State.tell
  rw [show (s.withWork a b h).engine.state = s.engine.state from rfl]
  split
  · rfl
  · exact withWork_ite a b h (tellCommand_withWork a b h _ _ _) rfl
  · exact withWork_ite a b h (tellJob_withWork a b h _ _ _) rfl

/-- A completed record write (R125). -/
theorem recordComplete_withWork (s : State) :
    (s.withWork a b h).recordComplete = s.recordComplete.withWork a b h := by
  unfold State.recordComplete
  rw [show (s.withWork a b h).records.writing = s.records.writing from rfl]
  split
  · rfl
  · next w _ =>
    simp only [State.completeWrite]
    rw [← observeAbort_withWork, ← tell_withWork]
    rfl

/-- PROV_DEPLOY tries a bit (R146). -/
theorem deployTry_withWork (s : State) (bit : Nat) :
    (s.withWork a b h).deployTry bit = (s.deployTry bit).withWork a b h := by
  simp only [State.deployTry, requestBurn_withWork]
  rcases s.requestBurn ⟨.lifecycle, bit⟩ .command with ⟨t, _ | o⟩
  · rfl
  · cases o <;> rfl

/-- The burns after one of their bits (R111). -/
theorem afterBurn_withWork (s : State) (o : BurnOwner) (q : BurnSeq) (row : FuseRow)
    (r : BurnOutcome) : (s.withWork a b h).afterBurn o q row r =
      ((s.afterBurn o q row r).1.withWork a b h, (s.afterBurn o q row r).2) := by
  cases r with
  | burned => exact goOnBurns_withWork a b h _ _ _
  | supplyStop => rfl
  | failed => exact goOnBurns_withWork a b h _ _ _

/-- A bit burn told of (R119). -/
theorem burnEnded_withWork {s : State} (hn : s.flow.phase = .none) (o : BurnOwner) (t : FuseBit)
    (r : BurnOutcome) : (s.withWork a b h).burnEnded o t r = (s.burnEnded o t r).withWork a b h := by
  unfold State.burnEnded
  rw [show (s.withWork a b h).engine.state = s.engine.state from rfl,
    show (s.withWork a b h).flow.phase = .none from hn, hn]
  cases o with
  | orphan => rfl
  | flow => rfl
  | command =>
    simp only
    split
    · rw [afterBurn_withWork]
      exact onCommandBurns_withWork a b h _ _
    · cases r with
      | burned => rfl
      | supplyStop => rfl
      | failed =>
        exact withWork_ite a b h (deployTry_withWork a b h _ _) rfl
    · rfl
  | job =>
    simp only
    split
    · rw [afterBurn_withWork]
      exact onJobBurns_withWork a b h _ _
    · rfl

/-- A burn asked for leaves the flow. -/
theorem requestBurn_flow (s : State) (t : FuseBit) (o : BurnOwner) :
    (s.requestBurn t o).1.flow = s.flow := by
  unfold State.requestBurn State.takeBurn
  repeat' split
  all_goals rfl

/-- The burns leave the flow. -/
theorem goOnBurns_flow (s : State) (o : BurnOwner) (q : BurnSeq) :
    (s.goOnBurns o q).1.flow = s.flow := by
  unfold State.goOnBurns
  split
  · rfl
  · split
    · exact requestBurn_flow s _ _
    · rfl

/-- The burns after one of their bits leave the flow. -/
theorem afterBurn_flow (s : State) (o : BurnOwner) (q : BurnSeq) (row : FuseRow) (r : BurnOutcome) :
    (s.afterBurn o q row r).1.flow = s.flow := by
  cases r with
  | burned => exact goOnBurns_flow s o q
  | supplyStop => rfl
  | failed => exact goOnBurns_flow s o _

/-- FUSE_FAULT leaves the flow. -/
theorem faultIf_flow (s : State) (q : BurnSeq) : (s.faultIf q).flow = s.flow := by
  unfold State.faultIf
  split <;> rfl

/-- UPDATE_CONFIRM after its burns leaves the flow. -/
theorem onCommandBurns_flow (r : State × BurnStatus) : (State.onCommandBurns r).flow = r.1.flow := by
  rcases r with ⟨s, q | q | q⟩ <;>
    simp [State.onCommandBurns, State.confirmEnd, faultIf_flow]

/-- FLOOR_BURN after its burns leaves the flow. -/
theorem onJobBurns_flow (r : State × BurnStatus) : (State.onJobBurns r).flow = r.1.flow := by
  rcases r with ⟨s, q | q | q⟩ <;> simp only [State.onJobBurns]
  · simp [faultIf_flow]
  · simp [faultIf_flow]
  · split <;> simp

/-- A LIFECYCLE bit tried leaves the flow. -/
theorem deployTry_flow (s : State) (bit : Nat) : (s.deployTry bit).flow = s.flow := by
  have k := requestBurn_flow s ⟨.lifecycle, bit⟩ .command
  unfold State.deployTry
  split <;> next e => rw [e] at k; simpa [State.deployBurned, State.changeSlotTold] using k

/-- Outside a flow the end of a bit burn starts none (R119). -/
theorem burnEnded_flow {s : State} (hn : s.flow.phase = .none) (o : BurnOwner) (t : FuseBit)
    (r : BurnOutcome) : (s.burnEnded o t r).flow = s.flow := by
  unfold State.burnEnded
  rw [hn]
  cases o with
  | orphan => rfl
  | flow => rfl
  | command =>
    simp only
    split
    · exact (onCommandBurns_flow _).trans (afterBurn_flow s .command _ t.row r)
    · cases r with
      | burned => simp [State.onDeployBurn, State.deployBurned, State.changeSlotTold]
      | supplyStop => rfl
      | failed =>
        simp only [State.onDeployBurn]
        split
        · exact deployTry_flow s _
        · simp
    · rfl
  | job =>
    simp only
    split
    · exact (onJobBurns_flow _).trans (afterBurn_flow s .job _ t.row r)
    · rfl

/-- A burn taken leaves the flow. -/
theorem takeBurn_flow (s : State) (t : FuseBit) (o : BurnOwner) :
    (s.takeBurn t o).1.flow = s.flow := by
  unfold State.takeBurn
  repeat' split
  all_goals rfl

/-- The waiting burns leave the flow. -/
theorem takeQueue_flow : ∀ (l : List BurnRequest) (s : State), (takeQueue l s).1.flow = s.flow
  | [], _ => rfl
  | r :: rs, s => by
    simp only [takeQueue]
    split
    · rfl
    · have k := takeBurn_flow s r.target r.owner
      split <;> next e =>
        rw [e] at k
        exact (takeQueue_flow rs _).trans k

/-- A read-back leaves the flow. -/
theorem readBack_flow (s : State) (d : BitBurn) (r : Bool) : (s.readBack d r).1.flow = s.flow := by
  unfold State.readBack
  split
  · rfl
  · simp only
    split
    · rfl
    · split <;> rfl

/-- The waiting burns that ended (R119). -/
theorem queueEnded_withWork : ∀ (l : List (BurnRequest × BurnOutcome)) {s : State},
    s.flow.phase = .none →
    (s.withWork a b h).queueEnded l = (s.queueEnded l).withWork a b h
  | [], _, _ => rfl
  | e :: l, s, hn => by
    have k := queueEnded_withWork l ((burnEnded_flow hn e.1.owner e.1.target e.2) ▸ hn)
    simp only [State.queueEnded, List.foldl_cons] at k ⊢
    rw [burnEnded_withWork a b h hn]
    exact k

/-- The waiting burns taken (R119). -/
theorem takeQueue_withWork : ∀ (l : List BurnRequest) (s : State),
    takeQueue l (s.withWork a b h) = ((takeQueue l s).1.withWork a b h, (takeQueue l s).2)
  | [], _ => rfl
  | r :: rs, s => by
    have k := takeQueue_withWork rs (s.takeBurn r.target r.owner).1
    simp only [takeQueue, takeBurn_withWork]
    rw [show (s.withWork a b h).fuses = s.fuses from rfl]
    split
    · rfl
    · rcases he : s.takeBurn r.target r.owner with ⟨t, _ | o⟩
      · simpa [he] using k
      · rw [he] at k
        simp only [k]

/-- A read-back (R119). -/
theorem readBack_withWork (s : State) (d : BitBurn) (r : Bool) :
    (s.withWork a b h).readBack d r = ((s.readBack d r).1.withWork a b h, (s.readBack d r).2) := by
  unfold State.readBack
  rw [show (s.withWork a b h).fuses = s.fuses from rfl, show (s.withWork a b h).supply = s.supply from rfl]
  split
  · rfl
  · simp only
    split
    · rfl
    · split <;> rfl

/-- A read-back (R119). -/
theorem fuseAttempt_withWork {s : State} (hn : s.flow.phase = .none) (d : BitBurn) (r : Bool) :
    (s.withWork a b h).fuseAttempt d r = (s.fuseAttempt d r).withWork a b h := by
  unfold State.fuseAttempt
  rw [readBack_withWork]
  have k := readBack_flow s d r
  rcases he : s.readBack d r with ⟨t, _ | o⟩
  · rfl
  · rw [he] at k
    simp only [takeQueue_withWork, show (t.withWork a b h).fuses = t.fuses from rfl]
    have kf := takeQueue_flow t.fuses.queue t
    rcases hq : takeQueue t.fuses.queue t with ⟨u, l⟩
    rw [hq] at kf
    have hu : u.flow.phase = .none := by
      rw [show u.flow = s.flow from kf.trans k]
      exact hn
    simp only
    rw [burnEnded_withWork a b h hu]
    exact queueEnded_withWork a b h l (by rw [burnEnded_flow hu]; exact hu)

/-- A chunk asked for (R31). -/
theorem requestChunk_withWork (s : State) (x n : Nat) :
    (s.withWork a b h).requestChunk x n = (s.requestChunk x n).withWork a b h := by
  have e : (s.withWork a b h).requestChunk x n = match s.down.port with
    | .idle => (({ s with down := { s.down with
        port := .carryingChunk, chunk := ⟨x, n, [], .inFlight⟩ } } : State).toFlash
          [.readFrom x]).withWork a b h
    | _ => ({ s with down := { s.down with chunk := ⟨x, n, [], .waiting⟩ } } : State).withWork a b h :=
    rfl
  rw [e, State.requestChunk]
  cases s.down.port <;> rfl

/-- Step 6 goes on (R85). -/
theorem goOnImage_withWork (s : State) (g : Geometry) (x : SlotId) :
    (s.withWork a b h).goOnImage g x =
      ((s.goOnImage g x).1.withWork a b h, (s.goOnImage g x).2) := by
  unfold State.goOnImage
  rw [show (s.withWork a b h).ve = s.ve from rfl]
  simp only [requestChunk_withWork]
  split
  · rfl
  · generalize judgeImage _ _ _ = o
    rfl

/-- A chunk's bytes in the procedure (R81, R85). -/
theorem feedVerify_withWork (s : State) (g : Geometry) (data : List Byte) :
    (s.withWork a b h).feedVerify g data =
      ((s.feedVerify g data).1.withWork a b h, (s.feedVerify g data).2) := by
  have hc : checkManifest (s.withWork a b h) g data = checkManifest s g data := rfl
  have hv : ∀ v, { s.withWork a b h with ve := v } = ({ s with ve := v } : State).withWork a b h :=
    fun _ => rfl
  unfold State.feedVerify
  rw [show (s.withWork a b h).ve = s.ve from rfl, hc]
  simp only [hv, goOnImage_withWork]
  split
  · split <;> rfl
  · rfl
  · rfl
  · rfl

/-- UPDATE_VERIFY after a chunk (R102, R104). -/
theorem commandChunk_withWork (s : State) (x : SlotId) (data : List Byte) :
    (s.withWork a b h).commandChunk x data = (s.commandChunk x data).withWork a b h := by
  unfold State.commandChunk
  refine withWork_ite a b h (abortCommand_withWork a b h s _) ?_
  rw [show (s.withWork a b h).filter = s.filter from rfl, feedVerify_withWork]
  rcases s.feedVerify s.filter.geo data with ⟨t, _ | o⟩
  · rfl
  · change ((State.work (State.request _ _ _ _) _).withWork a b h).observeAbort = _
    exact observeAbort_withWork a b h _

/-- A completed chunk outside a flow (R31). -/
theorem chunkDone_withWork {s : State} (hn : s.flow.phase = .none) (d : List Byte) :
    (s.withWork a b h).chunkDone d = (s.chunkDone d).withWork a b h := by
  have hf : ∀ u : State, u.flow.phase = .none → u.flowChunk d = u := by
    intro u hu
    simp only [State.flowChunk, hu]
  unfold State.chunkDone
  rw [hf s hn, hf (s.withWork a b h) hn, show (s.withWork a b h).engine.state = s.engine.state from rfl]
  split
  · exact commandChunk_withWork a b h _ _ _
  · rfl

/-- A chunk's bytes, while no flow is in progress (R31, R32). -/
theorem chunkBytes_withWork {s : State} (hn : s.flow.phase = .none) (data : List Byte) :
    (s.withWork a b h).chunkBytes data = (s.chunkBytes data).withWork a b h := by
  have hd : ∀ d, { s.withWork a b h with down := d } = ({ s with down := d } : State).withWork a b h :=
    fun _ => rfl
  unfold State.chunkBytes
  rw [show (s.withWork a b h).down = s.down from rfl]
  simp only [hd]
  split
  · rfl
  · rfl
  · exact withWork_ite a b h rfl
      (chunkDone_withWork a b h
        (s := { s with down := { s.down with port := .idle, chunk := Chunk.absent } }) hn _)

/-- Entry into LOW (R131). -/
theorem enterLow_withWork (s : State) :
    (s.withWork a b h).enterLow = s.enterLow.withWork a b h := by
  unfold State.enterLow
  rw [← observeAbort_withWork]
  congr 1
  exact withWork_ite a b h rfl rfl

/-- ENTRY_INTO_LOW (R131). -/
theorem entersLow_withWork (s : State) :
    (if (s.withWork a b h).supply.normal then (s.withWork a b h).enterLow else s.withWork a b h) =
      (if s.supply.normal then s.enterLow else s).withWork a b h := by
  rw [show (s.withWork a b h).supply.normal = s.supply.normal from rfl]
  exact withWork_ite a b h (enterLow_withWork a b h s) rfl

/-- An abort where no frame is QUEUED (R70, R71). -/
theorem abort_withWork {s : State} (hq : s.aperture.resp.state ≠ .queued) :
    (s.withWork a b h).abort = s.abort.withWork a b h := by
  have e : (s.withWork a b h).dropReception.aperture.resp.state = s.aperture.resp.state := rfl
  have e2 : s.dropReception.aperture.resp.state = s.aperture.resp.state := rfl
  simp only [State.abort, e, e2]
  cases hs : s.aperture.resp.state with
  | empty => rfl
  | queued => exact absurd hs hq
  | running =>
    exact observeAbort_withWork a b h
      { s.dropReception with engine := { s.dropReception.engine with abortRequest := true } }
  | done => rfl

/-- A write unit outside the aperture (R40, R49). -/
theorem judgeUnit_withWork (s : State) (p : Snapshot) (cls : TxClass) (base size first : Nat)
    (covers : Nat → Bool) (op : Nat → DownOp) :
    (s.withWork a b h).judgeUnit p cls base size first covers op =
      (s.judgeUnit p cls base size first covers op).withWork a b h := by
  have hs : ∀ (u : State) x, (u.withWork a b h).stageSlot p.mode p.geo x =
      (u.stageSlot p.mode p.geo x).withWork a b h := by
    intro u x
    have e : ∀ y, (u.withWork a b h).slot y = u.slot y := fun y => by cases y <;> rfl
    unfold State.stageSlot
    simp only [e]
    split
    · rfl
    · split
      · next y _ =>
        split <;> rfl
      · rfl
  have e : ∀ y, (s.withWork a b h).slot y = s.slot y := fun y => by cases y <;> rfl
  unfold State.judgeUnit
  simp only [e]
  split
  · rfl
  · refine withWork_ite a b h rfl ?_
    split
    · rfl
    · refine withWork_ite a b h rfl ?_
      exact hs (s.forward _) _

/-- ERASE_4K where no frame is QUEUED (R40, R70). -/
theorem erase4k_withWork {s : State} (hq : s.aperture.resp.state ≠ .queued) (p : Snapshot) (x : Nat) :
    (s.withWork a b h).erase4kUnit p x = (s.erase4kUnit p x).withWork a b h := by
  unfold State.erase4kUnit
  exact withWork_ite a b h (withWork_ite a b h (abort_withWork a b h hq) rfl)
    (judgeUnit_withWork a b h _ _ _ _ _ _ _ _)

/-- ERASE_64K where no frame is QUEUED (R40, R70). -/
theorem erase64k_withWork {s : State} (hq : s.aperture.resp.state ≠ .queued) (p : Snapshot) (x : Nat) :
    (s.withWork a b h).erase64kUnit p x = (s.erase64kUnit p x).withWork a b h := by
  unfold State.erase64kUnit
  exact withWork_ite a b h (abort_withWork a b h hq) (judgeUnit_withWork a b h _ _ _ _ _ _ _ _)

end

/-- What a row does that does not look at the pending-job set and the held frame, and what an engine it has
left idle takes up (R68). -/
theorem perform_arbitrated {s v : State} {body : State → State} (hp : s.powered = true)
    (hb : ∀ a b h, body (s.clearOut.withWork a b h) = (body s.clearOut).withWork a b h)
    (he : (s.withWork false false none).perform body = .next v) :
    let w := v.withWork s.engine.ownerResetPending s.engine.floorBurnPending s.aperture.held
    (v.engine.state ≠ .idle → s.perform body = .next w) ∧
      (v.engine.state = .idle → s.perform body = .next
        (match w.startsJob.engine.state, w.startsJob.aperture.held with
          | .idle, some f => w.startsJob.takeHeld f
          | _, _ => w.startsJob)) := by
  have hq : (body (s.withWork false false none).clearOut).Quiet := by
    rw [show (s.withWork false false none).clearOut = s.clearOut.withWork false false none from rfl, hb]
    exact fun _ => ⟨rfl, rfl, rfl⟩
  rw [State.perform_quiet (s := s.withWork false false none) hp hq] at he
  cases he
  have hw : (body (s.withWork false false none).clearOut).withWork s.engine.ownerResetPending
      s.engine.floorBurnPending s.aperture.held = body s.clearOut := by
    rw [show (s.withWork false false none).clearOut = s.clearOut.withWork false false none from rfl, hb]
    exact (hb s.engine.ownerResetPending s.engine.floorBurnPending s.aperture.held).symm
  have hv : (body (s.withWork false false none).clearOut).engine.state =
      (body s.clearOut).engine.state := by
    rw [← hw]
    rfl
  have hx : s.perform body = .next (body s.clearOut).settled := by
    simp [State.perform, hp]
  simp only
  rw [hw, hv, hx]
  refine ⟨fun hi => ?_, fun hi => ?_⟩
  · rw [State.settled_quiet (State.quiet_of_busy hi)]
  · rw [State.settled_idle hi]

/-- A transaction (R17). -/
theorem transact_withWork {s : State} {cls : TxClass} {x : Nat} {act : Snapshot → State → State}
    (a b : Bool) (h : Option Frame)
    (k : ∀ p, act p (s.released.withWork a b h) = (act p s.released).withWork a b h) :
    (s.withWork a b h).transact cls x id act = (s.transact cls x id act).withWork a b h := by
  unfold State.transact
  rw [show (s.withWork a b h).snapFor cls x = s.snapFor cls x from rfl]
  exact withWork_ite a b h rfl (k _)

/-- A judged erase (R21). -/
theorem erases_withWork {s : State} {p : Snapshot} {u u' : State} (a b : Bool) (h : Option Frame)
    (k : u' = u.withWork a b h) :
    (if (s.withWork a b h).judged p then u'.setWel false else s.withWork a b h) =
      (if s.judged p then u.setWel false else s).withWork a b h := by
  rw [show (s.withWork a b h).judged p = s.judged p from rfl, k]
  exact withWork_ite a b h rfl rfl

/-- What an idle engine has started of its pending jobs leaves none pending where it is idle again (R68). -/
theorem State.startsJob_idle {s : State} (hi : s.startsJob.engine.state = .idle) :
    s.startsJob.engine.ownerResetPending = false ∧ s.startsJob.engine.floorBurnPending = false ∧
      s.startsJob.powered = s.powered := by
  unfold State.startsJob at hi ⊢
  by_cases ho : s.engine.ownerResetPending = true
  · rw [if_pos ho] at hi
    exact absurd hi (State.wiping_busy _)
  · rw [if_neg ho] at hi ⊢
    by_cases hf : s.engine.floorBurnPending = true
    · rw [if_pos hf] at hi ⊢
      have e : (State.burnsGoOn { s with
          engine := { s.engine with floorBurnPending := false }
          slots := { s.slots with deferral := false } } .job ⟨false, false, false⟩) = s.startFloorBurn :=
        (onBurns_goOn (owner := .job) (by simp) _ (by simp)).symm
      obtain ⟨k0, _, k1, k2, _⟩ := startFloorBurn_same s
      rw [e]
      exact ⟨by rw [k1]; simpa using ho, k2, k0⟩
    · rw [if_neg hf]
      exact ⟨by simpa using ho, by simpa using hf, rfl⟩

/-- The rows that can end the engine's work while no flow is in progress, by what they do of themselves with
nothing pending and nothing held, and what an engine they leave idle then takes up (R66, R68). -/
theorem exec_arbitrated {s v : State} {c : Instr} (hp : s.powered = true) (hn : s.flow.phase = .none)
    (hc : c = .signatureComplete ∨ c = .generationComplete ∨ c = .recordWriteComplete ∨
      c = .entryIntoLow ∨ (∃ back, c = .fuseAttemptDone back) ∨ (∃ data, c = .chunkComplete data) ∨
      (s.aperture.resp.state ≠ .queued ∧ ∃ x, c = .erase4k x ∨ c = .erase64k x))
    (he : exec c (s.withWork false false none) = .next v) :
    let w := v.withWork s.engine.ownerResetPending s.engine.floorBurnPending s.aperture.held
    (v.engine.state ≠ .idle → exec c s = .next w) ∧
      (v.engine.state = .idle → exec c s = .next
        (match w.startsJob.engine.state, w.startsJob.aperture.held with
          | .idle, some f => w.startsJob.takeHeld f
          | _, _ => w.startsJob)) := by
  have of : ∀ body : State → State, (∀ t, exec c t = t.perform body) →
      (∀ a b h, body (s.clearOut.withWork a b h) = (body s.clearOut).withWork a b h) →
      let w := v.withWork s.engine.ownerResetPending s.engine.floorBurnPending s.aperture.held
      (v.engine.state ≠ .idle → exec c s = .next w) ∧
        (v.engine.state = .idle → exec c s = .next
          (match w.startsJob.engine.state, w.startsJob.aperture.held with
            | .idle, some f => w.startsJob.takeHeld f
            | _, _ => w.startsJob)) := by
    intro body e hb
    rw [e] at he
    rw [e]
    exact perform_arbitrated hp hb he
  clear he
  rcases hc with rfl | rfl | rfl | rfl | ⟨back, rfl⟩ | ⟨data, rfl⟩ | ⟨hq, x, rfl | rfl⟩
  · exact of State.finishSignature (fun _ => rfl) fun a b h => finishSignature_withWork a b h _
  · refine of (fun t => t.finishGeneration.observeAbort) (fun _ => rfl) fun a b h => ?_
    simp only [finishGeneration_withWork, observeAbort_withWork]
  · exact of State.recordComplete (fun _ => rfl) fun a b h => recordComplete_withWork a b h _
  · refine of (fun t => if t.supply.normal then t.enterLow else t) (fun _ => rfl) fun a b h => ?_
    exact entersLow_withWork a b h s.clearOut
  · refine of (fun t => match t.fuses.burn with
      | none => t
      | some b => t.fuseAttempt b back) (fun _ => rfl) fun a b h => ?_
    change (match s.fuses.burn with
      | none => s.clearOut.withWork a b h
      | some d => (s.clearOut.withWork a b h).fuseAttempt d back) = State.withWork (match s.fuses.burn with
      | none => s.clearOut
      | some d => s.clearOut.fuseAttempt d back) a b h
    cases s.fuses.burn with
    | none => rfl
    | some d => exact fuseAttempt_withWork a b h (s := s.clearOut) hn d back
  · exact of (fun t => t.chunkBytes data) (fun _ => rfl)
      fun a b h => chunkBytes_withWork a b h (s := s.clearOut) hn _
  · exact of (fun t => t.transact .erase4k (addressValue x) id fun p u =>
      if u.judged p then (u.erase4kUnit p (addressValue x)).setWel false else u) (fun _ => rfl)
      fun a b h => transact_withWork a b h fun p =>
        erases_withWork a b h (erase4k_withWork a b h (s := s.clearOut.released) hq p _)
  · exact of (fun t => t.transact .erase64k (addressValue x) id fun p u =>
      if u.judged p then (u.erase64kUnit p (addressValue x)).setWel false else u) (fun _ => rfl)
      fun a b h => transact_withWork a b h fun p =>
        erases_withWork a b h (erase64k_withWork a b h (s := s.clearOut.released) hq p _)

end Sys2Proof.Machine
end

