-- ==== Sys2Proof/Laws/PerInstr.lean ====
section
/-! SUPPORT. A fact about every command as syntax: the frame of a well-formed service command has a length
field that is its number of bytes, between 8 and 2048 (R62, Table 12-3). -/

namespace Sys2Proof.Laws

open Sys2Proof.Machine

/-- The frame of a well-formed service command is 8 to 2048 bytes, and its length field says so (R62). -/
def FrameLength.Statement (i : Instr) : Prop :=
  i.wellFormed = true → ∀ code r, serviceRow i = some (code, r) →
    (frameBytes (requestFrame code r)).length = 8 + r.params.length ∧
      8 + r.params.length ≤ Config.requestSize ∧
      leAt (frameBytes (requestFrame code r)) 0 2 = 8 + r.params.length

/-- The same of any request that fits a frame (R62). -/
theorem FrameLength.of_fits (code : Byte) (r : Request) (h : r.fits = true) :
    (frameBytes (requestFrame code r)).length = 8 + r.params.length ∧
      8 + r.params.length ≤ Config.requestSize ∧
      leAt (frameBytes (requestFrame code r)) 0 2 = 8 + r.params.length := by
  have hl : r.params.length ≤ 2040 := by simpa [Request.fits] using h
  refine ⟨?_, by simp only [Config.requestSize]; omega, ?_⟩
  · simp [frameBytes, requestFrame, u16, leBytes]
    omega
  · simp [frameBytes, requestFrame, u16, leBytes, leAt, slice, fromLe, Frame.length,
      List.range_succ]
    omega

/-- A command that is no service command has no frame. -/
theorem FrameLength.of_no_frame {i : Instr} (h : serviceRow i = none) : FrameLength.Statement i :=
  fun _ _ _ hr => absurd (h.symm.trans hr) (by simp)

/-- A service command's frame is that of its code and request. -/
theorem FrameLength.of_row {i : Instr} {code : Byte} {r : Request}
    (h : serviceRow i = some (code, r)) (hw : i.wellFormed = true → r.fits = true) :
    FrameLength.Statement i := by
  intro hi c q hr
  obtain ⟨rfl, rfl⟩ : code = c ∧ r = q := by simpa [h] using hr
  exact FrameLength.of_fits _ _ (hw hi)

theorem FrameLength.read (part : ReadPart) (count : Nat) (flash : List Byte) :
    FrameLength.Statement (.read part count flash) := FrameLength.of_no_frame rfl
theorem FrameLength.readEnd : FrameLength.Statement .readEnd := FrameLength.of_no_frame rfl
theorem FrameLength.program (addr : Address) (data : List Byte) (tailBits : Nat) :
    FrameLength.Statement (.program addr data tailBits) := FrameLength.of_no_frame rfl
theorem FrameLength.erase4k (addr : Address) :
    FrameLength.Statement (.erase4k addr) := FrameLength.of_no_frame rfl
theorem FrameLength.erase64k (addr : Address) :
    FrameLength.Statement (.erase64k addr) := FrameLength.of_no_frame rfl
theorem FrameLength.eraseChip : FrameLength.Statement .eraseChip := FrameLength.of_no_frame rfl
theorem FrameLength.wren : FrameLength.Statement .wren := FrameLength.of_no_frame rfl
theorem FrameLength.wrdi : FrameLength.Statement .wrdi := FrameLength.of_no_frame rfl
theorem FrameLength.statusRead (sel : StatusByte) (count : Nat) :
    FrameLength.Statement (.statusRead sel count) := FrameLength.of_no_frame rfl
theorem FrameLength.statusWrite (data : List Byte) :
    FrameLength.Statement (.statusWrite data) := FrameLength.of_no_frame rfl
theorem FrameLength.ident (count : Nat) :
    FrameLength.Statement (.ident count) := FrameLength.of_no_frame rfl
theorem FrameLength.flashReset : FrameLength.Statement .flashReset := FrameLength.of_no_frame rfl
theorem FrameLength.other (cmd : Byte) (data : List Byte) (count : Nat) :
    FrameLength.Statement (.other cmd data count) := FrameLength.of_no_frame rfl
theorem FrameLength.flashFinished :
    FrameLength.Statement .flashFinished := FrameLength.of_no_frame rfl
theorem FrameLength.chunkComplete (data : List Byte) :
    FrameLength.Statement (.chunkComplete data) := FrameLength.of_no_frame rfl
theorem FrameLength.signatureComplete :
    FrameLength.Statement .signatureComplete := FrameLength.of_no_frame rfl
theorem FrameLength.generationComplete :
    FrameLength.Statement .generationComplete := FrameLength.of_no_frame rfl
theorem FrameLength.recordWriteBegin :
    FrameLength.Statement .recordWriteBegin := FrameLength.of_no_frame rfl
theorem FrameLength.recordWriteComplete :
    FrameLength.Statement .recordWriteComplete := FrameLength.of_no_frame rfl
theorem FrameLength.fuseAttemptDone (readsBurned : Bool) :
    FrameLength.Statement (.fuseAttemptDone readsBurned) := FrameLength.of_no_frame rfl
theorem FrameLength.entryIntoLow :
    FrameLength.Statement .entryIntoLow := FrameLength.of_no_frame rfl
theorem FrameLength.entryIntoNormal :
    FrameLength.Statement .entryIntoNormal := FrameLength.of_no_frame rfl
theorem FrameLength.press : FrameLength.Statement .press := FrameLength.of_no_frame rfl
theorem FrameLength.release : FrameLength.Statement .release := FrameLength.of_no_frame rfl
theorem FrameLength.trialExpiry : FrameLength.Statement .trialExpiry := FrameLength.of_no_frame rfl
theorem FrameLength.gateExpiry : FrameLength.Statement .gateExpiry := FrameLength.of_no_frame rfl
theorem FrameLength.penaltyExpiry :
    FrameLength.Statement .penaltyExpiry := FrameLength.of_no_frame rfl
theorem FrameLength.presenceExpiry :
    FrameLength.Statement .presenceExpiry := FrameLength.of_no_frame rfl
theorem FrameLength.powerOn (sensed : List FuseBit) (resetIn : Bool) :
    FrameLength.Statement (.powerOn sensed resetIn) := FrameLength.of_no_frame rfl
theorem FrameLength.powerLoss : FrameLength.Statement .powerLoss := FrameLength.of_no_frame rfl
theorem FrameLength.resetIn : FrameLength.Statement .resetIn := FrameLength.of_no_frame rfl
theorem FrameLength.resetInRelease :
    FrameLength.Statement .resetInRelease := FrameLength.of_no_frame rfl
theorem FrameLength.platformRestart :
    FrameLength.Statement .platformRestart := FrameLength.of_no_frame rfl
theorem FrameLength.bootFlowResume (id0 id1 id2 : Byte) :
    FrameLength.Statement (.bootFlowResume id0 id1 id2) := FrameLength.of_no_frame rfl
theorem FrameLength.ownerReset : FrameLength.Statement .ownerReset := FrameLength.of_no_frame rfl
theorem FrameLength.floorBurn : FrameLength.Statement .floorBurn := FrameLength.of_no_frame rfl
theorem FrameLength.identify (r : Request) :
    FrameLength.Statement (.identify r) := FrameLength.of_row rfl id
theorem FrameLength.slotStatus (r : Request) :
    FrameLength.Statement (.slotStatus r) := FrameLength.of_row rfl id
theorem FrameLength.policyRead (r : Request) :
    FrameLength.Statement (.policyRead r) := FrameLength.of_row rfl id
theorem FrameLength.logRead (r : Request) :
    FrameLength.Statement (.logRead r) := FrameLength.of_row rfl id
theorem FrameLength.certRead (r : Request) :
    FrameLength.Statement (.certRead r) := FrameLength.of_row rfl id
theorem FrameLength.keyPublic (r : Request) :
    FrameLength.Statement (.keyPublic r) := FrameLength.of_row rfl id
theorem FrameLength.credList (r : Request) :
    FrameLength.Statement (.credList r) := FrameLength.of_row rfl id
theorem FrameLength.eventsRead (r : Request) :
    FrameLength.Statement (.eventsRead r) := FrameLength.of_row rfl id
theorem FrameLength.stageAdvance (r : Request) :
    FrameLength.Statement (.stageAdvance r) := FrameLength.of_row rfl id
theorem FrameLength.measureExtend (r : Request) :
    FrameLength.Statement (.measureExtend r) := FrameLength.of_row rfl id
theorem FrameLength.policyTighten (r : Request) :
    FrameLength.Statement (.policyTighten r) := FrameLength.of_row rfl id
theorem FrameLength.quote (r : Request) :
    FrameLength.Statement (.quote r) := FrameLength.of_row rfl id
theorem FrameLength.updateVerify (r : Request) :
    FrameLength.Statement (.updateVerify r) := FrameLength.of_row rfl id
theorem FrameLength.updateArm (r : Request) :
    FrameLength.Statement (.updateArm r) := FrameLength.of_row rfl id
theorem FrameLength.updateDisarm (r : Request) :
    FrameLength.Statement (.updateDisarm r) := FrameLength.of_row rfl id
theorem FrameLength.updateConfirm (r : Request) :
    FrameLength.Statement (.updateConfirm r) := FrameLength.of_row rfl id
theorem FrameLength.reboot (r : Request) :
    FrameLength.Statement (.reboot r) := FrameLength.of_row rfl id
theorem FrameLength.keySign (r : Request) :
    FrameLength.Statement (.keySign r) := FrameLength.of_row rfl id
theorem FrameLength.keyGenerate (r : Request) :
    FrameLength.Statement (.keyGenerate r) := FrameLength.of_row rfl id
theorem FrameLength.keyErase (r : Request) :
    FrameLength.Statement (.keyErase r) := FrameLength.of_row rfl id
theorem FrameLength.credCheck (r : Request) :
    FrameLength.Statement (.credCheck r) := FrameLength.of_row rfl id
theorem FrameLength.credSet (r : Request) :
    FrameLength.Statement (.credSet r) := FrameLength.of_row rfl id
theorem FrameLength.credGet (r : Request) :
    FrameLength.Statement (.credGet r) := FrameLength.of_row rfl id
theorem FrameLength.credDelete (r : Request) :
    FrameLength.Statement (.credDelete r) := FrameLength.of_row rfl id
theorem FrameLength.gateClose (r : Request) :
    FrameLength.Statement (.gateClose r) := FrameLength.of_row rfl id
theorem FrameLength.eventsAck (r : Request) :
    FrameLength.Statement (.eventsAck r) := FrameLength.of_row rfl id
theorem FrameLength.eventsEnable (r : Request) :
    FrameLength.Statement (.eventsEnable r) := FrameLength.of_row rfl id
theorem FrameLength.provConfig (r : Request) :
    FrameLength.Statement (.provConfig r) := FrameLength.of_row rfl id
theorem FrameLength.provIdentity (r : Request) :
    FrameLength.Statement (.provIdentity r) := FrameLength.of_row rfl id
theorem FrameLength.provAuthority (r : Request) :
    FrameLength.Statement (.provAuthority r) := FrameLength.of_row rfl id
theorem FrameLength.provCert (r : Request) :
    FrameLength.Statement (.provCert r) := FrameLength.of_row rfl id
theorem FrameLength.provDeploy (r : Request) :
    FrameLength.Statement (.provDeploy r) := FrameLength.of_row rfl id
theorem FrameLength.arrival (cmd : Byte) (addr : BitVec 32) :
    FrameLength.Statement (.arrival cmd addr) := FrameLength.of_no_frame rfl
theorem FrameLength.baseTick (code : BitVec 12) (pressed : Bool) (order : List TickEvent) :
    FrameLength.Statement (.baseTick code pressed order) := FrameLength.of_no_frame rfl

end Sys2Proof.Laws
end

