-- ==== Sys2Proof/Laws/Requests.lean ====
section
/-! SUPPORT. What the command in progress has asked for of the Record Store, and what it awaits: how every
operation changes the one and the other, and that the two match after it (R108, R111, R124, R125, R135). -/

namespace Sys2Proof.Machine

/-! ### The command's requests in a waiting list (R124) -/

/-- The command's requests in two sets of requesters. -/
theorem commandsOf_append (rec : RecordId) (a b : List Requester) :
    commandsOf rec (a ++ b) = commandsOf rec a ++ commandsOf rec b := by
  simp [commandsOf]

/-- The command's requests in a list with a first entry. -/
theorem commandsIn_cons (e : Entry) (l : List Entry) :
    commandsIn (e :: l) = commandsOf e.record e.requesters ++ commandsIn l := rfl

/-- A request that is not the command's adds none of the command's (R124). -/
theorem commandsIn_requestIn_other (l : List Entry) (rec : RecordId) (who : Who) (c : Change)
    (h : who ≠ .command) : commandsIn (requestIn l rec ⟨who, c⟩) = commandsIn l := by
  have hn : ∀ c', commandsOf rec [⟨who, c'⟩] = [] := by simp [commandsOf, h]
  induction l with
  | nil => simp [requestIn, commandsIn, hn]
  | cons e es ih =>
    unfold requestIn
    split
    · next he =>
      subst he
      unfold Entry.join
      split
      · simp [commandsIn_cons, commandsOf_append, hn]
      · split
        · rfl
        · simp [commandsIn_cons, commandsOf_append, hn]
    · simp [commandsIn_cons, ih]

/-- A request of the command's for a record that it has not asked for adds that one (R124). -/
theorem commandsIn_requestIn_command (l : List Entry) (rec : RecordId) (c : Change)
    (hc : c ≠ .ownerReset) (h : rec ∉ (commandsIn l).map Prod.fst) :
    (commandsIn (requestIn l rec ⟨.command, c⟩)).Perm ((rec, c) :: commandsIn l) := by
  have hn : commandsOf rec [⟨.command, c⟩] = [(rec, c)] := by simp [commandsOf]
  induction l with
  | nil => simp [requestIn, commandsIn, hn]
  | cons e es ih =>
    rw [commandsIn_cons, List.map_append, List.mem_append, not_or] at h
    unfold requestIn
    split
    · next he =>
      subst he
      unfold Entry.join
      rw [if_neg (by simp [hc])]
      split
      · next hj =>
        refine absurd ?_ h.1
        simp only [commandsOf, List.mem_map, List.mem_filter]
        exact ⟨(e.record, c), ⟨_, ⟨hj.2, by simp⟩, rfl⟩, rfl⟩
      · simp only [commandsIn_cons, commandsOf_append, hn, List.append_assoc]
        exact List.perm_middle
    · simp only [commandsIn_cons]
      exact (List.Perm.append_left _ (ih h.2)).trans List.perm_middle

/-- Whose requesters a waiting list holds once a request has joined it (R124). -/
theorem mem_requestIn {l : List Entry} {rec : RecordId} {r q : Requester} {e : Entry}
    (he : e ∈ requestIn l rec r) (hq : q ∈ e.requesters) :
    (∃ e' ∈ l, e'.record = e.record ∧ q ∈ e'.requesters) ∨
      (e.record = rec ∧ (q = r ∨ q = ⟨r.who, .asIs⟩)) := by
  induction l with
  | nil =>
    simp only [requestIn, List.mem_singleton] at he
    subst he
    simp only [List.mem_singleton] at hq
    exact .inr ⟨rfl, .inl hq⟩
  | cons d ds ih =>
    unfold requestIn at he
    split at he
    · next hd =>
      rcases List.mem_cons.1 he with rfl | he
      · unfold Entry.join at hq ⊢
        split at hq
        · next hj =>
          rw [if_pos hj]
          rcases List.mem_append.1 hq with hq | hq
          · exact .inl ⟨d, List.mem_cons_self, rfl, hq⟩
          · exact .inr ⟨hd, .inr (by simpa using hq)⟩
        · next hj =>
          rw [if_neg hj]
          split at hq
          · next hk =>
            rw [if_pos hk]
            exact .inl ⟨d, List.mem_cons_self, rfl, hq⟩
          · next hk =>
            rw [if_neg hk]
            rcases List.mem_append.1 hq with hq | hq
            · exact .inl ⟨d, List.mem_cons_self, rfl, hq⟩
            · exact .inr ⟨hd, .inl (by simpa using hq)⟩
      · exact .inl ⟨e, List.mem_cons_of_mem _ he, rfl, hq⟩
    · rcases List.mem_cons.1 he with rfl | he
      · exact .inl ⟨e, List.mem_cons_self, rfl, hq⟩
      · rcases ih he with ⟨e', h1, h2⟩ | h
        · exact .inl ⟨e', List.mem_cons_of_mem _ h1, h2⟩
        · exact .inr h

/-- No change of UPDATE_CONFIRM waits. -/
def NoConfirm (l : List Entry) : Prop :=
  ∀ e ∈ l, ∀ q ∈ e.requesters, ∀ f v, q.change ≠ .confirm f v

/-- A request without UPDATE_CONFIRM's change leaves none waiting. -/
theorem NoConfirm.requestIn {l : List Entry} (h : NoConfirm l) (rec : RecordId) {r : Requester}
    (hr : ∀ f v, r.change ≠ .confirm f v) : NoConfirm (requestIn l rec r) := by
  intro e he q hq f v hc
  rcases mem_requestIn he hq with ⟨e', h1, _, h2⟩ | ⟨_, rfl | rfl⟩
  · exact h e' h1 q h2 f v hc
  · exact hr f v hc
  · cases hc

/-- The command waits for these requests of its own, none of them UPDATE_CONFIRM's change, and none has
begun. -/
def State.Asks (s : State) (ws : List (RecordId × Change)) : Prop :=
  s.commandAsks.Perm ws ∧ s.commandBegun = [] ∧ NoConfirm s.records.waiting

/-- What is asked for stands in the Record Store alone. -/
theorem State.Asks.of_records {s t : State} {ws : List (RecordId × Change)} (h : s.Asks ws)
    (e : t.records = s.records) : t.Asks ws := by
  unfold State.Asks State.commandAsks State.commandBegun at *
  rw [e]
  exact h

/-- A request that is not the command's. -/
theorem State.Asks.other {s : State} {ws : List (RecordId × Change)} (h : s.Asks ws) (rec : RecordId)
    {who : Who} {c : Change} (hw : who ≠ .command) (hc : ∀ f v, c ≠ .confirm f v) :
    (s.request rec who c).Asks ws :=
  ⟨by rw [show (s.request rec who c).commandAsks = s.commandAsks from
      commandsIn_requestIn_other _ _ _ _ hw]; exact h.1, h.2.1, h.2.2.requestIn rec hc⟩

/-- A request of the command's. -/
theorem State.Asks.command {s : State} {ws : List (RecordId × Change)} (h : s.Asks ws) {rec : RecordId}
    {c : Change} (hr : rec ∉ ws.map Prod.fst) (ho : c ≠ .ownerReset) (hc : ∀ f v, c ≠ .confirm f v) :
    (s.request rec .command c).Asks ((rec, c) :: ws) :=
  ⟨(commandsIn_requestIn_command _ _ _ ho fun hm => hr ((h.1.map _).mem_iff.1 hm)).trans (h.1.cons _),
    h.2.1, h.2.2.requestIn rec hc⟩

/-- The engine's work awaits what the command has asked for. -/
theorem State.Asks.matched {s : State} {ws : List (RecordId × Change)} (h : s.Asks ws)
    (hp : (ws.map Prod.fst).Perm s.engine.state.awaits) (hn : s.engine.state.awaits.Nodup)
    (hf : ∀ f v a, s.engine.state = .command (.confirmCounters f v a) → a = [])
    (hk : ∀ id, s.engine.state = .command (.credClear id) → ∀ p ∈ ws, p.2 = .credClear) :
    AwaitsMatch s := by
  obtain ⟨h1, h2, h3⟩ := h
  refine ⟨?_, hn, fun e he q hq f v hc => absurd hc (h3 e he q hq f v), ?_, ?_⟩
  · rw [h2, List.append_nil]
    exact (h1.map _).trans hp
  · exact fun f v a hs ha => absurd (hf f v a hs) ha
  · intro id hs p hp
    rw [h2, List.append_nil] at hp
    exact hk id hs p (h1.mem_iff.1 hp)

/-- With no request of the command's outstanding, any work that awaits none matches. -/
theorem State.Asks.none {s : State} (h : s.Asks []) (ha : s.engine.state.awaits = []) :
    AwaitsMatch s := by
  refine h.matched (by simp [ha]) (by simp [ha]) ?_ ?_
  · intro f v a hs
    rw [hs] at ha
    cases ha
  · intro id _ p hp
    cases hp

/-- Work that awaits no write has nothing outstanding. -/
theorem AwaitsMatch.clear {s : State} (h : AwaitsMatch s) (ha : s.engine.state.awaits = []) :
    s.Asks [] := by
  obtain ⟨h1, _, h3, _⟩ := h
  rw [ha] at h1
  obtain ⟨h4, h5⟩ := List.append_eq_nil_iff.1 (List.map_eq_nil_iff.1 h1.eq_nil)
  refine ⟨h4 ▸ .nil, h5, fun e he q hq f v hc => ?_⟩
  obtain ⟨_, _, f', v', a, hs⟩ := h3 e he q hq f v hc
  rw [hs] at ha
  cases ha

/-- The match stands in the Record Store and the engine's state alone. -/
theorem AwaitsMatch.of_eq {s t : State} (h : AwaitsMatch s) (e : t.records = s.records)
    (g : t.engine.state = s.engine.state) : AwaitsMatch t := by
  unfold AwaitsMatch State.commandAsks State.commandBegun at *
  rw [e, g]
  exact h

/-- A request that is not the command's. -/
theorem AwaitsMatch.request {s : State} (h : AwaitsMatch s) (rec : RecordId) {who : Who} {c : Change}
    (hw : who ≠ .command) (hc : ∀ f v, c ≠ .confirm f v) : AwaitsMatch (s.request rec who c) := by
  obtain ⟨h1, h2, h3, h4, h5⟩ := h
  have hk : (s.request rec who c).commandAsks = s.commandAsks :=
    commandsIn_requestIn_other _ _ _ _ hw
  refine ⟨by rw [hk]; exact h1, h2, ?_, h4, by rw [hk]; exact h5⟩
  intro e he q hq f v hv
  rcases mem_requestIn he hq with ⟨e', g1, g2, g3⟩ | ⟨_, rfl | rfl⟩
  · obtain ⟨k1, k2, k3⟩ := h3 e' g1 q g3 f v hv
    exact ⟨k1, g2 ▸ k2, k3⟩
  · exact absurd hv (hc f v)
  · cases hv

/-- A slot record replaced, its write asked for by its block (R79). -/
theorem AwaitsMatch.changeSlot {s : State} (h : AwaitsMatch s) (x : SlotId) (r : SlotRec) :
    AwaitsMatch (s.changeSlot x r) :=
  AwaitsMatch.request (s := s.setSlot x r) (h.of_eq rfl rfl) _ (by simp) (by simp)

/-- A slot record replaced, its write asked for by its block and the command (R79, R109, R146). -/
theorem State.Asks.changeSlotTold {s : State} {ws : List (RecordId × Change)} (h : s.Asks ws)
    {x : SlotId} (r : SlotRec) (hx : RecordId.slot x ∉ ws.map Prod.fst) :
    (s.changeSlotTold x r).Asks ((.slot x, .asIs) :: ws) :=
  State.Asks.command
    (State.Asks.other (s := s.setSlot x r) (h.of_records rfl) (.slot x) (by simp) (by simp)) hx (by simp)
    (by simp)

/-- One write of the command's (R135). -/
theorem State.Asks.one {s : State} (h : s.Asks []) {rec : RecordId} {c : Change} {w : CmdWork}
    (ho : c ≠ .ownerReset) (hc : ∀ f v, c ≠ .confirm f v)
    (hw : EngineState.awaits (.command w) = [rec]) (hf : ∀ f v a, w ≠ .confirmCounters f v a)
    (hk : ∀ id, w = .credClear id → c = .credClear) :
    AwaitsMatch ((s.request rec .command c).work w) := by
  refine State.Asks.matched (ws := [(rec, c)])
    (State.Asks.of_records (h.command (by simp) ho hc) rfl) ?_ ?_ ?_ ?_
  · change List.Perm _ (EngineState.awaits (.command w))
    rw [hw]
    exact .refl _
  · change List.Nodup (EngineState.awaits (.command w))
    rw [hw]
    simp
  · intro f v a hs
    exact absurd (EngineState.command.inj hs) (hf f v a)
  · intro id hs p hp
    rw [List.mem_singleton.1 hp]
    exact hk id (EngineState.command.inj hs)

/-! ### The gating order and the engine (R68, R72) -/

/-- A command that ends has nothing outstanding. -/
theorem AwaitsMatch.endCommand {s : State} (h : s.Asks []) (a : Reply) : AwaitsMatch (s.endCommand a) :=
  State.Asks.none (h.of_records rfl) rfl

/-- A gated command is refused, or acts (R72). -/
theorem State.gated_keeps {P : State → Prop} {s : State} (f : Frame) (only : Option Lifecycle)
    (cond : Cond) (ok : Bool) (ps ss : List Check) (b : Bool) (act : State → State)
    (h1 : ∀ a, P (s.endCommand a)) (h2 : P (act s)) : P (s.gated f only cond ok ps ss b act) := by
  unfold State.gated
  split
  · exact h1 _
  · exact h2

/-- A command that ends as it is taken, over a state with the same records. -/
theorem AwaitsMatch.ended {s t : State} (h : s.Asks []) (e : t.records = s.records) (a : Reply) :
    AwaitsMatch (t.endCommand a) := AwaitsMatch.endCommand (h.of_records e) a

/-- A command that goes on without a write of its own. -/
theorem AwaitsMatch.works {s t : State} (h : s.Asks []) (e : t.records = s.records) {w : CmdWork}
    (hw : EngineState.awaits (.command w) = []) : AwaitsMatch (t.work w) :=
  State.Asks.none (h.of_records e) hw

/-- PROV_DEPLOY's second phase (R146). -/
theorem deployBurned_awaits {s : State} (h : s.Asks []) (bit : Nat) :
    AwaitsMatch (s.deployBurned bit) := by
  have h2 := (h.changeSlotTold (x := .a) SlotRec.staged (by simp)).changeSlotTold (x := .b)
    SlotRec.staged (by simp)
  refine State.Asks.matched (s := s.deployBurned bit) (h2.of_records rfl) ?_ ?_ ?_ ?_
  · exact List.Perm.swap _ _ _
  · change List.Nodup [RecordId.slot .a, .slot .b]
    decide
  · exact fun f v a hs => by cases hs
  · exact fun id hs => by cases hs

/-- A bit burn asked for asks for no record (R119). -/
theorem requestBurn_records (s : State) (b : FuseBit) (o : BurnOwner) :
    (s.requestBurn b o).1.records = s.records ∧ (s.requestBurn b o).1.engine = s.engine := by
  simp only [State.requestBurn, State.takeBurn]
  (repeat' split) <;> exact ⟨rfl, rfl⟩

/-- PROV_DEPLOY's first phase (R122, R146). -/
theorem deployTry_awaits {s : State} (h : s.Asks []) (bit : Nat) : AwaitsMatch (s.deployTry bit) := by
  have hr := (requestBurn_records s ⟨.lifecycle, bit⟩ .command).1
  unfold State.deployTry
  generalize s.requestBurn ⟨.lifecycle, bit⟩ .command = r at hr
  obtain ⟨t, o⟩ := r
  rcases o with _ | o
  · exact AwaitsMatch.works h hr rfl
  · cases o
    · exact deployBurned_awaits (h.of_records hr) bit
    · exact AwaitsMatch.works h hr rfl
    · exact AwaitsMatch.works h hr rfl

/-- UPDATE_CONFIRM's request (R108). -/
theorem confirm_awaits {s : State} (h : s.Asks []) (floor : Nat) (rv : BitVec 2) :
    AwaitsMatch ((s.request .counters .command (.confirm floor rv)).work
      (.confirmCounters floor rv [])) := by
  obtain ⟨h1, h2, h3⟩ := h
  have hp := (commandsIn_requestIn_command s.records.waiting .counters (.confirm floor rv) (by simp)
    (by rw [show commandsIn s.records.waiting = [] from h1.eq_nil]; simp)).trans (h1.cons _)
  refine ⟨?_, by simp [State.work, EngineState.awaits], ?_, fun f v a hs ha => ?_, fun id hs => ?_⟩
  · change List.Perm (List.map _ (commandsIn _ ++ s.commandBegun)) [RecordId.counters]
    rw [h2, List.append_nil]
    exact hp.map _
  · intro e he q hq f v hc
    rcases mem_requestIn he hq with ⟨e', g1, _, g3⟩ | ⟨g1, rfl | rfl⟩
    · exact absurd hc (h3 e' g1 q g3 f v)
    · exact ⟨rfl, g1, _, _, _, rfl⟩
    · cases hc
  · have := EngineState.command.inj hs
    simp only [CmdWork.confirmCounters.injEq] at this
    exact absurd this.2.2.symm ha
  · cases hs

/-- The procedure's start asks for no record (R81). -/
theorem startVerify_records (s : State) (g : Geometry) (x : SlotId) :
    (s.startVerify g x).records = s.records ∧ (s.startVerify g x).engine = s.engine := by
  simp only [State.startVerify, State.requestChunk]
  split <;> exact ⟨rfl, rfl⟩

/-- The gate closed asks for no record (R163). -/
theorem closeGate_records (s : State) : s.closeGate.records = s.records ∧
    s.closeGate.engine = s.engine := by
  rw [State.closeGate]
  split <;> exact ⟨rfl, rfl⟩

/-- CRED_SET's request (R170). -/
theorem setCred_awaits {s : State} (h : s.Asks []) (id : Fin 24) (label : List Byte)
    (rest : List Byte ⊕ (Cond × Bool × List Byte)) : AwaitsMatch (s.setCred id label rest) := by
  unfold State.setCred
  split <;> rcases rest with p | ⟨c, g, v⟩ <;>
    exact State.Asks.one (h.of_records rfl) (by simp) (by simp) rfl (by simp) (by simp)

/-- A command taken by an idle engine, whatever its code (R66, R68). -/
theorem dispatch_awaits {s : State} (h : s.Asks []) (he : s.engine.state = .idle) (f : Frame) :
    AwaitsMatch (dispatch f s) := by
  have hs : AwaitsMatch s := h.none (by rw [he]; rfl)
  have hq : ∀ a, AwaitsMatch (s.endCommand a) := AwaitsMatch.ended h rfl
  have hg : ∀ b, (s.gateUse b).records = s.records := by
    intro b
    unfold State.gateUse
    split <;> rfl
  have gd : ∀ {s' : State}, s'.records = s.records → ∀ a, AwaitsMatch (s'.endCommand a) :=
    fun e a => AwaitsMatch.ended h e a
  have gw : ∀ {s' : State}, s'.records = s.records → ∀ w, EngineState.awaits (.command w) = [] →
    AwaitsMatch (s'.work w) := fun e w hw => AwaitsMatch.works h e hw
  have go : ∀ {s' : State} (_ : s'.records = s.records) (rec : RecordId) (c : Change) (p : List Byte),
      c ≠ .ownerReset → (∀ f v, c ≠ .confirm f v) →
      AwaitsMatch ((s'.request rec .command c).work (.store [rec] p)) :=
    fun e rec c p ho hc => State.Asks.one (h.of_records e) ho hc rfl (by simp) (by simp)
  have ga : ∀ (x : SlotId) (r : SlotRec) (a : Reply), AwaitsMatch ((s.changeSlot x r).endCommand a) :=
    fun x r a => AwaitsMatch.endCommand
      (State.Asks.other (s := s.setSlot x r) (h.of_records rfl) (.slot x) (by simp) (by simp)) a
  have kg : ∀ {f : Frame} {only : Option Lifecycle} {cond : Cond} {ok : Bool} {ps ss : List Check}
      {b : Bool} {act : State → State}, AwaitsMatch (act s) →
      AwaitsMatch (s.gated f only cond ok ps ss b act) :=
    fun k => State.gated_keeps _ _ _ _ _ _ _ _ hq k
  unfold dispatch
  split
  · exact kg (gd rfl _)
  · exact kg (gd rfl _)
  · exact kg (gd rfl _)
  · exact kg (gd rfl _)
  · exact kg (gd rfl _)
  · exact kg (gd rfl _)
  · exact kg (gd rfl _)
  · exact kg (gd rfl _)
  · refine kg ?_
    have e := (closeGate_records { s with stage := Stage.num (Fin.ofNat 8 (f.p 0)) }).1
    unfold State.advanceStage
    exact gd (s' := State.logAppend (State.closeGate _) _ _ _ _) e (.ok [_, _])
  · refine kg ?_
    unfold State.measureExtend
    simp only
    apply gd
    rfl
  · unfold cmdPolicyTighten
    split
    · unfold cmdTightenA
      refine kg ?_
      apply gd
      rfl
    · split
      · unfold cmdTightenB
        refine kg ?_
        simp only
        split
        · apply gd
          rfl
        · exact hs
      · exact kg hs
  · exact kg (gw rfl _ rfl)
  · rw [cmdUpdateVerify]
    exact kg (gw ((startVerify_records (s.setSlot _ _) _ _).1) _ rfl)
  · exact kg (ga _ _ _)
  · exact kg (ga _ _ _)
  · exact kg (confirm_awaits (h.of_records rfl) _ _)
  · exact kg ((gd (s' := s) rfl (.ok [])).of_eq rfl rfl)
  · exact kg (gw (hg _) _ rfl)
  · exact kg (gw rfl _ rfl)
  · exact kg (go rfl _ _ _ (by simp) (by simp))
  · exact kg (State.Asks.one h (by simp) (by simp) rfl (by simp) (by simp))
  · refine kg ?_
    split
    · exact setCred_awaits h _ _ _
    · exact hs
  · refine kg ?_
    apply gd
    exact hg _
  · exact kg (go rfl _ _ _ (by simp) (by simp))
  · refine kg ?_
    apply gd
    rfl
  · refine kg ?_
    apply gd
    rfl
  · refine kg ?_
    apply gd
    rfl
  · exact kg (go rfl _ _ _ (by simp) (by simp))
  · exact kg (gw rfl _ rfl)
  · exact kg (go rfl _ _ _ (by simp) (by simp))
  · exact kg (go rfl _ _ _ (by simp) (by simp))
  · exact kg (deployTry_awaits h 0)
  · exact hq _

/-! ### The jobs and the arbiter (R68) -/

/-- The engine at a job, or idle, over a state whose command has nothing outstanding. -/
theorem AwaitsMatch.rests {s t : State} (h : s.Asks []) (e : t.records = s.records)
    (g : t.engine.state.awaits = []) : AwaitsMatch t := State.Asks.none (h.of_records e) g

/-- The writes of the wipe (R176). -/
theorem State.Asks.requestAll_job {s : State} (h : s.Asks []) (ws : List (RecordId × Change))
    (hw : ∀ w ∈ ws, ∀ f v, w.2 ≠ .confirm f v) : (s.requestAll .job ws).Asks [] := by
  unfold State.requestAll
  induction ws generalizing s with
  | nil => exact h
  | cons w ws ih =>
    exact ih (h.other w.1 (by simp) (hw w List.mem_cons_self))
      fun w' hm => hw w' (List.mem_cons_of_mem _ hm)

/-- The owner reset's second phase (R176, R177). -/
theorem wipeCounters_awaits {s : State} (h : s.Asks []) : AwaitsMatch s.wipeCounters := by
  unfold State.wipeCounters
  split
  · exact AwaitsMatch.rests (h.other .counters (by simp) (by simp)) rfl rfl
  · exact AwaitsMatch.rests h rfl rfl

/-- The owner reset goes on (R176). -/
theorem wipeNext_awaits {s : State} (h : s.Asks []) (l : List RecordId) :
    AwaitsMatch (s.wipeNext l) := by
  cases l with
  | nil => exact wipeCounters_awaits h
  | cons r rs => exact AwaitsMatch.rests h rfl rfl

/-- The owner reset starts (R68, R176). -/
theorem startOwnerReset_awaits {s : State} (h : s.Asks []) : AwaitsMatch s.startOwnerReset := by
  unfold State.startOwnerReset
  refine wipeNext_awaits (State.Asks.requestAll_job ?_ _ ?_) _
  · exact h.of_records (closeGate_records { s with engine := _ }).1
  · intro w hw f v
    simp only [State.wipeWrites, List.mem_append, List.mem_map] at hw
    rcases hw with ⟨_, _, rfl⟩ | ⟨_, _, rfl⟩ <;> simp

/-- The burns ask for no record (R111, R114). -/
theorem goOnBurns_records (s : State) (o : BurnOwner) (q : BurnSeq) :
    (s.goOnBurns o q).1.records = s.records ∧ (s.goOnBurns o q).1.engine = s.engine := by
  unfold State.goOnBurns
  split
  · exact ⟨rfl, rfl⟩
  · split
    · exact requestBurn_records s _ _
    · exact ⟨rfl, rfl⟩

/-- FUSE_FAULT asks for no record. -/
theorem faultIf_records (s : State) (q : BurnSeq) : (s.faultIf q).records = s.records := by
  unfold State.faultIf
  split <;> rfl

/-- FLOOR_BURN after its burns have gone on (R114). -/
theorem onJobBurns_awaits {s : State} (h : s.Asks []) (r : State × BurnStatus)
    (e : r.1.records = s.records) : AwaitsMatch (State.onJobBurns r) := by
  unfold State.onJobBurns
  have hf := fun q => (faultIf_records r.1 q).trans e
  split
  · exact AwaitsMatch.rests (t := State.jobOn _ _) h (hf _) rfl
  · exact AwaitsMatch.rests (t := State.endJob _) h (hf _) rfl
  · split <;> exact AwaitsMatch.rests (t := State.endJob _) h e rfl

/-- UPDATE_CONFIRM after its burns have gone on (R111). -/
theorem onCommandBurns_awaits {s : State} (h : s.Asks []) (r : State × BurnStatus)
    (e : r.1.records = s.records) : AwaitsMatch (State.onCommandBurns r) := by
  unfold State.onCommandBurns
  have hf := fun q => (faultIf_records r.1 q).trans e
  split
  · exact AwaitsMatch.rests (t := State.work _ _) h (hf _) rfl
  · exact AwaitsMatch.rests (t := State.confirmEnd _ _ _) h (hf _) rfl
  · exact AwaitsMatch.rests (t := State.confirmEnd _ _ _) h (hf _) rfl

/-- FLOOR_BURN starts (R68, R114). -/
theorem startFloorBurn_awaits {s : State} (h : s.Asks []) : AwaitsMatch s.startFloorBurn :=
  onJobBurns_awaits h _ (goOnBurns_records _ _ _).1

/-- A held frame taken (R66, R68). -/
theorem takeHeld_awaits {s : State} (h : s.Asks []) (he : s.engine.state = .idle) (f : Frame) :
    AwaitsMatch (s.takeHeld f) :=
  dispatch_awaits (s := { s with aperture := { s.aperture with
    resp := Response.running f s.aperture.resp.previousUnread s.aperture.resp.refused
    aside := Option.none, held := Option.none } }) (h.of_records rfl) he f

/-- One look of the arbiter (R68). -/
theorem arbitrate_awaits {s : State} (h : AwaitsMatch s) : AwaitsMatch s.arbitrate := by
  unfold State.arbitrate
  split
  · next he =>
    have hc := h.clear (by rw [he]; rfl)
    split
    · exact startOwnerReset_awaits hc
    · split
      · exact startFloorBurn_awaits hc
      · split
        · exact takeHeld_awaits hc he _
        · exact h
  · exact h
  · exact h

/-- The arbiter comes to rest (R68). -/
theorem settled_awaits {s : State} (h : AwaitsMatch s) : AwaitsMatch s.settled :=
  arbitrate_awaits (arbitrate_awaits (arbitrate_awaits (arbitrate_awaits h)))

/-- The frame of every command but POWER_ON (R68). -/
theorem perform_awaits {s t : State} {body : State → State} (h : AwaitsMatch s)
    (hb : ∀ u, AwaitsMatch u → AwaitsMatch (body u)) (e : s.perform body = .next t) :
    AwaitsMatch t := by
  have hc : AwaitsMatch s.clearOut := h.of_eq rfl rfl
  simp only [State.perform, Host.Outcome.next.injEq] at e
  subst e
  split
  · exact settled_awaits (hb _ hc)
  · exact hc

/-! ### Frames (R61 to R66) -/

/-- A completed frame disposed of (R66). -/
theorem dispose_awaits {s : State} (h : AwaitsMatch s) (f : Frame) : AwaitsMatch (s.dispose f) := by
  unfold State.dispose
  split
  · next he =>
    exact dispatch_awaits (s := s.setResponse (Response.running f s.aperture.resp.lost 0))
      ((h.clear (by rw [he]; rfl)).of_records rfl) he f
  · split
    · exact h.of_eq rfl rfl
    · exact h.of_eq rfl rfl
  · exact h.of_eq rfl rfl

/-- A FRAME_BAD report (R63). -/
theorem frameBad_awaits {s : State} (h : AwaitsMatch s) (d c g : Byte) :
    AwaitsMatch (s.frameBad d c g) := by
  unfold State.frameBad
  split <;> exact h.of_eq rfl rfl

/-- A frame as one program (R61, R66). -/
theorem submit_awaits {s : State} (h : AwaitsMatch s) (code : Byte) (r : Request) :
    AwaitsMatch (s.submit code r) := by
  have hd : AwaitsMatch s.dropReception := h.of_eq rfl rfl
  unfold State.submit
  split
  · exact h
  · split
    · exact dispose_awaits hd _
    · exact frameBad_awaits hd _ _ _

/-! ### The abort (R70, R71) -/

/-- The command's requests withdrawn (R124, R135). -/
theorem withdrawn_asks (l : List Entry) :
    commandsIn (mapRequesters (fun r => if r.who = .command then none else some r) l) = [] := by
  unfold commandsIn mapRequesters
  rw [List.flatMap_eq_nil_iff]
  intro e he
  rw [List.mem_filterMap] at he
  obtain ⟨d, _, hd⟩ := he
  split at hd
  · cases hd
  · next hn =>
    cases hd
    simp only [commandsOf, List.map_eq_nil_iff, List.filter_eq_nil_iff]
    intro q hq
    rw [List.mem_filterMap] at hq
    obtain ⟨q', _, hq'⟩ := hq
    split at hq'
    · cases hq'
    · next hw =>
      cases hq'
      simpa using hw

/-- Whose requesters a list holds once they are mapped (R124). -/
theorem mem_mapRequesters {f : Requester → Option Requester} {l : List Entry} {e : Entry}
    {q : Requester} (he : e ∈ mapRequesters f l) (hq : q ∈ e.requesters) :
    ∃ d ∈ l, d.record = e.record ∧ ∃ p ∈ d.requesters, f p = some q := by
  unfold mapRequesters at he
  rw [List.mem_filterMap] at he
  obtain ⟨d, hd, he⟩ := he
  split at he
  · cases he
  · cases he
    rw [List.mem_filterMap] at hq
    exact ⟨d, hd, rfl, hq⟩

/-- The command stopped, none of its writes begun (R71, R135). -/
theorem abortCommand_awaits {s : State} (h : AwaitsMatch s) (hb : s.commandBegun = []) (w : CmdWork) :
    AwaitsMatch (s.abortCommand w) := by
  have hc : s.withdrawCommand.Asks [] := by
    refine ⟨?_, hb, fun e he q hq f v hv => ?_⟩
    · rw [show s.withdrawCommand.commandAsks = [] from withdrawn_asks _]
    · obtain ⟨d, hd, _, p, hp, hpq⟩ := mem_mapRequesters he hq
      split at hpq
      · cases hpq
      · next hn =>
        cases hpq
        exact hn (h.2.2.1 d hd q hp f v hv).1
  unfold State.abortCommand
  refine AwaitsMatch.ended hc ?_ _
  split <;> rfl

/-- No write of the command's has begun (R135). -/
theorem commandBegun_nil {s : State} (h : s.commandWrites = false) : s.commandBegun = [] := by
  unfold State.commandWrites at h
  unfold State.commandBegun
  split
  · rfl
  · next w hw =>
    rw [hw] at h
    simp only [List.any_eq_false, decide_eq_true_eq] at h
    simp only [commandsOf, List.map_eq_nil_iff, List.filter_eq_nil_iff, decide_eq_true_eq]
    exact h

/-- The abort request looked at (R71). -/
theorem observeAbort_awaits {s : State} (h : AwaitsMatch s) : AwaitsMatch s.observeAbort := by
  unfold State.observeAbort
  split
  · split
    · next hc =>
      simp only [Bool.and_eq_true, Bool.not_eq_true'] at hc
      exact abortCommand_awaits h (commandBegun_nil hc.2) _
    · exact h
  · exact h
  · exact h

/-- The abort (R70). -/
theorem abort_awaits {s : State} (h : AwaitsMatch s) : AwaitsMatch s.abort := by
  unfold State.abort
  simp only
  split
  · exact h.of_eq rfl rfl
  · exact h.of_eq rfl rfl
  · exact observeAbort_awaits (h.of_eq rfl rfl)
  · exact h.of_eq rfl rfl

/-! ### The write units of the upstream bus (R40, R51, R60) -/

/-- A program in the request area (R61 to R63). -/
theorem frameProgram_awaits {s : State} (h : AwaitsMatch s) (off : Nat) (data : List Byte) :
    AwaitsMatch (s.frameProgram off data) := by
  have hf : ∀ d b, AwaitsMatch (s.failReception d b) :=
    fun d b => frameBad_awaits (s := s.dropReception) (h.of_eq rfl rfl) _ _ _
  have hr : ∀ b d, AwaitsMatch (s.receive b d) := by
    intro b d
    unfold State.receive
    simp only
    split
    · exact h.of_eq rfl rfl
    · split
      · exact hf _ _
      · split
        · exact h.of_eq rfl rfl
        · exact dispose_awaits (s := s.dropReception) (h.of_eq rfl rfl) _
  unfold State.frameProgram
  split
  · exact hr _ _
  · split
    · split
      · exact hr _ _
      · exact hf _ _
    · exact hf _ _

/-- A slot staged (R51). -/
theorem stageSlot_awaits {s : State} (h : AwaitsMatch s) (m : Mode) (g : Geometry) (phys : Nat) :
    AwaitsMatch (s.stageSlot m g phys) := by
  unfold State.stageSlot
  split
  · exact h
  · split
    · split
      all_goals first | exact h.changeSlot _ _ | exact h
    · exact h

/-- A write unit judged (R40, R47, R49). -/
theorem judgeUnit_awaits {s : State} (h : AwaitsMatch s) (p : Snapshot) (cls : TxClass)
    (base size first : Nat) (covers : Nat → Bool) (op : Nat → DownOp) :
    AwaitsMatch (s.judgeUnit p cls base size first covers op) := by
  have hd : ∀ a d, AwaitsMatch (s.dropUnit p cls a d) := fun a d => h.of_eq rfl rfl
  unfold State.judgeUnit
  split
  · exact hd _ _
  · split
    · exact hd _ _
    · split
      · exact hd _ _
      · split
        · exact hd _ _
        · exact stageSlot_awaits (s := s.forward _) (h.of_eq rfl rfl) _ _ _

/-- A transaction that is none of a READ's bytes (R17, R19). -/
theorem transact_awaits {s : State} (h : AwaitsMatch s) (cls : TxClass) (a : Nat)
    (early : State → State) (act : Snapshot → State → State)
    (he : ∀ u, AwaitsMatch u → AwaitsMatch (early u))
    (ha : ∀ p u, AwaitsMatch u → AwaitsMatch (act p u)) : AwaitsMatch (s.transact cls a early act) := by
  have hr : AwaitsMatch s.released := h.of_eq rfl rfl
  unfold State.transact
  simp only
  split
  · exact he _ hr
  · exact ha _ _ hr

/-! ### Reads -/

/-- A byte of a READ asks for no record. -/
theorem readByte_records (s : State) (r : OpenRead) (flash : List Byte) :
    (s.readByte r flash).1.records = s.records ∧ (s.readByte r flash).1.engine = s.engine := by
  have hp : s.takePort.records = s.records ∧ s.takePort.engine = s.engine := by
    unfold State.takePort
    split <;> exact ⟨rfl, rfl⟩
  have hh : ∀ o, (s.readHeader o).records = s.records ∧ (s.readHeader o).engine = s.engine := by
    intro o
    unfold State.readHeader
    split <;> exact ⟨rfl, rfl⟩
  unfold State.readByte
  simp only
  split
  · exact ⟨rfl, rfl⟩
  · split
    · exact hh _
    · split
      · exact ⟨rfl, rfl⟩
      · split
        · exact ⟨rfl, rfl⟩
        · split <;> (repeat' split) <;> exact hp

/-! ### The boot flow (R89 to R96) -/

/-- A platform restart: nothing of the command's is left (R127, R135). -/
theorem startFlow_awaits {s : State} (h : AwaitsMatch s) (why : BootReason) :
    AwaitsMatch (s.startFlow why) := by
  refine State.Asks.none (s := s.startFlow why) ⟨?_, ?_, ?_⟩ rfl
  · have : (s.startFlow why).commandAsks = [] := by
      change commandsIn (mapRequesters Requester.kept s.records.waiting) = []
      unfold commandsIn
      rw [List.flatMap_eq_nil_iff]
      intro e he
      simp only [commandsOf, List.map_eq_nil_iff, List.filter_eq_nil_iff, decide_eq_true_eq]
      intro q hq hw
      obtain ⟨d, _, _, p, _, hp⟩ := mem_mapRequesters he hq
      rw [Requester.kept_eq] at hp
      split at hp
      · cases hp
      · cases hp
        simp only at hw
        split at hw <;> cases hw
    rw [this]
  · change (match s.records.writing.map (fun w => { w with
      requesters := w.requesters.map Requester.orphaned }) with
      | none => []
      | some w => commandsOf w.record w.requesters) = []
    cases s.records.writing with
    | none => rfl
    | some w =>
      simp only [Option.map_some, commandsOf, List.map_eq_nil_iff, List.filter_eq_nil_iff,
        decide_eq_true_eq]
      intro q hq hw
      obtain ⟨p, _, rfl⟩ := List.mem_map.1 hq
      rw [Requester.orphaned_eq] at hw
      simp only at hw
      split at hw <;> cases hw
  · intro e he q hq f v hv
    change e ∈ mapRequesters Requester.kept s.records.waiting at he
    obtain ⟨d, hd, _, p, hp, hk⟩ := mem_mapRequesters he hq
    rw [Requester.kept_eq] at hk
    split at hk
    · cases hk
    · next hn =>
      cases hk
      exact hn ⟨(h.2.2.1 d hd p hp f v hv).1, by rw [hv]; simp, by rw [hv]; simp⟩

/-- The release step (R96). -/
theorem release_awaits {s : State} (h : AwaitsMatch s) : AwaitsMatch s.release := by
  have hp : ∀ u : State, AwaitsMatch u → AwaitsMatch u.startPenalty := by
    intro u hu
    unfold State.startPenalty
    split
    · exact hu
    · exact hu.of_eq rfl rfl
  have hj : ∀ u : State, AwaitsMatch u →
      AwaitsMatch (if u.cred.wipeUnfinished then u.requestJob .ownerReset else u) := by
    intro u hu
    split
    · exact hu.of_eq rfl rfl
    · exact hu
  exact hj _ (hp _ (h.of_eq rfl rfl))

/-- The loader's chunks ask for no record (R95). -/
theorem goOnLoader_records (s : State) (g : Geometry) :
    (s.goOnLoader g).1.records = s.records ∧ (s.goOnLoader g).1.engine = s.engine := by
  unfold State.goOnLoader State.requestChunk
  split
  · split <;> exact ⟨rfl, rfl⟩
  · exact ⟨rfl, rfl⟩

/-- RECOVERY goes on (R95). -/
theorem onLoader_awaits {s : State} (h : AwaitsMatch s) (r : State × Option (List Byte))
    (e : r.1.records = s.records) (g : r.1.engine = s.engine) : AwaitsMatch (State.onLoader r) := by
  have hr : AwaitsMatch r.1 := h.of_eq e (by rw [g])
  unfold State.onLoader
  split
  · exact hr.of_eq rfl rfl
  · exact release_awaits (s := State.raise _ _) (hr.of_eq rfl rfl)

/-- RECOVERY entered (R95). -/
theorem enterRecovery_awaits {s : State} (h : AwaitsMatch s) : AwaitsMatch s.enterRecovery := by
  unfold State.enterRecovery
  exact onLoader_awaits h _ (goOnLoader_records { s with filter := _, ve := _ } _).1
    (goOnLoader_records { s with filter := _, ve := _ } _).2

/-- The next candidate (R93). -/
theorem tryCandidates_awaits {s : State} (h : AwaitsMatch s) (first : Bool) (l : List SlotId) :
    AwaitsMatch (s.tryCandidates first l) := by
  cases l with
  | nil => exact enterRecovery_awaits h
  | cons x rest =>
    have e := startVerify_records s s.configOrDefault.geo x
    exact h.of_eq e.1 (congrArg Engine.state e.2)

/-- Steps 6 to 8 (R92, R93). -/
theorem selectSlot_awaits {s : State} (h : AwaitsMatch s) : AwaitsMatch s.selectSlot := by
  have hf : ∀ (u : State) (x : SlotId), AwaitsMatch u → AwaitsMatch (u.failTrial x) := by
    intro u x hu
    unfold State.failTrial
    split
    · exact hu.changeSlot _ _
    · exact hu
  exact tryCandidates_awaits (hf _ _ (hf _ _ h)) _ _

/-- The load step and the release (R94, R96). -/
theorem bootVerified_awaits {s : State} (h : AwaitsMatch s) (x : SlotId) (m : Summary) (first : Bool) :
    AwaitsMatch (s.bootVerified x m first) := by
  have hb : AwaitsMatch (s.bootSlot x m) := by
    unfold State.bootSlot
    split
    · simp only
      split
      · exact h
      · exact h.changeSlot _ _
    · exact (h.changeSlot x _).of_eq rfl rfl
  unfold State.bootVerified
  simp only
  split
  · exact release_awaits (hb.of_eq rfl rfl)
  · exact release_awaits (hb.of_eq rfl rfl)

/-- A candidate's verification has ended (R93). -/
theorem candidateEnded_awaits {s : State} (h : AwaitsMatch s) (x : SlotId) (rest : List SlotId)
    (first : Bool) (o : VerifyOutcome) : AwaitsMatch (s.candidateEnded x rest first o) := by
  cases o with
  | pass m => exact bootVerified_awaits h x m first
  | fail why => exact tryCandidates_awaits (h.changeSlot x _) _ _

/-- Step 5 goes on (R91). -/
theorem onFlowBurns_awaits {s : State} (h : AwaitsMatch s) (r : State × BurnStatus)
    (e : r.1.records = s.records) (g : r.1.engine = s.engine) :
    AwaitsMatch (State.onFlowBurns r) := by
  have hr : AwaitsMatch r.1 := h.of_eq e (by rw [g])
  unfold State.onFlowBurns
  split
  · exact hr.of_eq rfl rfl
  · exact hr.of_eq rfl rfl
  · refine selectSlot_awaits ?_
    split
    · exact hr.of_eq rfl rfl
    · exact hr

/-- The flow leaves step 2 (R89 to R91). -/
theorem resumeFlow_awaits {s : State} (h : AwaitsMatch s) (i j k : Byte) :
    AwaitsMatch (s.resumeFlow i j k) := by
  have hc : AwaitsMatch ((s.capture i j k).countBoot) :=
    AwaitsMatch.request (s := { s.capture i j k with slots := _ }) (h.of_eq rfl rfl) .counters (by simp)
      (by simp)
  unfold State.resumeFlow
  simp only
  split
  · exact release_awaits (hc.of_eq rfl rfl)
  · exact onFlowBurns_awaits hc _ (goOnBurns_records _ _ _).1 (goOnBurns_records _ _ _).2

/-- The procedure's chunks ask for no record (R85). -/
theorem feedVerify_records (s : State) (g : Geometry) (bytes : List Byte) :
    (s.feedVerify g bytes).1.records = s.records ∧ (s.feedVerify g bytes).1.engine = s.engine := by
  have hi : ∀ (u : State) (x : SlotId), (u.goOnImage g x).1.records = u.records ∧
      (u.goOnImage g x).1.engine = u.engine := by
    intro u x
    unfold State.goOnImage State.requestChunk
    simp only
    split
    · split <;> exact ⟨rfl, rfl⟩
    · exact ⟨rfl, rfl⟩
  unfold State.feedVerify
  split
  · split
    · exact ⟨rfl, rfl⟩
    · exact hi { s with ve := _ } _
  · exact hi { s with ve := _ } _
  · exact ⟨rfl, rfl⟩
  · exact ⟨rfl, rfl⟩

/-- A completed chunk of the flow (R85, R95). -/
theorem flowChunk_awaits {s : State} (h : AwaitsMatch s) (bytes : List Byte) :
    AwaitsMatch (s.flowChunk bytes) := by
  unfold State.flowChunk
  simp only
  split
  · have e := feedVerify_records s s.configOrDefault.geo bytes
    generalize s.feedVerify s.configOrDefault.geo bytes = r at e
    obtain ⟨t, o⟩ := r
    have ht : AwaitsMatch t := h.of_eq e.1 (congrArg Engine.state e.2)
    cases o with
    | going => exact ht
    | ended o => exact candidateEnded_awaits ht _ _ _ _
  · exact onLoader_awaits h _ (goOnLoader_records { s with ve := _ } _).1
      (goOnLoader_records { s with ve := _ } _).2
  · exact h
  · exact h
  · exact h

/-! ### The events of the Verification Engine (R102 to R104, R134) -/

/-- A completed chunk of UPDATE_VERIFY (R102 to R104). -/
theorem commandChunk_awaits {s : State} (h : AwaitsMatch s) {x : SlotId}
    (he : s.engine.state = .command (.verify x)) (bytes : List Byte) :
    AwaitsMatch (s.commandChunk x bytes) := by
  have hc := h.clear (by rw [he]; rfl)
  unfold State.commandChunk
  split
  · exact abortCommand_awaits h hc.2.1 _
  · have e := feedVerify_records s s.filter.geo bytes
    generalize s.feedVerify s.filter.geo bytes = r at e
    obtain ⟨t, o⟩ := r
    cases o with
    | going => exact h.of_eq e.1 (congrArg Engine.state e.2)
    | ended o =>
      exact observeAbort_awaits
        (State.Asks.one (hc.of_records e.1) (by simp) (by simp) rfl (by simp) (by simp))

/-- CHUNK_COMPLETE (R31). -/
theorem chunkBytes_awaits {s : State} (h : AwaitsMatch s) (data : List Byte) :
    AwaitsMatch (s.chunkBytes data) := by
  have hd : ∀ (u : State) (bytes : List Byte), AwaitsMatch u → AwaitsMatch (u.chunkDone bytes) := by
    intro u bytes hu
    unfold State.chunkDone
    split
    · next x he => exact commandChunk_awaits hu he bytes
    · exact flowChunk_awaits hu bytes
  unfold State.chunkBytes
  split
  · exact h
  · exact h
  · simp only
    split
    · exact h.of_eq rfl rfl
    · exact hd _ _ (h.of_eq rfl rfl)

/-- SIGNATURE_COMPLETE (R134). -/
theorem finishSignature_awaits {s : State} (h : AwaitsMatch s) : AwaitsMatch s.finishSignature := by
  unfold State.finishSignature
  split
  · next he =>
    simp only
    apply AwaitsMatch.ended (h.clear (by rw [he]; rfl))
    rfl
  · exact h

/-- GENERATION_COMPLETE (R134). -/
theorem finishGeneration_awaits {s : State} (h : AwaitsMatch s) : AwaitsMatch s.finishGeneration := by
  unfold State.finishGeneration
  split
  · next he =>
    exact State.Asks.one ((h.clear (by rw [he]; rfl)).of_records rfl) (by simp) (by simp) rfl (by simp)
      (by simp)
  · next he =>
    have hc := h.clear (by rw [he]; rfl)
    have h2 := fun k k' => ((hc.command (rec := .key 0) (c := .key k) (by simp) (by simp)
      (by simp)).command (rec := .key 3) (c := .key k') (by simp) (by simp) (by simp))
    refine State.Asks.matched (s := State.work _ _) (State.Asks.of_records (h2 _ _) rfl) ?_ ?_ ?_ ?_
    · exact List.Perm.swap _ _ _
    · change List.Nodup [RecordId.key 0, RecordId.key 3]
      decide
    · exact fun f v a hs => by cases hs
    · exact fun id hs => by cases hs
  · exact h

/-! ### The begin of a write (R125) -/

/-- A change other than UPDATE_CONFIRM's asks for no record (R125). -/
theorem applyChange_keeps (s : State) (rec : RecordId) {c : Change} (hc : ∀ f v, c ≠ .confirm f v) :
    (s.applyChange rec c).records = s.records ∧ (s.applyChange rec c).engine = s.engine := by
  cases c with
  | confirm f v => exact absurd rfl (hc f v)
  | asIs => exact ⟨rfl, rfl⟩
  | verify o => cases rec <;> exact ⟨rfl, rfl⟩
  | credIncrement => exact ⟨rfl, rfl⟩
  | credClear => exact ⟨rfl, rfl⟩
  | ownerReset => exact ⟨rfl, rfl⟩
  | key k => cases rec <;> exact ⟨rfl, rfl⟩
  | cred k => cases rec <;> exact ⟨rfl, rfl⟩
  | config k => exact ⟨rfl, rfl⟩
  | cert k => exact ⟨rfl, rfl⟩

/-- Nor do several (R125). -/
theorem applyAll_keeps (rec : RecordId) (rs : List Requester) (s : State)
    (hc : ∀ q ∈ rs, ∀ f v, q.change ≠ .confirm f v) :
    (rs.foldl (fun u q => u.applyChange rec q.change) s).records = s.records ∧
      (rs.foldl (fun u q => u.applyChange rec q.change) s).engine = s.engine := by
  induction rs generalizing s with
  | nil => exact ⟨rfl, rfl⟩
  | cons q rs ih =>
    have h1 := applyChange_keeps s rec (hc q List.mem_cons_self)
    have h2 := ih (s.applyChange rec q.change) fun q' hq' => hc q' (List.mem_cons_of_mem _ hq')
    exact ⟨h2.1.trans h1.1, h2.2.trans h1.2⟩

/-- A slot told of leaves the engine. -/
theorem changeSlotTold_engine (s : State) (x : SlotId) (r : SlotRec) :
    (s.changeSlotTold x r).engine = s.engine := rfl

/-- The settling asks for the SLOT writes it then awaits (R109). -/
theorem settleSlots_asks {s : State} (h : s.Asks []) (floor : Nat) :
    ∃ ws, (s.settleSlots floor).1.Asks ws ∧ (ws.map Prod.fst).Perm (s.settleSlots floor).2 ∧
      (RecordId.counters :: (s.settleSlots floor).2).Nodup ∧
      (s.settleSlots floor).1.engine = s.engine := by
  unfold State.settleSlots
  split
  · next x hx =>
    have hne : x.other ≠ x := by cases x <;> simp [SlotId.other]
    simp only
    split
    · next r hr =>
      have h1 := h.changeSlotTold (x := x.other) r (by simp)
      split
      · refine ⟨_, h1.changeSlotTold (x := x) _ (by simp [hne.symm]), ?_, ?_,
          (changeSlotTold_engine _ _ _).trans (changeSlotTold_engine _ _ _)⟩
        · exact List.Perm.swap _ _ _
        · simp [hne]
      · exact ⟨_, h1, .refl _, by simp, changeSlotTold_engine _ _ _⟩
    · split
      · exact ⟨_, h.changeSlotTold (x := x) _ (by simp), .refl _, by simp, changeSlotTold_engine _ _ _⟩
      · exact ⟨[], h, .refl _, by simp, rfl⟩
  · exact ⟨[], h, .refl _, by simp, rfl⟩

/-- A requester of the command's. -/
theorem mem_commandsOf {rec : RecordId} {rs : List Requester} {q : Requester} (hq : q ∈ rs)
    (hw : q.who = .command) : (rec, q.change) ∈ commandsOf rec rs := by
  simp only [commandsOf, List.mem_map, List.mem_filter]
  exact ⟨q, ⟨hq, by simp [hw]⟩, rfl⟩

/-- One in the waiting list. -/
theorem mem_commandsIn {l : List Entry} {e : Entry} (he : e ∈ l) {q : Requester}
    (hq : q ∈ e.requesters) (hw : q.who = .command) : (e.record, q.change) ∈ commandsIn l := by
  simp only [commandsIn, List.mem_flatMap]
  exact ⟨e, he, mem_commandsOf hq hw⟩

/-- The head entry begins (R125). -/
theorem beginWrite_awaits {s : State} (h : AwaitsMatch s) (hw : s.records.writing = none) {e : Entry}
    {rest : List Entry} (hl : s.records.waiting = e :: rest) : AwaitsMatch (s.beginWrite e rest) := by
  obtain ⟨h1, h2, h3, h4, h5⟩ := h
  have hb : s.commandBegun = [] := by unfold State.commandBegun; rw [hw]
  have ha : s.commandAsks = commandsOf e.record e.requesters ++ commandsIn rest := by
    unfold State.commandAsks
    rw [hl, commandsIn_cons]
  rw [hb, List.append_nil, ha] at h1 h5
  have hf : ∀ f v a, s.engine.state = .command (.confirmCounters f v a) → a = [] := by
    intro f v a hs
    by_contra hn
    have := h4 f v a hs hn
    rw [hb] at this
    cases this
  by_cases hc : ∃ q ∈ e.requesters, ∃ f v, q.change = .confirm f v
  · obtain ⟨q, hq, f, v, hv⟩ := hc
    obtain ⟨k1, k2, f', v', a, k3⟩ := h3 e (by rw [hl]; exact List.mem_cons_self) q hq f v hv
    have ka := hf _ _ _ k3
    subst ka
    rw [k3] at h1
    obtain ⟨pre, post, hp⟩ := List.append_of_mem hq
    have hone : commandsOf e.record e.requesters = commandsOf e.record pre ++
        ((e.record, q.change) :: commandsOf e.record post) := by
      rw [hp, commandsOf_append, show q :: post = [q] ++ post from rfl, commandsOf_append]
      simp [commandsOf, k1]
    have hlen := h1.length_eq
    rw [hone] at hlen
    simp only [EngineState.awaits, List.length_map, List.length_append, List.length_cons,
      List.length_nil] at hlen
    have hpre : commandsOf e.record pre = [] := List.eq_nil_of_length_eq_zero (by omega)
    have hpost : commandsOf e.record post = [] := List.eq_nil_of_length_eq_zero (by omega)
    have hrest : commandsIn rest = [] := List.eq_nil_of_length_eq_zero (by omega)
    have hnc : ∀ (l : List Requester), (∀ q ∈ l, q ∈ e.requesters) → commandsOf e.record l = [] →
        ∀ q ∈ l, ∀ f v, q.change ≠ .confirm f v := by
      intro l hl' hn q' hq' f'' v'' hv'
      have k := (h3 e (by rw [hl]; exact List.mem_cons_self) q' (hl' q' hq') f'' v'' hv').1
      have := mem_commandsOf (rec := e.record) hq' k
      rw [hn] at this
      cases this
    have hc1 := hnc pre (fun q' hq' => by rw [hp]; exact List.mem_append_left _ hq') hpre
    have hc2 := hnc post
      (fun q' hq' => by rw [hp]; exact List.mem_append_right _ (List.mem_cons_of_mem _ hq')) hpost
    have hno : NoConfirm rest := by
      intro d hd q' hq' f'' v'' hv'
      have k := (h3 d (by rw [hl]; exact List.mem_cons_of_mem _ hd) q' hq' f'' v'' hv').1
      have := mem_commandsIn hd hq' k
      rw [hrest] at this
      cases this
    have hu : (e.requesters.foldl (fun u q => u.applyChange e.record q.change)
        { s with records := { s.records with waiting := rest } }) =
        post.foldl (fun u q => u.applyChange e.record q.change)
          (State.applyConfirm (pre.foldl (fun u q => u.applyChange e.record q.change)
            { s with records := { s.records with waiting := rest } }) f) := by
      rw [hp, List.foldl_append, List.foldl_cons, hv]
      rfl
    unfold State.beginWrite
    simp only
    rw [hu]
    obtain ⟨g1, g2⟩ := applyAll_keeps e.record pre
      { s with records := { s.records with waiting := rest } } hc1
    generalize List.foldl (fun u q => State.applyChange u e.record q.change)
      { s with records := { s.records with waiting := rest } } pre = u1 at g1 g2
    have g3 : u1.Asks [] := by
      refine State.Asks.of_records (s := { s with records := { s.records with waiting := rest } })
        ⟨?_, hb, hno⟩ g1
      change (commandsIn rest).Perm []
      rw [hrest]
    obtain ⟨ws, w1, w2, w3, w4⟩ := settleSlots_asks g3 f
    have hap : u1.applyConfirm f = ((u1.settleSlots f).1).work
        (.confirmCounters f' v' (u1.settleSlots f).2) := by
      have he : (u1.settleSlots f).1.engine.state = .command (.confirmCounters f' v' []) := by
        rw [w4, g2]
        exact k3
      unfold State.applyConfirm
      simp only [he]
    rw [hap]
    obtain ⟨p1, p2⟩ := applyAll_keeps e.record post
      (((u1.settleSlots f).1).work (.confirmCounters f' v' (u1.settleSlots f).2)) hc2
    generalize List.foldl (fun u q => State.applyChange u e.record q.change)
      (((u1.settleSlots f).1).work (.confirmCounters f' v' (u1.settleSlots f).2)) post = u2 at p1 p2
    have hwait : u2.records.waiting = (u1.settleSlots f).1.records.waiting := by rw [p1]; rfl
    refine ⟨?_, ?_, ?_, ?_, ?_⟩
    · change List.Perm (List.map Prod.fst
        (commandsIn u2.records.waiting ++ commandsOf e.record e.requesters)) u2.engine.state.awaits
      rw [hwait, p2, hone, hpre, hpost, k2, List.map_append]
      refine (List.Perm.append_right _ ((w1.1.map Prod.fst).trans w2)).trans ?_
      exact List.perm_append_comm
    · change List.Nodup u2.engine.state.awaits
      rw [p2]
      exact w3
    · intro d hd q' hq' f'' v'' hv'
      change d ∈ u2.records.waiting at hd
      rw [hwait] at hd
      exact absurd hv' (w1.2.2 d hd q' hq' f'' v'')
    · intro _ _ _ _ _
      change (commandsOf e.record e.requesters).map Prod.fst = [.counters]
      rw [hone, hpre, hpost, k2]
      rfl
    · intro id hs
      change u2.engine.state = _ at hs
      rw [p2] at hs
      cases hs
  · have hc' : ∀ q ∈ e.requesters, ∀ f v, q.change ≠ .confirm f v :=
      fun q hq f v hv => hc ⟨q, hq, f, v, hv⟩
    obtain ⟨g1, g2⟩ := applyAll_keeps e.record e.requesters
      { s with records := { s.records with waiting := rest } } hc'
    unfold State.beginWrite
    simp only
    generalize List.foldl (fun u q => State.applyChange u e.record q.change)
      { s with records := { s.records with waiting := rest } } e.requesters = u at g1 g2
    have hwait : u.records.waiting = rest := by rw [g1]
    have hst : u.engine.state = s.engine.state := by rw [g2]
    refine ⟨?_, ?_, ?_, ?_, ?_⟩
    · change List.Perm (List.map Prod.fst
        (commandsIn u.records.waiting ++ commandsOf e.record e.requesters)) u.engine.state.awaits
      rw [hwait, hst]
      exact (List.perm_append_comm.map _).trans h1
    · change List.Nodup u.engine.state.awaits
      rw [hst]
      exact h2
    · intro d hd q' hq' f v hv
      change d ∈ u.records.waiting at hd
      rw [hwait] at hd
      change _ ∧ _ ∧ ∃ f v awaited, u.engine.state = _
      rw [hst]
      exact h3 d (by rw [hl]; exact List.mem_cons_of_mem _ hd) q' hq' f v hv
    · intro f v a hs hn
      change u.engine.state = _ at hs
      rw [hst] at hs
      exact absurd (hf f v a hs) hn
    · intro id hs p hp
      change u.engine.state = _ at hs
      change p ∈ commandsIn u.records.waiting ++ commandsOf e.record e.requesters at hp
      rw [hst] at hs
      rw [hwait] at hp
      exact h5 id hs p (List.mem_append.2 ((List.mem_append.1 hp).symm))

/-- RECORD_WRITE_BEGIN (R125). -/
theorem recordBegin_awaits {s : State} (h : AwaitsMatch s) : AwaitsMatch s.recordBegin := by
  unfold State.recordBegin
  split
  · next e rest hw hl hn => exact beginWrite_awaits h hw hl
  · exact h

/-! ### The completion of a write (R125) -/

/-- UPDATE_CONFIRM goes on to the SLOT writes, or to its burns (R111). -/
theorem confirmNext_awaits {s : State} {ws : List (RecordId × Change)} (h : s.Asks ws)
    {awaited : List RecordId} (hp : (ws.map Prod.fst).Perm awaited) (hn : awaited.Nodup) :
    AwaitsMatch (s.confirmNext awaited) := by
  cases awaited with
  | nil =>
    have : ws = [] := List.map_eq_nil_iff.1 hp.eq_nil
    subst this
    exact onCommandBurns_awaits h _ (goOnBurns_records _ _ _).1
  | cons r rs =>
    refine State.Asks.matched (s := s.work _) (h.of_records rfl) hp hn ?_ ?_
    · exact fun f v a hs => by cases hs
    · exact fun id hs => by cases hs

/-- The command told of the completion of a write of its own: what it still waits for is what it awaited but
for that record (R125). -/
theorem tellCommand_awaits {s : State} {w : CmdWork} {rec : RecordId} {ws : List (RecordId × Change)}
    (h : s.Asks ws) (hm : rec ∈ EngineState.awaits (.command w))
    (hp : (ws.map Prod.fst).Perm ((EngineState.awaits (.command w)).erase rec))
    (hn : (EngineState.awaits (.command w)).Nodup)
    (hf : ∀ f v a, w = .confirmCounters f v a → a ≠ [] → rec = .counters) :
    AwaitsMatch (s.tellCommand rec w) := by
  have hone : ∀ r, EngineState.awaits (.command w) = [r] → s.Asks [] := by
    intro r hr
    rw [hr] at hm hp
    rw [List.mem_singleton.1 hm, List.erase_cons_head] at hp
    have : ws = [] := List.map_eq_nil_iff.1 hp.eq_nil
    rwa [this] at h
  cases w with
  | verify x => cases hm
  | verifyStore x o => exact AwaitsMatch.endCommand (hone _ rfl) _
  | confirmCounters f v a =>
    have hr : rec = .counters := by
      by_cases ha : a = []
      · subst ha
        exact List.mem_singleton.1 hm
      · exact hf f v a rfl ha
    subst hr
    simp only [EngineState.awaits, List.erase_cons_head] at hp
    exact confirmNext_awaits h hp (List.nodup_cons.1 hn).2
  | confirmSlots a => exact confirmNext_awaits h hp (hn.erase _)
  | confirmBurn q => cases hm
  | sign a b c => cases hm
  | generate g => cases hm
  | store a p =>
    have hp' : (ws.map Prod.fst).Perm (a.erase rec) := hp
    have hn' : (a.erase rec).Nodup := hn.erase _
    simp only [State.tellCommand]
    generalize a.erase rec = l at hp' hn' ⊢
    cases l with
    | nil =>
      have : ws = [] := List.map_eq_nil_iff.1 hp'.eq_nil
      subst this
      exact AwaitsMatch.endCommand h _
    | cons r rs =>
      refine State.Asks.matched (s := s.work _) (h.of_records rfl) hp' hn' ?_ ?_
      · exact fun f v a hs => by cases hs
      · exact fun id hs => by cases hs
  | credIncrement id c =>
    have hc := hone _ rfl
    simp only [State.tellCommand, State.credCompare]
    split
    · exact State.Asks.one hc (by simp) (by simp) rfl (by simp) (by simp)
    · unfold State.credMismatch
      simp only
      refine AwaitsMatch.ended hc ?_ _
      split
      · rfl
      · unfold State.startPenalty
        split <;> rfl
  | credClear id =>
    have hc := hone _ rfl
    simp only [State.tellCommand, State.credMatched]
    refine AwaitsMatch.ended hc ?_ _
    split <;> rfl
  | deployBurn b n => cases hm
  | deploySlots b a =>
    have hp' : (ws.map Prod.fst).Perm (a.erase rec) := hp
    have hn' : (a.erase rec).Nodup := hn.erase _
    simp only [State.tellCommand]
    generalize a.erase rec = l at hp' hn' ⊢
    cases l with
    | nil =>
      have : ws = [] := List.map_eq_nil_iff.1 hp'.eq_nil
      subst this
      exact (AwaitsMatch.endCommand h (.ok (u8 b))).of_eq rfl rfl
    | cons r rs =>
      refine State.Asks.matched (s := s.work _) (h.of_records rfl) hp' hn' ?_ ?_
      · exact fun f v a hs => by cases hs
      · exact fun id hs => by cases hs

/-- A write of the command's. -/
theorem involves_iff (rec : RecordId) (rs : List Requester) :
    involves rs .command = true ↔ commandsOf rec rs ≠ [] := by
  simp only [involves, List.any_eq_true, decide_eq_true_eq, commandsOf, ne_eq, List.map_eq_nil_iff,
    List.filter_eq_nil_iff, not_forall, not_not]
  exact ⟨fun ⟨q, h1, h2⟩ => ⟨q, h1, h2⟩, fun ⟨q, h1, h2⟩ => ⟨q, h1, h2⟩⟩

/-- Requests for one record. -/
theorem commandsOf_fst (rec : RecordId) (rs : List Requester) :
    ∀ p ∈ commandsOf rec rs, p.1 = rec := by
  intro p hp
  simp only [commandsOf, List.mem_map] at hp
  obtain ⟨q, _, rfl⟩ := hp
  rfl

/-- A write completes (R125). -/
theorem completeWrite_awaits {s : State} (h : AwaitsMatch s) {w : Writing}
    (hw : s.records.writing = some w) : AwaitsMatch (s.completeWrite w) := by
  obtain ⟨h1, h2, h3, h4, h5⟩ := h
  have hb : s.commandBegun = commandsOf w.record w.requesters := by
    unfold State.commandBegun
    rw [hw]
  rw [hb] at h1 h4 h5
  refine observeAbort_awaits ?_
  have keeps : ∀ t : State, t.records = { s.records with
      store := s.records.store.put w.record w.content, writing := none } →
      t.commandAsks = s.commandAsks ∧ t.commandBegun = [] := by
    intro t ht
    unfold State.commandAsks State.commandBegun
    rw [ht]
    exact ⟨rfl, rfl⟩
  -- the requests left, with no change of UPDATE_CONFIRM among them
  have hask : ∀ t : State, t.records = { s.records with
      store := s.records.store.put w.record w.content, writing := none } →
      (∀ f v a, s.engine.state = .command (.confirmCounters f v a) →
        commandsOf w.record w.requesters ≠ [] ) → t.Asks s.commandAsks := by
    intro t ht hne
    refine ⟨by rw [(keeps t ht).1], (keeps t ht).2, ?_⟩
    rw [ht]
    intro e he q hq f v hv
    obtain ⟨k1, k2, f', v', a, k3⟩ := h3 e he q hq f v hv
    have hn := hne f' v' a k3
    have hm := mem_commandsIn he hq k1
    rw [k2] at hm
    rw [k3] at h1 h2
    have hc : (commandsOf w.record w.requesters).map Prod.fst ≠ [] := by simpa using hn
    by_cases ha : a = []
    · subst ha
      have hl := h1.length_eq
      simp only [EngineState.awaits, List.length_map, List.length_append, List.length_cons,
        List.length_nil] at hl
      have := List.length_pos_of_mem hm
      have := List.length_pos_iff.2 hn
      change 0 < s.commandAsks.length at *
      omega
    · have h6 := h4 f' v' a k3 ha
      rw [List.map_append, h6] at h1
      have h7 : (s.commandAsks.map Prod.fst).Perm a := by
        have := h1.trans (show (RecordId.counters :: a).Perm (a ++ [.counters]) from
          (List.perm_append_singleton _ _).symm)
        exact (List.perm_append_right_iff _).1 this
      have h8 : RecordId.counters ∈ a := h7.mem_iff.1 (List.mem_map.2 ⟨_, hm, rfl⟩)
      exact (List.nodup_cons.1 h2).1 h8
  have idle : ∀ t : State, t.records = { s.records with
      store := s.records.store.put w.record w.content, writing := none } →
      s.engine.state.awaits = [] → t.Asks [] := by
    intro t ht ha
    rw [ha] at h1
    obtain ⟨g1, g2⟩ := List.append_eq_nil_iff.1 (List.map_eq_nil_iff.1 h1.eq_nil)
    have := hask t ht (fun f v a hs => by rw [hs] at ha; cases ha)
    rwa [g1] at this
  unfold State.tell
  generalize ht : (State.takePending { s with records := { s.records with
    store := s.records.store.put w.record w.content, writing := none } } w.requesters) = t
  have hr : t.records = { s.records with
      store := s.records.store.put w.record w.content, writing := none } := by rw [← ht]; rfl
  have hs : t.engine = s.engine := by rw [← ht]; rfl
  split
  · next he =>
    rw [hs] at he
    exact (idle t hr (by rw [he]; rfl)).none (by rw [hs, he]; rfl)
  · next cw he =>
    rw [hs] at he
    split
    · next hi =>
      have hi' := (involves_iff w.record w.requesters).1 hi
      obtain ⟨p, l, hpl⟩ := List.exists_cons_of_ne_nil hi'
      have hfst := commandsOf_fst w.record w.requesters
      rw [he] at h1 h2
      have hmem : w.record ∈ EngineState.awaits (.command cw) :=
        h1.mem_iff.1 (List.mem_map.2 ⟨p, List.mem_append_right _ (by rw [hpl]; exact List.mem_cons_self),
          hfst p (by rw [hpl]; exact List.mem_cons_self)⟩)
      have hl : l = [] := by
        cases l with
        | nil => rfl
        | cons p' l' =>
          have hd := (h1.nodup_iff).2 h2
          rw [List.map_append, hpl, List.nodup_append] at hd
          have hd' := hd.2.1
          simp only [List.map_cons, List.nodup_cons, List.mem_cons, not_or] at hd'
          have e1 := hfst p (by rw [hpl]; exact List.mem_cons_self)
          have e2 := hfst p' (by rw [hpl]; exact List.mem_cons_of_mem _ List.mem_cons_self)
          exact absurd (e1.trans e2.symm) hd'.1.1
      subst hl
      have e1 := hfst p (by rw [hpl]; exact List.mem_cons_self)
      refine tellCommand_awaits (hask t hr fun _ _ _ _ => hi') hmem ?_ h2 ?_
      · rw [List.map_append, hpl, List.map_singleton, e1] at h1
        have := h1.trans (List.perm_cons_erase hmem)
        have h9 : (w.record :: s.commandAsks.map Prod.fst).Perm
            (w.record :: (EngineState.awaits (.command cw)).erase w.record) :=
          (List.perm_append_singleton _ _).symm.trans this
        exact h9.cons_inv
      · intro f v a hc ha
        have := h4 f v a (by rw [he, hc]) ha
        rw [hpl, List.map_singleton, e1] at this
        exact List.singleton_inj.1 this
    · next hi =>
      have hi' : commandsOf w.record w.requesters = [] := by
        by_contra hn
        exact hi ((involves_iff w.record w.requesters).2 hn)
      rw [hi', List.append_nil] at h1 h5
      rw [hi'] at h4
      refine ⟨?_, by rw [hs]; exact h2, ?_, ?_, ?_⟩
      · rw [(keeps t hr).1, (keeps t hr).2, List.append_nil, hs]
        exact h1
      · rw [hr, hs]
        exact h3
      · intro f v a hc ha
        rw [hs] at hc
        have := h4 f v a hc ha
        cases this
      · intro id hc
        rw [(keeps t hr).1, (keeps t hr).2, List.append_nil]
        rw [hs] at hc
        exact h5 id hc
  · next jw he =>
    rw [hs] at he
    have hc := idle t hr (by rw [he]; rfl)
    split
    · unfold State.tellJob
      split
      · exact wipeNext_awaits hc _
      · exact AwaitsMatch.rests (t := t.ownerResetEnd) hc rfl rfl
      · exact hc.none (by rw [hs, he]; rfl)
    · exact hc.none (by rw [hs, he]; rfl)

/-- RECORD_WRITE_COMPLETE (R125). -/
theorem recordComplete_awaits {s : State} (h : AwaitsMatch s) : AwaitsMatch s.recordComplete := by
  unfold State.recordComplete
  split
  · exact h
  · next w hw => exact completeWrite_awaits h hw

/-! ### The burns (R111, R114, R119) -/

/-- A LIFECYCLE bit has ended (R122, R146). -/
theorem onDeployBurn_awaits {s : State} (h : s.Asks []) (bit : Nat) (o : BurnOutcome) :
    AwaitsMatch (s.onDeployBurn bit o) := by
  cases o with
  | burned => exact deployBurned_awaits h bit
  | supplyStop => exact AwaitsMatch.works h rfl rfl
  | failed =>
    simp only [State.onDeployBurn]
    split
    · exact deployTry_awaits h _
    · exact AwaitsMatch.ended (s := s) h rfl (.plain .fuseFault)

/-- The burns after a bit ask for no record (R111, R114). -/
theorem afterBurn_records (s : State) (o : BurnOwner) (q : BurnSeq) (row : FuseRow)
    (r : BurnOutcome) : (s.afterBurn o q row r).1.records = s.records ∧
      (s.afterBurn o q row r).1.engine = s.engine := by
  cases r
  · exact goOnBurns_records _ _ _
  · exact ⟨rfl, rfl⟩
  · exact goOnBurns_records _ _ _

/-- A bit burn's outcome (R119). -/
theorem burnEnded_awaits {s : State} (h : AwaitsMatch s) (owner : BurnOwner) (target : FuseBit)
    (o : BurnOutcome) : AwaitsMatch (s.burnEnded owner target o) := by
  unfold State.burnEnded
  split
  · exact h
  · split
    · next he => exact onCommandBurns_awaits (h.clear (by rw [he]; rfl)) _ (afterBurn_records _ _ _ _ _).1
    · next he => exact onDeployBurn_awaits (h.clear (by rw [he]; rfl)) _ _
    · exact h
  · split
    · next he => exact onJobBurns_awaits (h.clear (by rw [he]; rfl)) _ (afterBurn_records _ _ _ _ _).1
    · exact h
  · split
    · exact onFlowBurns_awaits h _ (afterBurn_records _ _ _ _ _).1 (afterBurn_records _ _ _ _ _).2
    · exact h

/-- The waiting burns ask for no record (R119). -/
theorem takeQueue_records (l : List BurnRequest) (s : State) :
    (takeQueue l s).1.records = s.records ∧ (takeQueue l s).1.engine = s.engine := by
  induction l generalizing s with
  | nil => exact ⟨rfl, rfl⟩
  | cons r rs ih =>
    have ht : ∀ t o, s.takeBurn r.target r.owner = (t, o) → t.records = s.records ∧
        t.engine = s.engine := by
      intro t o ht
      unfold State.takeBurn at ht
      (repeat' split at ht) <;> cases ht <;> exact ⟨rfl, rfl⟩
    unfold takeQueue
    split
    · exact ⟨rfl, rfl⟩
    · split
      · next t e => exact ⟨(ih t).1.trans (ht _ _ e).1, (ih t).2.trans (ht _ _ e).2⟩
      · next t o e => exact ⟨(ih t).1.trans (ht _ _ e).1, (ih t).2.trans (ht _ _ e).2⟩

/-- FUSE_ATTEMPT_DONE (R119). -/
theorem fuseAttempt_awaits {s : State} (h : AwaitsMatch s) (b : BitBurn) (back : Bool) :
    AwaitsMatch (s.fuseAttempt b back) := by
  have hr : ∀ t o, s.readBack b back = (t, o) → t.records = s.records ∧ t.engine = s.engine := by
    intro t o ht
    unfold State.readBack at ht
    simp only at ht
    (repeat' split at ht) <;> cases ht <;> exact ⟨rfl, rfl⟩
  have hq : ∀ (l : List (BurnRequest × BurnOutcome)) (t : State), AwaitsMatch t →
      AwaitsMatch (t.queueEnded l) := by
    intro l
    unfold State.queueEnded
    induction l with
    | nil => exact fun t ht => ht
    | cons e es ih => exact fun t ht => ih _ (burnEnded_awaits ht _ _ _)
  unfold State.fuseAttempt
  split
  · next t e => exact h.of_eq (hr _ _ e).1 (congrArg Engine.state (hr _ _ e).2)
  · next t o e =>
    have ht : AwaitsMatch t := h.of_eq (hr _ _ e).1 (congrArg Engine.state (hr _ _ e).2)
    have hk := takeQueue_records t.fuses.queue t
    exact hq _ _ (burnEnded_awaits (ht.of_eq hk.1 (congrArg Engine.state hk.2)) _ _ _)

/-! ### Supply, button and timers -/

/-- A cause of the supply (R131). -/
theorem raiseOutsideS0_awaits {s : State} (h : AwaitsMatch s) (c : Cause) :
    AwaitsMatch (s.raiseOutsideS0 c) := by
  unfold State.raiseOutsideS0
  split
  · exact h
  · exact h.of_eq rfl rfl

/-- Entry into LOW (R131). -/
theorem enterLow_awaits {s : State} (h : AwaitsMatch s) : AwaitsMatch s.enterLow :=
  observeAbort_awaits (raiseOutsideS0_awaits (s := s.setSupply false) (h.of_eq rfl rfl) _)

/-- Entry into NORMAL (R113, R131). -/
theorem enterNormal_awaits {s : State} (h : AwaitsMatch s) : AwaitsMatch s.enterNormal := by
  have h1 : ∀ t : State, AwaitsMatch t → AwaitsMatch t.resumeFlowBurns := by
    intro t ht
    unfold State.resumeFlowBurns
    split
    · exact onFlowBurns_awaits ht _ (goOnBurns_records _ _ _).1 (goOnBurns_records _ _ _).2
    · exact ht
  have h2 : ∀ t : State, AwaitsMatch t → AwaitsMatch t.resumeDeploy := by
    intro t ht
    unfold State.resumeDeploy
    split
    · next he => exact deployTry_awaits (ht.clear (by rw [he]; rfl)) _
    · exact ht
  have h3 : ∀ t : State, AwaitsMatch t → AwaitsMatch t.requestDeferred := by
    intro t ht
    unfold State.requestDeferred
    split
    · exact ht.of_eq rfl rfl
    · exact ht
  exact h3 _ (h2 _ (h1 _ (raiseOutsideS0_awaits (s := s.setSupply true) (h.of_eq rfl rfl) _)))

/-- A press and a release (R174). -/
theorem press_awaits {s : State} (h : AwaitsMatch s) : AwaitsMatch s.press ∧ AwaitsMatch s.letGo := by
  unfold State.press State.letGo
  simp only
  constructor
  · (repeat' split) <;> exact h.of_eq rfl rfl
  · (repeat' split) <;> exact h.of_eq rfl rfl

/-- GATE expires (R163). -/
theorem gateExpires_awaits {s : State} (h : AwaitsMatch s) : AwaitsMatch s.gateExpires := by
  unfold State.gateExpires
  have e := closeGate_records { s with timers := { s.timers with gate := Channel.expired } }
  exact h.of_eq e.1 (congrArg Engine.state e.2)

/-- PRESENCE expires (R174). -/
theorem presenceExpires_awaits {s : State} (h : AwaitsMatch s) : AwaitsMatch s.presenceExpires := by
  unfold State.presenceExpires
  simp only
  (repeat' split) <;> exact h.of_eq rfl rfl

/-- One event of a tick (R13). -/
theorem tickEvent_awaits {s : State} (h : AwaitsMatch s) (a b p : Bool) (e : TickEvent) :
    AwaitsMatch (s.tickEvent a b p e) := by
  unfold State.tickEvent
  split
  · split
    · split
      · exact enterLow_awaits h
      · exact enterNormal_awaits h
    · exact h
  · split
    · exact startFlow_awaits h _
    · exact h
  · split
    · exact gateExpires_awaits h
    · exact h
  · split
    · exact h.of_eq rfl rfl
    · exact h
  · split
    · exact presenceExpires_awaits h
    · exact h
  · split
    · split
      · exact (press_awaits h).1
      · exact (press_awaits h).2
    · exact h

/-! ### Power -/

/-- An empty Record Store and an idle engine. -/
theorem poweredOff_awaits {s : State} (hw : s.records.waiting = []) (hr : s.records.writing = none)
    (he : s.engine.state = .idle) : AwaitsMatch s := by
  refine State.Asks.none ⟨?_, ?_, ?_⟩ (by rw [he]; rfl)
  · unfold State.commandAsks
    rw [hw]
    exact .refl _
  · unfold State.commandBegun
    rw [hr]
  · rw [hw]
    exact fun e he => by cases he

/-- POWER_ON (R123). -/
theorem applyPower_awaits (s : State) (sensed : List FuseBit) (r : Bool) :
    AwaitsMatch (s.applyPower sensed r) := by
  have hb : ∀ (u : State) (x : SlotId), AwaitsMatch u → AwaitsMatch (u.rollBack x) := by
    intro u x hu
    unfold State.rollBack
    split
    · exact hu.changeSlot _ _
    · exact hu
  exact hb _ _ (hb _ _ (poweredOff_awaits rfl rfl rfl))

end Sys2Proof.Machine
end

