-- ==== Sys2Proof/Tests/Slice0.lean ====
section
/-! SUPPORT. Tests: ill-formed commands refused, command bytes, the guide's worked examples, one small step
of each command, and a witness for the hypotheses of each statement that has some.

Expected values come from the guide's examples and tables, or are computed by hand from its rules. -/

namespace Sys2Proof.Tests

open Sys2Proof Sys2Proof.Machine

set_option Elab.async false

/-! ### Well-formedness: an ill-formed term for each check -/

/-- A request with parameter bytes. -/
def req (params : List Nat) : Request := ⟨0x21, 0, params.map (BitVec.ofNat 8)⟩

/-- A request of parameters that do not fit a frame (R62). -/
def tooLong : Request := ⟨0, 0, List.replicate 2041 0⟩

theorem test_wf_read : (Instr.read .more 0 [0]).wellFormed = false := by decide
theorem test_wf_program : (Instr.program (.three 0) [0] 8).wellFormed = false := by decide
theorem test_wf_other : (Instr.other 0x03 [] 0).wellFormed = false := by decide
theorem test_wf_chunkComplete :
    (Instr.chunkComplete (List.replicate 4097 0)).wellFormed = false := by decide +kernel
theorem test_wf_powerOn : (Instr.powerOn [⟨.revoke, 2⟩] false).wellFormed = false := by decide
theorem test_wf_service : (Instr.quote tooLong).wellFormed = false := by decide +kernel
theorem test_wf_baseTick : (Instr.baseTick 0 false [.gate, .gate]).wellFormed = false := by decide
theorem test_wf_accepts : (Instr.powerOn [⟨.revoke, 1⟩] true).wellFormed = true ∧
    (Instr.other 0xab [] 4).wellFormed = true ∧ (Instr.reboot (req [])).wellFormed = true := by
  decide

/-! ### Command bytes (Table 12-14) and words -/

theorem test_class_read4 : upstreamClass 0x13 = .read ∧ addressBytes 0x13 = 4 := by decide
theorem test_class_program3 : upstreamClass 0x02 = .program ∧ addressBytes 0x02 = 3 := by decide
theorem test_class_erase64k : upstreamClass 0xdc = .erase64k ∧ addressBytes 0xd8 = 3 := by decide
theorem test_class_other : upstreamClass 0xab = .other ∧ addressBytes 0xab = 0 := by decide
theorem test_address3 : carriedAddress 0x03 0xff123456 = 0x123456 := by decide
theorem test_table_has_no_bits : decodeTableWord 8 0x06 = none := rfl

/-! ### States for the tests: the geometry of the guide's examples (section 3.2) -/

/-- F = 33,554,432, S = 12,582,912, AP = 33,488,896, RB = 25,165,824, R = 1,048,576. -/
def geo : Geometry := ⟨33554432, 12582912, 33488896, 25165824, 1048576⟩

/-- A manifest entry of an absolute range. -/
def entry (offset size : Nat) (r w : Cond) (fill : Fill) : ManifestEntry :=
  ⟨⟨.absolute, offset, size, r, w, fill⟩, r, w⟩

/-- The table of section 3.9. -/
def table : RegionTable where
  entries := [entry 25165824 1048576 ⟨8, 0⟩ ⟨0, 0⟩ .ones, entry 26214400 4096 ⟨6, 1⟩ ⟨6, 1⟩ .zeros,
    entry 26214400 65536 ⟨8, 0⟩ ⟨6, 3⟩ .ones]
  dflt := some ⟨.ones, ⟨8, 0⟩, ⟨8, 0⟩, ⟨8, 0⟩, ⟨8, 0⟩⟩
  tight := []

/-- A summary with a security version. -/
def summary (version : Nat) : Summary :=
  ⟨version, 7, 5000, zeroDigest, zeroDigest, zeroDigest, 0, 600, false⟩

/-- A slot in a state that has a summary. -/
def slotIn (st : SlotState) (version : Nat) : SlotRec := ⟨st, st, .none, some (summary version)⟩

/-- A DEPLOYED part at S3 in RUN_A: slot A ACTIVE, slot B VERIFIED, the supply NORMAL. -/
def base : State := { State.reset with
  stage := .num 3
  flow := ⟨.none, .powerOn⟩
  filter := ⟨.runA, geo, table⟩
  supply := { State.reset.supply with normal := true }
  slots := { State.reset.slots with slotA := slotIn .active 4, slotB := slotIn .verified 5 }
  fuses := { State.reset.fuses with
    image := { FuseRows.unburned with lifecycle := 1, counter := 0xf }
    array := { FuseRows.unburned with lifecycle := 1, counter := 0xf } } }

/-- The part with WEL set. -/
def armedWel : State := { base with up := { base.up with wel := true } }

/-- The same part in FACTORY. -/
def factory : State := { base with
  stage := .unset
  filter := ⟨.passthrough, Geometry.default, RegionTable.unloaded⟩
  fuses := State.reset.fuses }

/-- The engine at work. -/
def working (s : State) (w : CmdWork) : State :=
  { s with
    engine := { s.engine with state := .command w }
    aperture := { s.aperture with resp := { Response.empty with state := .running } } }

/-- The gate OPEN, GATE running. -/
def gateOpen (s : State) : State :=
  { s with
    cred := { s.cred with gateOpen := true }
    timers := { s.timers with gate := ⟨200, 0, .running, false⟩ } }

/-- A write in progress that the command has asked for. -/
def writingFor (s : State) (rec : RecordId) (content : RecContent) : State :=
  { s with records := { s.records with writing := some ⟨rec, [⟨.command, .asIs⟩], content⟩ } }

/-- A COUNTERS record. -/
def counters : CountersRec := ⟨9, .reboot, 4, 0, 7, 6⟩

/-- A PRESENT key record. -/
def someKey : KeyRec := ⟨true, List.replicate 64 1, some 5, Cond.atOrAbove2, true, [0x6b]⟩

/-- A part with device keys, owner key 5, and credentials 0 and 3 SET (section 10.9). -/
def owned : State := { base with
  keys := ((State.reset.keys.set 0 { someKey with cond := Cond.always, gateRequired := false }).set 3
    { someKey with gateRequired := false }).set 5 someKey
  cred := { base.cred with
    creds := (State.reset.cred.creds.set 0 (.verifier [0x61] [] zeroDigest)).set 3
      (.secret [0x73] [0xaa, 0xbb] Cond.atOrAbove2 true)
    failCount := 3
    ownerEpoch := 7 } }

/-- The next state of a command. -/
def next (i : Instr) (s : State) : Option State :=
  match exec i s with
  | .next t => some t
  | _ => none

/-- The result and the payload that a command leaves in the response. -/
def answer (i : Instr) (s : State) : Option (Result × List Byte) :=
  (next i s).map fun t => (t.aperture.resp.result, t.aperture.resp.payload)

/-- What a field is after a command. -/
def look {α : Type} (f : State → α) (i : Instr) (s : State) : Option α := (next i s).map f

/-! ### Conditions, counts and arithmetic -/

/-- Table 1-2: POLICY_TIGHTEN of AT_OR_ABOVE 2, and the second example of section 1.4. -/
theorem test_no_wider :
    (Cond.mk 15 3).noWider ⟨13, 2⟩ = true ∧ (Cond.mk 3 2).noWider ⟨13, 2⟩ = false ∧
    (Cond.mk 2 2).noWider ⟨13, 2⟩ = true ∧ (Cond.mk 9 5).noWider ⟨13, 2⟩ = false ∧
    (Cond.mk 12 3).noWider ⟨13, 2⟩ = false ∧ (Cond.mk 0 0).noWider ⟨13, 2⟩ = true ∧
    (Cond.mk 10 1).noWider ⟨8, 0⟩ = true ∧ (Cond.mk 10 1).noWider ⟨11, 1⟩ = false := by decide

/-- penalty(f) (R164, and the examples of 1.7 and 10.9). -/
theorem test_penalty : penalty 4 = 0 ∧ penalty 5 = 30 ∧ penalty 6 = 60 ∧ penalty 12 = 3600 ∧
    penalty 19 = 3600 ∧ penalty 20 = 0 := by decide

/-- The CALIBRATION rows of section 7.1. -/
theorem test_calibration :
    ({ FuseRows.unburned with calibration := 64325#16 ++ 1210#16 } : FuseRows).calibrationValue = 1210 ∧
    ({ FuseRows.unburned with calibration := 64326#16 ++ 1210#16 } : FuseRows).calibrationValue = 1200 ∧
    ({ FuseRows.unburned with calibration := 64185#16 ++ 1350#16 } : FuseRows).calibrationValue = 1200 := by
  decide

/-- A CONFIG with the example geometry and the default values. -/
def config (g : Geometry) : ConfigRec := ⟨g, 3000, 100, 4, 300, 10⟩

/-- Table 8-2. -/
theorem test_geometry_checks : (config geo).valid = true ∧
    (config { geo with slotSize := 16777216 }).valid = false ∧
    (config { geo with apBase := 25690112 }).valid = false ∧
    (config { geo with recBase := 25169920 }).valid = false := by decide

/-- SHA-256 of "abc" (FIPS 180-4). -/
theorem test_sha256 : sha256 [0x61, 0x62, 0x63] = beBytes 32
    0xba7816bf8f01cfea414140de5dae2223b00361a396177a9cb410ff61f20015ad := by decide +kernel

/-- The base point lies on P-256 (FIPS 186-5). -/
theorem test_p256_base : P256.validKey (P256.publicOf 1) = true := by decide +kernel

/-! ### The flash path -/

/-- Section 3.2: a READ across the window edge in RUN_B at S2. -/
def edge : State := { base with
  stage := .num 2
  filter := ⟨.runB, geo, ⟨[⟨⟨.runningSlot, 12578816, 4096, ⟨4, 2⟩, ⟨8, 0⟩, .ones⟩, ⟨4, 2⟩, ⟨8, 0⟩⟩],
    table.dflt, []⟩⟩ }

theorem test_read_edge :
    look (fun t => (t.out, t.events.violations))
      (.read (.start (.four 12582900)) 40 (List.replicate 40 0x5a)) edge =
    some (⟨List.replicate 12 0xff ++ List.replicate 28 0x5a, [.readFrom 25165812, .readFrom 0]⟩,
      [⟨⟨12582900, .read, .num 2, .entry 0⟩, 1⟩]) := by decide +kernel

/-- Step 5 of section 3.9: entry 1 masks with ZEROS. -/
theorem test_read_masked :
    look (fun t => t.out.toSoc) (.read (.start (.four 26214400)) 2 [1, 2]) base =
    some [0, 0] := by decide +kernel

/-- A READ in progress that holds the port, and a chunk that waits for it (Table 2-3). -/
def streaming : State := { base with
  up := { base.up with reads := [⟨0x200000, 512, base.snapshot, true, some 0x200200, false⟩] }
  down := { base.down with
    port := .carryingSoc, chunk := ⟨12582912 + 8192, 4096, List.replicate 1536 0, .waiting⟩ } }

/-- Table 2-3: READ ends, the chunk resumes at S + 9728. -/
theorem test_readEnd : look (fun t => (t.down.port, t.down.chunk.st, t.out.toFlash)) .readEnd streaming =
    some (.carryingChunk, .inFlight, [.readFrom (12582912 + 9728)]) := by decide +kernel

theorem test_flashFinished : look (fun t => (t.down.port, t.out.toFlash)) .flashFinished
    { streaming with down := { streaming.down with port := .flashBusy } } =
    some (.carryingChunk, [.statusPoll, .readFrom (12582912 + 9728)]) := by decide +kernel

/-- R30 and Table 12-14: a program of four bytes at page position 254 goes downstream as 12 at that position of
the page, in the 4-byte form, its bytes in the order sent; and a chunk's read as 13. -/
theorem test_downstream :
    (DownOp.program 12587008 (pageImage 254 [1, 2, 3, 4])).sent =
      ⟨0x12, some (.four 12587262), [1, 2, 3, 4]⟩ ∧
    (DownOp.readFrom 12592640).sent = ⟨0x13, some (.four 12592640), []⟩ := by decide +kernel

/-- Step 9 of section 3.9: a program in slot B, VERIFIED before it, is forwarded and stages it. -/
theorem test_program_forwarded :
    look (fun t => (t.out.toFlash, t.slots.slotB.state, t.up.wel))
      (.program (.four 12587008) [1, 2] 0) armedWel =
    some ([.writeEnable, .program 12587008 [(0, 1), (1, 2)]], .staged, false) := by decide +kernel

/-- A program that runs past its page's end goes on at its start (R18, R21). -/
theorem test_program_wraps : pageImage 254 [1, 2, 3] = [(0, 3), (254, 1), (255, 2)] := by
  decide +kernel

/-- Step 4 of section 3.9: tightening entry 28 drops the erase. -/
theorem test_erase4k_tight :
    look (fun t => (t.out.toFlash, t.up.denied, t.events.violations.map fun v => v.first.decider))
      (.erase4k (.four 26267648))
      { armedWel with filter := ⟨.runA, geo, { table with
          tight := [⟨.absolute, 26263552, 16384, ⟨8, 0⟩, ⟨5, 3⟩, .ones⟩] }⟩ } =
    some ([], true, [.tight 0]) := by decide +kernel

theorem test_erase4k_forwarded :
    look (fun t => (t.out.toFlash, t.down.port)) (.erase4k (.three 0x012345))
      { factory with up := armedWel.up } =
    some ([.writeEnable, .erase4k 0x012000], .flashBusy) := by decide +kernel

/-- Step 2 of section 3.9: the unit's lowest byte is denied by entry 1. -/
theorem test_erase64k_dropped :
    look (fun t => (t.out.toFlash, t.events.violations.map fun v => v.first))
      (.erase64k (.four 26214400)) armedWel =
    some ([], [⟨26214400, .erase64k, .num 3, .entry 1⟩]) := by decide +kernel

/-- In PASSTHROUGH every unit is forwarded at its aligned address (R46). -/
theorem test_erase64k_forwarded :
    look (fun t => t.out.toFlash) (.erase64k (.three 0x012345)) { factory with up := armedWel.up } =
    some [.writeEnable, .erase64k 0x010000] := by decide +kernel

theorem test_eraseChip_deployed :
    look (fun t => (t.out.toFlash, t.up.denied, t.up.wel)) .eraseChip armedWel =
    some ([], true, false) := by decide +kernel

theorem test_eraseChip_factory :
    look (fun t => t.out.toFlash) .eraseChip { factory with up := armedWel.up } =
    some [.writeEnable, .eraseChip] := by decide +kernel

theorem test_wren : look (fun t => (t.up.wel, t.up.denied)) .wren
    { base with up := { base.up with denied := true } } = some (true, false) := by decide +kernel

theorem test_wrdi : look (fun t => t.up.wel) .wrdi armedWel = some false := by decide +kernel

/-- BUSY bit 0, WEL bit 1, DENIED bit 5 (Table 12-13). -/
theorem test_statusRead : look (fun t => t.out.toSoc) (.statusRead .one 2)
    { armedWel with up := { armedWel.up with denied := true } } = some [0x22, 0x22] := by
  decide +kernel

theorem test_statusWrite_deployed :
    look (fun t => (t.events.violations.map fun v => v.first.decider, t.up.denied))
      (.statusWrite [2]) armedWel = some ([.statusWrite], false) := by decide +kernel

theorem test_statusWrite_factory : look (fun t => t.out.toFlash) (.statusWrite [2])
    { factory with up := armedWel.up } = some [.writeEnable, .statusWrite [2]] := by decide +kernel

theorem test_ident : look (fun t => t.out.toSoc) (.ident 5)
    { base with down := { base.down with id0 := 0xef, id1 := 0x40, id2 := 0x19 } } =
    some [0xef, 0x40, 0x19, 0xff, 0xff] := by decide +kernel

theorem test_flashReset : look (fun t => (t.up.wel, t.up.denied)) .flashReset
    { armedWel with up := { armedWel.up with denied := true } } = some (false, false) := by
  decide +kernel

theorem test_other_merges : look (fun t => (t.events.violations, t.events.total)) (.other 0xab [] 2)
    { base with events := { base.events with
        violations := [⟨⟨0, .other, .num 3, .otherCommand⟩, 3⟩], total := 3 } } =
    some ([⟨⟨0, .other, .num 3, .otherCommand⟩, 4⟩], 4) := by decide +kernel

theorem test_arrival_keeps_snapshot :
    look (fun t => t.up.arrived.map fun a => (a.cls, a.addr, a.snap.stage)) (.arrival 0x03 0xff123456)
      base = some (some (.read, 0x123456, .num 3)) := by decide +kernel

/-- 1,536 of a chunk's 4,096 bytes are kept, and 1,000 more (Table 2-3). -/
theorem test_chunkComplete_partial :
    look (fun t => (t.down.port, t.down.chunk.got.length)) (.chunkComplete (List.replicate 1000 0))
      { streaming with down := { streaming.down with
          port := .carryingChunk, chunk := { streaming.down.chunk with st := .inFlight } } } =
    some (.carryingChunk, 2536) := by decide +kernel

/-- A frame in two programs (R61, R62): STAGE_ADVANCE 4 is taken when its last byte has come. -/
theorem test_frame_pieces :
    (((next (.program (.four 33488896) [9, 0, 0x10] 0) armedWel).bind
      (next (.wren))).bind (next (.program (.four 33488899) [7, 0, 0, 0, 0, 4] 0))).map
      (fun t => (t.stage, t.aperture.resp.tag, t.aperture.resp.payload)) =
    some (.num 4, 7, [3, 4]) := by decide +kernel

/-! ### Records, fuses, supply, button and timers -/

theorem test_recordWriteBegin :
    look (fun t => (t.cred.failCount, t.records.waiting, t.records.writing.map Writing.record))
      .recordWriteBegin { base with records := { base.records with
        waiting := [⟨.counters, [⟨.command, .credIncrement⟩]⟩] } } =
    some (1, [], some .counters) := by decide +kernel

theorem test_recordWriteComplete :
    look (fun t => (t.records.store.cert, t.records.writing, t.aperture.resp.result))
      .recordWriteComplete
      (writingFor (working factory (.store [.cert] [1, 0])) .cert (.cert [0x30])) =
    some (some [0x30], none, .ok) := by decide +kernel

theorem test_fuseAttemptDone :
    look (fun t => (t.fuseCount, t.fuses.burn)) (.fuseAttemptDone true)
      { base with fuses := { base.fuses with burn := some ⟨⟨.counter, 4⟩, 0, .orphan⟩ } } =
    some (5, none) := by decide +kernel

/-- The third unburned read-back ends the bit burn FAILED (R119). -/
theorem test_fuseAttemptDone_fails :
    look (fun t => (t.aperture.resp.result, t.events.pending)) (.fuseAttemptDone false)
      { working factory (.deployBurn 3 false) with fuses := { factory.fuses with
          burn := some ⟨⟨.lifecycle, 3⟩, 2, .command⟩ } } =
    some (.fuseFault, 0x101) := by decide +kernel

theorem test_entryIntoLow : look (fun t => (t.supply.normal, t.events.pending)) .entryIntoLow base =
    some (false, 4) := by decide +kernel

/-- FLOOR_DEFERRED's deferral is taken up at NORMAL (R113). -/
theorem test_entryIntoNormal :
    look (fun t => (t.supply.normal, t.fuses.burn.map BitBurn.target)) .entryIntoNormal
      { base with
        supply := State.reset.supply
        slots := { base.slots with pendingFloor := 5, deferral := true } } =
    some (true, some ⟨.counter, 4⟩) := by decide +kernel

/-- A press loads PRESENCE with 10 s in counts of 100 ms (10.9, step 8). -/
theorem test_press : look (fun t => (t.presence.state, t.timers.presence.count)) .press base =
    some (.pressed, 100) := by decide +kernel

theorem test_release : look (fun t => (t.presence.state, t.timers.presence.count, t.events.pending))
    .release { base with presence := { base.presence with level := true, state := .pressed } } =
    some (.proven, 1200, 16) := by decide +kernel

/-- A channel whose expiry is produced and not yet taken (R13). -/
def produced : Channel := ⟨0, 0, .expired, true⟩

theorem test_presenceExpiry_wipes :
    look (fun t => (t.presence.state, t.engine.state, t.records.waiting.map Entry.record))
      .presenceExpiry
      { owned with
        presence := { base.presence with state := .pressed }
        timers := { base.timers with presence := produced } } =
    some (.waitRelease, .job (.wipe [.cred 0, .cred 3, .key 5]), [.cred 0, .cred 3, .key 5]) := by
  decide +kernel

theorem test_gateExpiry : look (fun t => (t.cred.gateOpen, t.events.pending)) .gateExpiry
    { gateOpen base with timers := { base.timers with gate := produced } } =
    some (false, 64) := by decide +kernel

/-- Before the count reaches 0 there is no expiry to take (R13). -/
theorem test_gateExpiry_early : look (fun t => (t.cred.gateOpen, t.events.pending)) .gateExpiry
    (gateOpen base) = some (true, 0) := by decide +kernel

theorem test_penaltyExpiry : look (fun t => (t.timers.penalty.state, t.timers.penalty.due))
    .penaltyExpiry { base with timers := { base.timers with penalty := produced } } =
    some (.expired, false) := by decide +kernel

theorem test_trialExpiry : look (fun t => (t.stage, t.flow.reason)) .trialExpiry
    { base with timers := { base.timers with trial := produced } } =
    some (.num 0, .trialExpiry) := by decide +kernel

/-- The owner reset starts at once when PRESENCE expires, so a restart that TRIAL's expiry makes in the
same tick finds it running and its wipe unfinished (R68, R177). -/
theorem test_presence_then_trial : look (fun t => (t.stage, t.cred.wipeUnfinished))
    (.baseTick 1000 false [.presence, .trial])
    { base with
      presence := { base.presence with state := .pressed }
      timers := { base.timers with
        trial := ⟨1, 999, .running, false⟩, presence := ⟨1, 99, .running, false⟩ } } =
    some (.num 0, true) := by decide +kernel

/-- The fourth sample below the threshold makes the entry into LOW (R129): 1200·4096/2048 = 2400 mV. -/
theorem test_baseTick_low :
    look (fun t => (t.supply.normal, t.supply.reading, t.supply.run)) (.baseTick 2048 false [])
      { base with supply := { base.supply with run := 3 } } = some (false, 2400, 0) := by
  decide +kernel

/-- A base tick ends a second of GATE (Table 1-3); an expiry it does not name waits for its row. -/
theorem test_baseTick_gate :
    look (fun t => (t.timers.gate.count, t.timers.gate.phase)) (.baseTick 1000 false [])
      { gateOpen base with timers := { base.timers with gate := ⟨200, 999, .running, false⟩ } } =
    some (199, 0) ∧
    look (fun t => (t.timers.gate, t.cred.gateOpen)) (.baseTick 1000 false [])
      { gateOpen base with timers := { base.timers with gate := ⟨1, 999, .running, false⟩ } } =
    some (produced, true) := by decide +kernel

theorem test_powerLoss : look (fun t => (t.powered, t.fuses.array.counter, t.fuses.doubtful))
    .powerLoss { base with fuses := { base.fuses with burn := some ⟨⟨.counter, 4⟩, 0, .job⟩ } } =
    some (false, 0xf, [⟨.counter, 4⟩]) := by decide +kernel

/-- A doubtful bit sensed burned is burned from then on (R116, R120). -/
theorem test_powerOn : look (fun t => ((t.powered, t.fuseCount), (t.cred.failCount, t.stage),
      t.fuses.array.count, t.fuses.doubtful))
    (.powerOn [⟨.counter, 4⟩] false)
    { base with
      powered := false
      fuses := { base.fuses with doubtful := [⟨.counter, 4⟩] }
      records := { base.records with store := { Store.blank with counters := some counters } } } =
    some ((true, 5), (6, .num 0), 5, []) := by decide +kernel

theorem test_resetIn : look (fun t => (t.stage, t.resetIn, t.flow.reason)) .resetIn base =
    some (.num 0, true, .resetIn) := by decide +kernel

theorem test_resetInRelease : look (fun t => (t.resetIn, t.stage)) .resetInRelease
    { base with resetIn := true } = some (false, .num 3) := by decide +kernel

theorem test_platformRestart : look (fun t => (t.stage, t.flow)) .platformRestart
    { base with engine := { base.engine with restartDue := some .reboot } } =
    some (.num 0, ⟨.wait, .reboot⟩) := by decide +kernel

/-- A flow in step 2 of a DEPLOYED part, its supply NORMAL. -/
def waiting : State := { base with stage := .num 0, flow := ⟨.wait, .resetIn⟩ }

/-- Slot A is ACTIVE: its manifest chunk is asked for (R93, R81). -/
theorem test_bootFlowResume :
    look (fun t => (t.flow.phase, t.out.toFlash, t.slots.bootCounter)) (.bootFlowResume 1 2 3) waiting =
    some (.verifying .a [.b] true, [.identify, .readFrom 0], 1) := by decide +kernel

theorem test_ownerReset : look (fun t => t.engine.state) .ownerReset base =
    some (.job .wipeCounters) := by decide +kernel

theorem test_floorBurn : look (fun t => (t.engine.state, t.events.pending)) .floorBurn base =
    some (.idle, 512) := by decide +kernel

theorem test_signatureComplete : look (fun t => (t.aperture.resp.result, t.engine.state))
    .signatureComplete (working base (.sign 5 zeroDigest [5])) = some (.ok, .idle) := by
  decide +kernel

theorem test_generationComplete : look (fun t => (t.draws, t.records.waiting.map Entry.record))
    .generationComplete (working base (.generate .device)) = some (2, [.key 0, .key 3]) := by
  decide +kernel

/-! ### Service commands -/

/-- The fields of R160 in the widths of Table 12-1: 16 + 3 + 20 + 13 + 11 bytes. -/
theorem test_identify_length : (answer (.identify (req [])) base).map (fun a => (a.1, a.2.length)) =
    some (.ok, 63) := by decide +kernel

theorem test_slotStatus : (answer (.slotStatus (req [])) base).map (fun a => (a.1, a.2.take 4)) =
    some (.ok, [6, 6, 0, 1]) := by decide +kernel

theorem test_policyRead : (answer (.policyRead (req [])) base).map (fun a => (a.1, a.2.getD 22 0)) =
    some (.ok, 3) := by decide +kernel

/-- One STAGE record of 36 bytes after the 36-byte summary (section 9.8). -/
theorem test_logRead : (answer (.logRead (req [0])) { base with
    log := MeasLog.append MeasLog.empty .stage (.num 2) zeroDigest [] }).map
      (fun a => (a.1, a.2.take 4, a.2.length)) = some (.ok, [1, 0, 0, 1], 72) := by decide +kernel

theorem test_certRead : answer (.certRead (req [])) { base with cert := some [1, 2] } =
    some (.ok, [1, 2]) := by decide +kernel

theorem test_certRead_empty : answer (.certRead (req [])) base = some (.emptyItem, []) := by
  decide +kernel

theorem test_keyPublic : (answer (.keyPublic (req [5])) owned).map (fun a => (a.1, a.2.take 2)) =
    some (.ok, [5, 1]) := by decide +kernel

theorem test_credList : (answer (.credList (req [])) owned).map (fun a => (a.1, a.2.take 1)) =
    some (.ok, [3]) := by decide +kernel

theorem test_eventsRead : answer (.eventsRead (req [])) { base with
    events := ⟨0x402, 2, [⟨⟨16, .read, .num 3, .entry 1⟩, 3⟩], 4⟩ } =
    some (.ok, [2, 4, 2, 0, 4, 0, 0, 0, 1, 16, 0, 0, 0, 1, 3, 1, 3, 0]) := by decide +kernel

/-- STAGE_ADVANCE 4 at S3 with the gate OPEN raises GATE_CLOSED (10.9, step 6). -/
theorem test_stageAdvance :
    look (fun t => (t.stage, t.cred.gateOpen, t.events.pending, t.aperture.resp.payload))
      (.stageAdvance (req [4])) (gateOpen base) = some (.num 4, false, 65, [3, 4]) := by
  decide +kernel

theorem test_stageAdvance_down : (answer (.stageAdvance (req [3])) base).map Prod.fst =
    some .wrongState := by decide +kernel

theorem test_measureExtend : look (fun t => (t.log.records.length, t.aperture.resp.result))
    (.measureExtend (req (List.replicate 32 7 ++ [1, 0x61]))) base = some (1, .ok) := by
  decide +kernel

/-- Step 1 of section 3.9: position 28. -/
theorem test_policyTighten_form_b :
    answer (.policyTighten (req [2, 0, 0xff, 0x80, 0, 0x53, 0, 0, 0, 0x00, 0xc0, 0x90, 1, 0, 0x40, 0, 0]))
      base = some (.ok, [28]) := by decide +kernel

/-- Steps 6 and 8 of section 3.9: NEVER is accepted, AT_OR_BELOW 3 after it is WIDENING. -/
theorem test_policyTighten_form_a :
    ((next (.policyTighten (req [1, 2, 1, 0])) base).map fun t =>
      (t.aperture.resp.result, look (fun u => (u.aperture.resp.result, u.aperture.resp.detail))
        (.policyTighten (req [1, 2, 1, 0x63])) t)) = some (.ok, some (.paramBad, 3)) := by
  decide +kernel

theorem test_quote_starts : look (fun t => match t.engine.state with
      | .command (.sign d _ _) => d
      | _ => 0) (.quote (req [1, 2, 3, 4, 5, 6, 7, 8])) owned = some 5 := by decide +kernel

theorem test_updateVerify :
    look (fun t => (t.slots.slotB.state, t.slots.slotB.prior, t.out.toFlash))
      (.updateVerify (req [])) base = some (.verifying, .verified, [.readFrom 12582912]) := by
  decide +kernel

theorem test_updateArm : look (fun t => (t.slots.slotB.state, t.aperture.resp.payload))
    (.updateArm (req [])) base = some (.armed, [2, 5, 7, 0, 0, 0]) := by decide +kernel

theorem test_updateDisarm : look (fun t => (t.slots.slotB.state, t.aperture.resp.payload))
    (.updateDisarm (req []))
    { base with slots := { base.slots with slotB := slotIn .armed 5 } } = some (.verified, [2]) := by
  decide +kernel

/-- A trial of version 5 with slot A TRIAL (section 6.8). -/
def trial : State := { base with
  slots := { base.slots with
    slotA := slotIn .trial 5, slotB := slotIn .active 4, pendingFloor := 4 }
  timers := { base.timers with trial := ⟨500, 0, .running, false⟩ } }

theorem test_updateConfirm : look (fun t => (t.engine.state, t.timers.trial.state))
    (.updateConfirm (req [])) trial =
    some (.command (.confirmCounters 5 0 []), .stopped) := by decide +kernel

theorem test_reboot : look (fun t => (t.aperture.resp.result, t.engine.restartDue)) (.reboot (req []))
    base = some (.ok, some .reboot) := by decide +kernel

/-- Owner key 5 needs the gate (R137). -/
theorem test_keySign_gate : (answer (.keySign (req (5 :: List.replicate 32 1))) owned).map Prod.fst =
    some .gateClosed := by decide +kernel

theorem test_keySign : look (fun t => (t.engine.state, t.timers.gate.count))
    (.keySign (req (5 :: List.replicate 32 1))) (gateOpen owned) =
    some (.command (.sign 5 (List.replicate 32 1) [5]), 300) := by decide +kernel

theorem test_keyGenerate : look (fun t => t.engine.state) (.keyGenerate (req [4, 0xd2, 1, 0, 1, 0x61]))
    (gateOpen base) = some (.command (.generate (.owner 4 ⟨13, 2⟩ true [0x61]))) := by decide +kernel

theorem test_keyErase : look (fun t => t.records.waiting) (.keyErase (req [5])) (gateOpen owned) =
    some [⟨.key 5, [⟨.command, .key (KeyRec.empty 5)⟩]⟩] := by decide +kernel

theorem test_credCheck : look (fun t => (t.engine.state, t.records.waiting))
    (.credCheck (req [0, 1, 0x41])) owned =
    some (.command (.credIncrement 0 [0x41]), [⟨.counters, [⟨.command, .credIncrement⟩]⟩]) := by
  decide +kernel

/-- 10.9, step 3: throttled with 20 s left. -/
theorem test_credCheck_throttled : answer (.credCheck (req [0, 1, 0x41]))
    { owned with timers := { owned.timers with penalty := ⟨20, 0, .running, false⟩ } } =
    some (.throttled, [20, 0]) := by decide +kernel

theorem test_credSet : look (fun t => (t.engine.state, t.timers.gate.count))
    (.credSet (req [3, 2, 0, 1, 0x61, 0xd2, 1, 2, 9, 9])) (gateOpen base) =
    some (.command (.store [.cred 3] [3]), 300) := by decide +kernel

/-- Id 0 while EMPTY needs the presence proof (R170). -/
theorem test_credSet_proof : (answer (.credSet (req [0, 1, 0, 1, 0x61, 1, 0x41])) (gateOpen base)).map
    Prod.fst = some .gateClosed := by decide +kernel

/-- 10.9, step 5: the value is returned and GATE restarted from 200 to 300. -/
theorem test_credGet : look (fun t => (t.aperture.resp.payload, t.timers.gate.count))
    (.credGet (req [3])) (gateOpen owned) = some ([3, 2, 0xaa, 0xbb], 300) := by decide +kernel

theorem test_credDelete : look (fun t => t.records.waiting) (.credDelete (req [3])) (gateOpen owned) =
    some [⟨.cred 3, [⟨.command, .cred .empty⟩]⟩] := by decide +kernel

theorem test_gateClose : look (fun t => (t.cred.gateOpen, t.timers.gate.state, t.events.pending))
    (.gateClose (req [])) (gateOpen base) = some (false, .stopped, 1) := by decide +kernel

theorem test_eventsAck : look (fun t => (t.events.violations, t.events.pending, t.events.total))
    (.eventsAck (req [2, 4])) { base with
      events := ⟨0x403, 2, [⟨⟨16, .read, .num 3, .entry 1⟩, 3⟩], 5⟩ } = some ([], 1, 5) := by
  decide +kernel

theorem test_eventsEnable : look (fun t => t.events.enabled) (.eventsEnable (req [2, 4])) base =
    some 0x402 := by decide +kernel

/-- PROV_CONFIG's parameters for the example geometry and the default values (Table 12-5). -/
def configParams : List Nat :=
  [0, 0, 0, 2, 0, 0, 0xc0, 0, 0, 0, 0xff, 1, 0, 0, 0x80, 1, 0, 0, 0x10, 0, 0xb8, 0x0b, 100, 0, 4,
    0x2c, 1, 10, 0, 0, 0, 0]

theorem test_provConfig : look (fun t => t.records.waiting) (.provConfig (req configParams))
    { factory with supply := base.supply } =
    some [⟨.config, [⟨.command, .config (config geo)⟩]⟩] := by decide +kernel

theorem test_provIdentity : look (fun t => t.engine.state) (.provIdentity (req [])) factory =
    some (.command (.generate .device)) := by decide +kernel

/-- The base point is a valid authority key. -/
theorem test_provAuthority : look (fun t => t.records.waiting.map Entry.record)
    (.provAuthority ⟨0, 0, [1, 0, 0, 0] ++ P256.publicOf 1⟩) factory = some [.key 2] := by
  decide +kernel

theorem test_provCert : look (fun t => t.records.waiting) (.provCert (req [0x30])) factory =
    some [⟨.cert, [⟨.command, .cert [0x30]⟩]⟩] := by decide +kernel

/-- A Record Store with the five items of R145. -/
def provisioned : Store := { Store.blank with
  config := some (config geo)
  keys := ((Store.blank.keys.set 0 (some someKey)).set 1 (some someKey)).set 3 (some someKey)
  cert := some [0x30] }

theorem test_provDeploy : look (fun t => t.fuses.burn) (.provDeploy (req []))
    { factory with records := ⟨provisioned, [], none⟩ } =
    some (some ⟨⟨.lifecycle, 0⟩, 0, .command⟩) := by decide +kernel

theorem test_provDeploy_missing : answer (.provDeploy (req [])) factory =
    some (.missingItem, [5, 1, 2, 3, 4, 5]) := by decide +kernel

/-! ### Witnesses: for each statement with hypotheses, a state and operands that meet them all -/

theorem base_ready : base.Ready := ⟨rfl, by decide, rfl, rfl, rfl, rfl⟩
theorem owned_ready : (gateOpen owned).Ready := ⟨rfl, by decide, rfl, rfl, rfl, rfl⟩
theorem factory_ready : factory.Ready := ⟨rfl, by decide, rfl, rfl, rfl, rfl⟩
theorem trial_ready : trial.Ready := ⟨rfl, by decide, rfl, rfl, rfl, rfl⟩
theorem req_fits : (req []).fits = true := by decide

/-- The checks that a statement lists, all passed. -/
theorem witness_IdentifyCertReadAndKeyPublic : (gateOpen owned).Ready ∧ (req [15]).fits = true ∧
    (byteAt (req [15]).params 0).toNat % 16 = (15 : Fin 16).val :=
  ⟨owned_ready, by decide, by decide⟩

theorem witness_SlotStatusAndPolicyRead : base.Ready ∧ (req []).fits = true := ⟨base_ready, req_fits⟩

theorem witness_LogReadReturnsWholeRecords :
    base.Ready ∧ (req [255]).fits = true ∧ (req [255]).params = [255] := ⟨base_ready, by decide, rfl⟩

theorem witness_CredListAndGateClose : (gateOpen owned).Ready ∧ (req []).fits = true :=
  ⟨owned_ready, req_fits⟩

theorem witness_EventsCommands : base.Ready ∧ (req [255, 255]).fits = true := ⟨base_ready, by decide⟩

/-- `n` records, the one at index 63 an OVERFLOW. -/
def records (n : Nat) : List LogRec := (List.range n).map fun i =>
  ⟨i, if i = 63 then .overflow else .external, .num 3, zeroDigest, []⟩

/-- A log of 64 records and one of 63. -/
theorem witness_LogCapacityAndChain (n : Nat) (h : n ≤ 64) :
    LogWellFormed ⟨records n, (records n).foldl chainNext zeroDigest⟩ :=
  ⟨by simpa [records] using h, by simp [records], rfl⟩

theorem witness_StageAdvanceRaisesTheStage : base.Ready ∧ (req [7]).fits = true ∧
    1 ≤ (byteAt (req [7]).params 0).toNat ∧ (byteAt (req [7]).params 0).toNat ≤ 7 :=
  ⟨base_ready, by decide, by decide, by decide⟩

theorem witness_MeasureExtendAppends : base.Ready ∧
    (req (List.replicate 32 0 ++ [32] ++ List.replicate 32 0x61)).fits = true ∧
    (req (List.replicate 32 0 ++ [32] ++ List.replicate 32 0x61)).params.length = 33 + 32 :=
  ⟨base_ready, by decide, by decide⟩

theorem witness_PolicyTightenNarrows : base.Ready ∧ (req [1, 32, 1, 0]).fits = true ∧
    base.filter.table.dflt.isSome = true := ⟨base_ready, by decide, rfl⟩

theorem witness_QuoteSignsTheBody : (gateOpen owned).Ready ∧
    (req (List.replicate 64 1)).fits = true ∧
    (gateOpen owned).keys[(0 : Fin 16)].present = true := ⟨owned_ready, by decide, by decide⟩

theorem witness_UpdateVerifyTakesTheSlot : base.Ready ∧ (req []).fits = true ∧ base.runs = true ∧
    (base.slot base.otherOfRun).state = .verified := ⟨base_ready, req_fits, by decide, by decide⟩

theorem witness_UpdateArmAndDisarm : base.Ready ∧ (req []).fits = true ∧
    (base.slot base.runningOfRun).state = .active ∧ (base.slot base.otherOfRun).state = .verified :=
  ⟨base_ready, req_fits, by decide, by decide⟩

theorem witness_UpdateConfirmStarts : trial.Ready ∧ (req []).fits = true ∧
    (trial.slot trial.runningOfRun).summary = some (summary 5) ∧
    (trial.slot trial.runningOfRun).state = .trial := ⟨trial_ready, req_fits, by decide, by decide⟩

/-- UPDATE_CONFIRM's refusals, outside a trial and in RECOVERY: WRONG_STATE (R108). -/
theorem witness_UpdateConfirmStarts_refused :
    let recovery : State := { base with filter := { base.filter with mode := .recovery } }
    base.Ready ∧ (base.slot base.runningOfRun).state ≠ .trial ∧ recovery.Ready ∧ recovery.runs = false ∧
    look (fun t => t.aperture.resp.result) (.updateConfirm (req [])) base = some .wrongState ∧
    look (fun t => t.aperture.resp.result) (.updateConfirm (req [])) recovery = some .wrongState := by
  refine ⟨base_ready, ?_, base_ready, ?_, ?_, ?_⟩ <;> decide +kernel

theorem witness_RebootEndsThenRestarts : base.Ready ∧ (req []).fits = true := ⟨base_ready, req_fits⟩

/-- A TRIAL channel whose expiry is produced, and a restart that is due. -/
def due : State := { trial with
  engine := { trial.engine with restartDue := some .reboot }
  timers := { trial.timers with trial := produced } }

theorem witness_PlatformRestarts : due.powered = true ∧ due.engine.restartDue = some .reboot ∧
    due.timers.trial.due = true ∧ due.Quiet ∧ trial.powered = true ∧ trial.Quiet ∧
    trial.timers.trial.due = false ∧ trial.engine.restartDue = none :=
  ⟨rfl, rfl, rfl, fun _ => ⟨rfl, rfl, rfl⟩, rfl, fun _ => ⟨rfl, rfl, rfl⟩, rfl, rfl⟩

/-- R104, R127, R166, R177: what a restart leaves of a set, and of an entry only the command asked for. -/
theorem test_restart_keeps :
    keptRequesters [⟨.command, .asIs⟩, ⟨.command, .credIncrement⟩, ⟨.block, .asIs⟩, ⟨.job, .ownerReset⟩] =
      [⟨.orphan, .credIncrement⟩, ⟨.block, .asIs⟩, ⟨.orphan, .ownerReset⟩] ∧
    (RecordStore.restarted ⟨Store.blank, [⟨.cert, [⟨.command, .cert []⟩]⟩, ⟨.slot .a, [⟨.block, .asIs⟩]⟩],
      none⟩).waiting = [⟨.slot .a, [⟨.block, .asIs⟩]⟩] := by decide

theorem witness_KeySignGatesAndStarts : (gateOpen owned).Ready ∧
    (req (5 :: List.replicate 32 1)).fits = true ∧
    (byteAt (req (5 :: List.replicate 32 1)).params 0).toNat % 16 = (5 : Fin 16).val ∧
    (gateOpen owned).keys[(5 : Fin 16)].present = true :=
  ⟨owned_ready, by decide, by decide, by decide⟩

theorem witness_KeyGenerateAndErase : (gateOpen owned).Ready ∧
    (req [15, 0xd2, 1, 0, 1, 0x61]).fits = true ∧
    (byteAt (req [15, 0xd2, 1, 0, 1, 0x61]).params 0).toNat % 16 = (15 : Fin 16).val ∧
    (gateOpen owned).cred.gateOpen = true := ⟨owned_ready, by decide, by decide, rfl⟩

/-- The supply LOW, with an abort request and one entry waiting for the command. -/
def lowWait (w : CmdWork) (rec : RecordId) (c : Change) : State :=
  let t := working base w
  { t with
    supply := State.reset.supply
    engine := { t.engine with abortRequest := true }
    records := { t.records with waiting := [⟨rec, [⟨.command, c⟩]⟩] } }

/-- The three waits at which an abort is observed (R71, R104, R135, R166). -/
theorem lowWait_stops (w : CmdWork) (rec : RecordId) (c : Change) :
    (lowWait w rec c).powered = true ∧ (lowWait w rec c).NoWork ∧
    (lowWait w rec c).supply.normal = false ∧ (lowWait w rec c).engine.abortRequest = true ∧
    (lowWait w rec c).engine.state = .command w ∧ (lowWait w rec c).AwaitsWrite ∧
    (CmdWork.store [rec] []).StopsAtLow ∧
    (CmdWork.verifyStore .b (.fail .rollback)).StopsAtLow ∧
    (CmdWork.credIncrement 0 []).StopsAtLow ∧ ¬ (CmdWork.credClear 0).StopsAtLow :=
  ⟨rfl, ⟨rfl, rfl, rfl⟩, rfl, rfl, rfl, ⟨⟨_, .head _, _, .head _, rfl⟩, fun _ h => by cases h⟩,
    .inl ⟨_, _, rfl⟩, .inr (.inl ⟨_, _, rfl⟩), .inr (.inr ⟨_, _, rfl⟩), by
      simp [CmdWork.StopsAtLow]⟩

/-- Commands that wait for the Key Table, with and without an abort request at a LOW supply. -/
theorem witness_SignatureAndGenerationComplete :
    let t := working base (.sign 5 zeroDigest [5])
    let u := working base (.generate (.owner 4 ⟨13, 2⟩ true []))
    let v := working factory (.generate .device)
    (t.powered = true ∧ t.NoWork ∧ t.engine.state = .command (.sign 5 zeroDigest [5])) ∧
    (u.powered = true ∧ u.engine.abortRequest = false ∧
      u.engine.state = .command (.generate (.owner 4 ⟨13, 2⟩ true []))) ∧
    (v.powered = true ∧ v.engine.abortRequest = false ∧
      v.engine.state = .command (.generate .device)) ∧
    ∀ pair, let low := lowWait (.generate pair) .cert .asIs
      low.engine.abortRequest = true ∧ low.supply.normal = false ∧ low.NoWork ∧
        low.records.writing = none ∧ low.engine.state = .command (.generate pair) :=
  ⟨⟨rfl, ⟨rfl, rfl, rfl⟩, rfl⟩, ⟨rfl, rfl, rfl⟩, ⟨rfl, rfl, rfl⟩,
    fun _ => ⟨rfl, rfl, ⟨rfl, rfl, rfl⟩, rfl, rfl⟩⟩

theorem witness_CredCheckCountsFirst : (gateOpen owned).Ready ∧ (req [0, 1, 0x41]).fits = true ∧
    (byteAt (req [0, 1, 0x41]).params 0).toNat % 24 = (0 : Fin 24).val ∧
    (gateOpen owned).cred.failCount < 20 := ⟨owned_ready, by decide, by decide, by decide⟩

/-- CRED_CHECK's increment at f, stored: the comparison follows. -/
def checking (f : Nat) : State :=
  let t := writingFor (working owned (.credIncrement 0 [0x41])) .counters (.counters counters)
  { t with cred := { t.cred with failCount := f } }

theorem owned_verifier : owned.cred.creds[(0 : Fin 24)] = .verifier [0x61] [] zeroDigest := by decide

theorem witness_CredCheckCompares (f : Nat) (h : f ≤ 20) :
    (checking f).powered = true ∧ (checking f).NoWork ∧ (checking f).cred.failCount ≤ 20 ∧
    (checking f).engine.state = .command (.credIncrement 0 [0x41]) ∧
    (checking f).cred.creds[(0 : Fin 24)] = .verifier [0x61] [] zeroDigest ∧
    ∃ w, (checking f).records.writing = some w ∧ w.record = .counters ∧
      (∃ q ∈ w.requesters, q.who = .command) ∧
      ∀ q ∈ w.requesters, ∀ f v, q.change ≠ .confirm f v :=
  ⟨rfl, ⟨rfl, rfl, rfl⟩, h, rfl, owned_verifier, _, rfl, rfl, by decide, by simp⟩

/-- A matched CRED_CHECK whose return of f to 0 is being stored. -/
def matched (id : Fin 24) : State :=
  let t := working owned (.credClear id)
  { t with records := { t.records with
      writing := some ⟨.counters, [⟨.command, .credClear⟩], .counters counters⟩ } }

theorem witness_CredCheckOpensTheGate (id : Fin 24) :
    (matched id).powered = true ∧ (matched id).NoWork ∧
    (matched id).engine.state = .command (.credClear id) ∧
    ∃ w, (matched id).records.writing = some w ∧ w.record = .counters ∧
      (∃ q ∈ w.requesters, q.who = .command) ∧
      ∀ q ∈ w.requesters, ∀ f v, q.change ≠ .confirm f v :=
  ⟨rfl, ⟨rfl, rfl, rfl⟩, rfl, _, rfl, rfl, by decide, by simp⟩

/-- A verifier form, also with a reserved field of 1, a secret form at its bounds, and parameters of
neither. -/
theorem witness_CredSetBuildsTheRecord : (gateOpen owned).Ready ∧
    (req [0, 1, 0, 1, 0x61, 1, 0x41]).fits = true ∧
    (req [0, 1, 0, 1, 0x61, 1, 0x41]).params = [BitVec.ofNat 8 (0 : Fin 24).val, 1, 0,
      BitVec.ofNat 8 [(0x61 : Byte)].length] ++ [0x61] ++
      [BitVec.ofNat 8 [(0x41 : Byte)].length] ++ [0x41] ∧
    (req [23, 2, 0, 1, 0x61, 0xd7, 1, 1, 9]).params = [BitVec.ofNat 8 (23 : Fin 24).val, 2, 0,
      BitVec.ofNat 8 [(0x61 : Byte)].length] ++ [0x61] ++ [(Cond.mk 13 7).toByte, 1,
      BitVec.ofNat 8 [(9 : Byte)].length] ++ [9] ∧
    (Cond.mk 13 7).bound < 8 ∧ (req []).params = [] ∧
    ({ req [0, 1, 0, 1, 0x61, 1, 0x41] with reserved := 1 } : Request).reserved ≠ 0 :=
  ⟨owned_ready, by decide, by decide, by decide, by decide, rfl, by decide⟩

theorem witness_CredGetAndDelete : (gateOpen owned).Ready ∧ (req [23]).fits = true ∧
    (byteAt (req [23]).params 0).toNat % 24 = (23 : Fin 24).val ∧
    (byteAt (req [3]).params 0).toNat % 24 = (3 : Fin 24).val :=
  ⟨owned_ready, by decide, by decide, by decide⟩

theorem witness_ProvConfigAndIdentity : factory.Ready ∧ (req configParams).fits = true ∧
    factory.fuses.image.lifecycle = 0 := ⟨factory_ready, by decide, rfl⟩

theorem witness_ProvAuthorityAndCert : factory.Ready ∧
    (req (List.replicate 1536 0x30)).fits = true := ⟨factory_ready, by decide +kernel⟩

theorem witness_ProvDeployStarts : factory.Ready ∧ (req []).fits = true := ⟨factory_ready, req_fits⟩

/-- The engine at a command, at a job without and with a held frame, and in S0. -/
def atJob (r : RespState) : State := { base with
  engine := { base.engine with state := .job .wipeCounters }
  aperture := { base.aperture with resp := { Response.empty with state := r } } }

theorem witness_FramesWhileTheEngineWorks :
    serviceRow (.quote (req [])) = some (0x13, req []) ∧ (req []).fits = true ∧
    ((working base (.credClear 0)).powered = true ∧ (working base (.credClear 0)).stage ≠ .s0 ∧
      (working base (.credClear 0)).engine.state = .command (.credClear 0)) ∧
    ((atJob .queued).stage ≠ .s0 ∧ (atJob .queued).engine.state = .job .wipeCounters ∧
      (atJob .queued).aperture.resp.state = .queued) ∧
    ((atJob .done).stage ≠ .s0 ∧ (atJob .done).aperture.resp.state ≠ .queued) ∧
    State.reset.powered = true ∧ State.reset.stage = .s0 ∧ State.reset.Quiet :=
  ⟨rfl, by decide, ⟨rfl, by decide, rfl⟩, ⟨by decide, rfl, rfl⟩, ⟨by decide, by decide⟩, rfl, rfl,
    fun _ => ⟨rfl, rfl, rfl⟩⟩

/-- The owner reset's last write in progress with FLOOR_BURN pending and a frame held that has seen three
refused ones, the response before it lost. -/
def handingOn (code : Byte) : State := { atJob .queued with
  engine := { (atJob .queued).engine with floorBurnPending := true }
  aperture := ⟨none, { Response.empty with
    state := .queued, code := code, tag := 0x21, previousUnread := true, refused := 3 },
    some { Response.empty with state := .done }, some ⟨code, 0x21, 0, []⟩⟩
  slots := { base.slots with deferral := true }
  records := { base.records with
    writing := some ⟨.counters, [⟨.job, .ownerReset⟩], .counters counters⟩ } }

/-- A held REBOOT, a held code of no row, and OWNER_RESET pending too. -/
theorem witness_FramesWhileTheEngineWorks_taken :
    let s := handingOn 0x24
    let v := next .recordWriteComplete (s.withWork false false none)
    let u := v.map fun v => (v.withWork false true s.aperture.held).startsJob
    (s.powered = true ∧ s.flow.phase = .none ∧ s.aperture.resp.state = .queued) ∧
    v.map (fun t => t.engine.state) = some .idle ∧
    u.map (fun t => (t.engine.state, t.aperture.held, t.powered, t.stage)) =
      some (.idle, some ⟨0x24, 0x21, 0, []⟩, true, .num 3) ∧
    serviceRow (.reboot (req [])) = some (0x24, req []) ∧ (req []).fits = true ∧
    (u.bind fun u => next (.reboot (req [])) u.unheld).isSome = true := by
  refine ⟨⟨rfl, rfl, rfl⟩, ?_, ?_, rfl, by decide, ?_⟩ <;> decide +kernel

theorem test_held_frame_taken :
    look (fun t => (t.aperture.resp.state, t.aperture.resp.result, t.aperture.resp.previousUnread,
        t.aperture.resp.refused)) .recordWriteComplete (handingOn 0x24) = some (.done, .ok, true, 3) ∧
    look (fun t => (t.events.pending, t.engine.restartDue)) .recordWriteComplete (handingOn 0x24) =
      some (545, some .reboot) ∧
    look (fun t => (t.aperture.resp.result, t.aperture.resp.refused, t.aperture.held))
      .recordWriteComplete (handingOn 0x7f) = some (.unknownCommand, 3, none) := by
  refine ⟨?_, ?_, ?_⟩ <;> decide +kernel

/-- OWNER_RESET is started first, FLOOR_BURN and the held frame left waiting. -/
theorem test_owner_reset_first :
    let s : State := { handingOn 0x24 with
      engine := { (handingOn 0x24).engine with ownerResetPending := true } }
    look (fun t => (t.engine.state, t.engine.floorBurnPending, t.aperture.resp.state))
      .recordWriteComplete s = some (.job .wipeCounters, true, .queued) := by decide +kernel

/-! #### The flash path -/

theorem base_quiet : base.Quiet := fun _ => ⟨rfl, rfl, rfl⟩

theorem witness_ArrivalsAndControlTransactions : base.powered = true ∧ base.Quiet ∧
    ∀ k, base.up.arrived = some k → k.cls ≠ .read ∨ k.addr ≠ 0 := ⟨rfl, base_quiet, by simp [base, State.reset]⟩

theorem witness_StatusAndIdentAreSent : armedWel.powered = true ∧ armedWel.Quiet :=
  ⟨rfl, base_quiet⟩

/-- A violation list with `n` records, the newest of class OTHER at a stage. -/
def violated (n : Nat) (st : Stage) : State := { base with events := { base.events with
  violations := List.replicate n ⟨⟨0, .other, st, .otherCommand⟩, 65535⟩ } }

theorem witness_OtherStatusWriteAndEraseChip :
    (State.reset.snapFor .other 0).stage = .s0 ∧ State.reset.Quiet ∧
    ((violated 1 (.num 3)).powered = true ∧ (violated 1 (.num 3)).Quiet ∧
      ((violated 1 (.num 3)).snapFor .other 0).stage = .num 3 ∧
      (violated 1 (.num 3)).events.violations = [] ++ [⟨⟨0, .other, .num 3, .otherCommand⟩, 65535⟩]) ∧
    ((violated 15 (.num 2)).events.violations.length < 16 ∧
      (violated 15 (.num 2)).events.violations.getLast?.map (fun q => q.first.stage) = some (.num 2)) ∧
    16 ≤ (violated 16 (.num 2)).events.violations.length :=
  ⟨rfl, fun _ => ⟨rfl, rfl, rfl⟩, ⟨rfl, fun _ => ⟨rfl, rfl, rfl⟩, rfl, rfl⟩, ⟨by decide, by decide⟩,
    by decide⟩

/-- Entry 1 of section 3.9 covers 26,214,400 and is the lowest that does; it allows at S1, not at S3. -/
theorem witness_JudgeFollowsTheTable :
    let p := base.snapshot
    let e := entry 26214400 4096 ⟨6, 1⟩ ⟨6, 1⟩ .zeros
    let tight : Region := ⟨.absolute, 26263552, 16384, ⟨8, 0⟩, ⟨5, 3⟩, .ones⟩
    p.mode ≠ .passthrough ∧ factory.snapshot.mode = .passthrough ∧ p.table.entries[1]? = some e ∧
    e.loaded.covers p.mode p.geo 26214400 = true ∧ e.loaded.covers p.mode p.geo 26218495 = true ∧
    (∀ j e', j < 1 → p.table.entries[j]? = some e' →
      ¬ e'.loaded.covers p.mode p.geo 26214400 = true) ∧
    (e.cond .read).holds (.num 3) = false ∧ (e.cond .read).holds (.num 1) = true ∧
    (∀ x ∈ p.table.entries, ¬ x.loaded.covers p.mode p.geo 26279936 = true) ∧
    p.table.dflt.isSome = true ∧ factory.snapshot.table.dflt = none ∧
    tight.covers p.mode p.geo 26267648 = true ∧ (tight.cond .write).holds p.stage = false := by
  refine ⟨by decide, rfl, rfl, by decide, by decide, ?_, by decide, by decide, by decide, rfl, rfl,
    by decide, by decide⟩
  intro j e' hj he
  obtain rfl : j = 0 := by omega
  obtain rfl := Option.some.inj he
  decide

/-- R41 and Table 3-1: an anchored range's first byte and the byte after its last, and the translation, at
the bounds of each mode. -/
theorem witness_JudgeFollowsTheTable_windows :
    let run : Region := ⟨.runningSlot, 4096, 8192, ⟨8, 0⟩, ⟨8, 0⟩, .ones⟩
    let oth : Region := { run with anchor := .otherSlot }
    let covers := fun (r : Region) (m : Mode) (a : Nat) => r.covers m geo a
    base.snapshot.mode = .runA ∧ edge.snapshot.mode = .runB ∧
    ({ base.snapshot with mode := .recovery } : Snapshot).mode = .recovery ∧
    geo.recSize ≤ geo.slotSize ∧
    [covers run .runA 4095, covers run .runA 4096, covers run .runA 12287, covers run .runA 12288] =
      [false, true, true, false] ∧
    covers run .runB 12587008 = true ∧ covers run .recovery 4096 = false ∧
    covers oth .runA 12587008 = true ∧ covers oth .runB 4096 = true ∧ covers oth .recovery 4096 = true ∧
    [0, 12582911, 12582912, 25165823, 25165824].map (translate .runB geo) =
      [some 12582912, some 25165823, some 0, some 12582911, some 25165824] ∧
    [0, 1048575, 1048576, 12582911, 12582912, 25165823, 25165824].map (translate .recovery geo) =
      [some 25165824, some 26214399, none, none, some 0, some 12582911, some 25165824] ∧
    [12582911, 12582912, 25165823, 25165824].map (slotOfPhys geo) =
      [some .a, some .b, some .b, none] := by decide

theorem witness_ReadPassesOrMasks :
    let p := edge.snapFor .read (addressValue (.four 12582911))
    edge.powered = true ∧ edge.Quiet ∧ ([1, 2] : List Byte).length = 2 ∧ p.stage ≠ .s0 ∧
    p.busy = false ∧ edge.down.port ≠ .flashBusy ∧
    ∀ i, i < 2 → p.geo.inAperture ((addressValue (.four 12582911) + i) % p.geo.flashSize) = false ∧
      translate p.mode p.geo ((addressValue (.four 12582911) + i) % p.geo.flashSize) ≠ none :=
  ⟨rfl, fun _ => ⟨rfl, rfl, rfl⟩, rfl, by decide, by decide, by decide, by decide⟩

/-- A READ in progress at the S3 of `base`, and what its next byte is. -/
def reading (addr : Nat) (violated : Bool) : State := { base with
  up := { base.up with reads := [⟨addr, 0, base.snapshot, false, none, violated⟩] } }

/-- Next bytes of a READ: of the flash, following on and not; masked by entry 1, before and after the
READ's violation; in the aperture at the header's first byte; with a busy snapshot. -/
theorem witness_ReadPassesOrMasks_parts :
    let p := base.snapshot
    let busy : Snapshot := { p with busy := true }
    let b : State := { base with up := { base.up with reads := [⟨0, 0, busy, false, none, false⟩] } }
    (streaming.powered = true ∧ streaming.Quiet ∧
      streaming.up.reads = [] ++ [⟨0x200000, 512, p, true, some 0x200200, false⟩] ∧ p.stage ≠ .s0 ∧
      p.geo.inAperture ((0x200000 + 512 + 0) % p.geo.flashSize) = false ∧ p.busy = false ∧
      translate p.mode p.geo ((0x200000 + 512 + 0) % p.geo.flashSize) = some 0x200200) ∧
    (∀ v, (reading 26214400 v).Quiet ∧
      (reading 26214400 v).up.reads = [] ++ [⟨26214400, 0, p, false, none, v⟩]) ∧
    (p.judge .read 26214400 = some (.zeros, .entry 1) ∧
      translate p.mode p.geo ((26214400 + 0 + 0) % p.geo.flashSize) = some 26214400 ∧
      p.geo.inAperture 26214400 = false) ∧
    p.geo.inAperture ((33488896 + 2048 + 0 + 0) % p.geo.flashSize) = true ∧
    (b.Quiet ∧ busy.geo.inAperture ((0 + 0 + 0) % busy.geo.flashSize) = false ∧ busy.busy = true) ∧
    (next (.read .more 1 [9]) (reading 0 false)).isSome = true := by
  refine ⟨⟨rfl, fun _ => ⟨rfl, rfl, rfl⟩, rfl, ?_, ?_, rfl, ?_⟩,
    fun v => ⟨fun _ => ⟨rfl, rfl, rfl⟩, rfl⟩, ⟨?_, ?_, ?_⟩, ?_, ⟨fun _ => ⟨rfl, rfl, rfl⟩, ?_, rfl⟩,
    ?_⟩ <;> decide +kernel

/-- A read to the aperture's last byte; a busy snapshot; an unmapped byte in RECOVERY; a READ begun in
S0. -/
theorem witness_ReadsThatNeedNoFlash :
    let p := base.snapFor .read (33488896 + 65535)
    let recovery : State := { base with filter := ⟨.recovery, geo, recoveryTable geo⟩ }
    let old : State := { base with up := { base.up with
      reads := [⟨0, 1, State.reset.snapshot, false, none, false⟩] } }
    (base.powered = true ∧ base.Quiet ∧ p.stage ≠ .s0 ∧
      p.geo.apBase ≤ (33488896 + 65535) % p.geo.flashSize ∧
      (33488896 + 65535) % p.geo.flashSize - p.geo.apBase + 1 ≤ 65536 ∧
      p.geo.apBase + 65536 ≤ p.geo.flashSize) ∧
    (recovery.Quiet ∧
      (recovery.snapFor .read 1048576).geo.inAperture (1048576 % geo.flashSize) = false ∧
      translate (recovery.snapFor .read 1048576).mode geo (1048576 % geo.flashSize) = none) ∧
    (State.reset.snapFor .read 0).stage = .s0 ∧ base.up.reads = [] ∧
    ∃ r, old.up.reads = [] ++ [r] ∧ r.snap.stage = .s0 :=
  ⟨⟨rfl, base_quiet, by decide, by decide, by decide, by decide⟩,
    ⟨fun _ => ⟨rfl, rfl, rfl⟩, by decide, by decide⟩, rfl, rfl, _, rfl, rfl⟩

/-- Table 12-4: a QUEUED header during FLOOR_BURN, and a DONE one with a payload of 258 bytes. -/
theorem test_responseHeader :
    let job : State := { atJob .queued with
      engine := { base.engine with state := .job (.floorBurn ⟨false, false, false⟩) } }
    let done : State := { base with aperture := { base.aperture with resp :=
      ⟨.done, 0x23, 9, .fuseFault, 0, true, true, 255, List.replicate 258 0, true⟩ } }
    job.responseHeader = [1, 0, 0, 0, 0, 0, 0, 0xf1, 0, 0, 0, 0, 0, 0, 0, 0] ∧
    done.responseHeader = [3, 0x23, 9, 0x10, 0, 3, 255, 0, 2, 1, 0, 0, 0, 0, 0, 0] := by decide +kernel

/-- A program that wraps at the end of its page, and one that writes the whole page. -/
theorem witness_ReadEndAndFlashFinished_program :
    let low := [(0, (3 : Byte)), (1, 4)]
    let high := [(254, (1 : Byte)), (255, 2)]
    let full := pageImage 0 (List.replicate 256 7)
    (∀ e ∈ low, e.1 < 254) ∧ (∀ e ∈ high, 254 ≤ e.1) ∧ high.head?.map Prod.fst = some 254 ∧
    (∀ e ∈ low, ∃ d ∈ low ++ high, e.1 = (d.1 + 1) % 256) ∧
    (¬ ∃ d ∈ low ++ high, 254 = (d.1 + 1) % 256) ∧
    full.all (fun e => full.any fun d => decide (e.1 = (d.1 + 1) % 256)) = true := by
  refine ⟨?_, ?_, ?_, ?_, ?_, ?_⟩ <;> decide +kernel

theorem witness_ReadEndAndFlashFinished : streaming.powered = true ∧ streaming.Quiet ∧
    streaming.down.chunk.st = .waiting := ⟨rfl, fun _ => ⟨rfl, rfl, rfl⟩, rfl⟩

/-- A page image wraps at the page's end, and the 257th byte replaces the first (R18, R21). -/
theorem test_pageImage :
    pageImage 0x1fe [1, 2, 3] = [(0, 3), (254, 1), (255, 2)] ∧
    (pageImage 7 (List.replicate 256 1 ++ [9])).length = 256 ∧
    (7, 9) ∈ pageImage 7 (List.replicate 256 1 ++ [9]) := by decide +kernel

/-- ERASE_4K of section 3.9 and a PROGRAM at slot B; one at slot A is locked, one in RECOVERY unmapped. -/
theorem witness_WriteUnitsForwardedOrDropped :
    let p := armedWel.snapFor .erase4k 26218496
    let recovery : State := { armedWel with filter := ⟨.recovery, geo, recoveryTable geo⟩ }
    (armedWel.powered = true ∧ armedWel.Quiet ∧ p.stage ≠ .s0 ∧ p.busy = false ∧
      armedWel.up.wel = true ∧ p.geo.inAperture (26218496 % p.geo.flashSize) = false) ∧
    translate p.mode p.geo 26218496 = some 26218496 ∧
    slotLocks p.mode p.geo p.slot 26218496 = false ∧
    slotLocks p.mode p.geo p.slot 12582911 = true ∧
    slotLocks p.mode p.geo p.slot 12582912 = false ∧
    slotLocks p.mode p.geo (fun x => (armedWel.slot x).state) 26218496 = false ∧
    slotOfPhys p.geo 12582912 = some .b ∧ (armedWel.slot .b).state = .verified ∧
    slotOfPhys p.geo 26218496 = none ∧ p.judge .write 26218496 = none ∧
    p.judge .write 26214400 = some (.zeros, .entry 1) ∧
    translate (recovery.snapFor .erase4k 1048576).mode geo 1048576 = none := by
  refine ⟨⟨rfl, base_quiet, ?_⟩, ?_⟩ <;> decide

theorem witness_WritesIgnored : base.powered = true ∧ base.Quiet ∧ base.up.wel = false :=
  ⟨rfl, base_quiet, rfl⟩

/-- A PROGRAM at the request area's end, an ERASE_4K of the next sector, and the abort in each state of the
response. -/
theorem witness_ApertureWrites :
    let p := armedWel.snapFor .program (33488896 + 2048)
    (armedWel.powered = true ∧ armedWel.Quiet ∧ p.stage ≠ .s0 ∧ p.busy = false ∧
      armedWel.up.wel = true ∧ p.geo.apBase ≤ (33488896 + 2048) % p.geo.flashSize ∧
      (33488896 + 65535) % p.geo.flashSize < p.geo.apBase + 65536 ∧
      2048 ≤ (33488896 + 2048) % p.geo.flashSize - p.geo.apBase) ∧
    (33488896 + 4096) % geo.flashSize - (33488896 + 4096) % geo.flashSize % 4096 ≠ geo.apBase ∧
    (33488896 + 4095) % geo.flashSize - (33488896 + 4095) % geo.flashSize % 4096 = geo.apBase ∧
    armedWel.aperture.resp.state = .empty ∧
    ((working base (.credClear 0)).aperture.resp.state = .running ∧
      (working base (.credClear 0)).engine.state = .command (.credClear 0) ∧
      ¬ (CmdWork.credClear 0).StopsAtLow) ∧
    (∀ w, ({ lowWait w .cert .asIs with up := armedWel.up } : State).up.wel = true ∧
      (lowWait w .cert .asIs).aperture.resp.state = .running) ∧
    (atJob .done).aperture.resp.state = .done ∧ (atJob .queued).aperture.resp.state = .queued :=
  ⟨⟨rfl, base_quiet, by decide, rfl, rfl, by decide, by decide, by decide⟩, by decide, by decide, rfl,
    ⟨rfl, rfl, by simp [CmdWork.StopsAtLow]⟩, fun _ => ⟨rfl, rfl⟩, rfl, rfl⟩

theorem witness_FrameByOneProgram :
    serviceRow (.reboot (req [])) = some (0x24, req []) ∧ (req []).fits = true ∧
    armedWel.powered = true ∧ armedWel.stage ≠ .s0 ∧ armedWel.up.wel = true ∧
    armedWel.up.arrived = none ∧ armedWel.busy = false ∧
    addressValue (.four 33488896) % armedWel.filter.geo.flashSize = armedWel.filter.geo.apBase :=
  ⟨rfl, by decide, rfl, by decide, rfl, rfl, by decide, by decide⟩

/-- Receptions at the bounds: 7 bytes, 8 bytes with length 7, 8, 9, 2048 and 2049. -/
theorem witness_FramesInPieces :
    let t : State := { armedWel with aperture := { armedWel.aperture with rx := some [9, 0] } }
    let p := t.snapFor .program (addressValue (.four 33488898))
    (t.powered = true ∧ t.Quiet ∧ p.stage ≠ .s0 ∧ p.busy = false ∧ t.up.wel = true ∧
      p.geo.apBase ≤ addressValue (.four 33488898) % p.geo.flashSize ∧
      addressValue (.four 33488898) % p.geo.flashSize - p.geo.apBase = ([9, 0] : List Byte).length) ∧
    (([9, 0] : List Byte) ++ [1, 1, 0, 0, 0, 0]).length = 8 ∧
    (byteAt [7, 0] 0).toNat + 256 * (byteAt [7, 0] 1).toNat < 8 ∧
    (byteAt [1, 8] 0).toNat + 256 * (byteAt [1, 8] 1).toNat = 2049 ∧
    addressValue (.four 33490943) % geo.flashSize - geo.apBase = 2047 :=
  ⟨⟨rfl, fun _ => ⟨rfl, rfl, rfl⟩, by decide, rfl, rfl, by decide, by decide⟩, by decide, by decide,
    by decide, by decide⟩

/-- The program that completes a frame of 9 bytes, with one byte more, and a frame of code F0. -/
theorem witness_FramesInPieces_completed :
    let bytes := (([9, 0] : List Byte) ++ [0x10, 7, 0, 0, 0, 0, 4, 0xee]).take 2048
    let other := (([9, 0] : List Byte) ++ [0xf0, 7, 0, 0, 0, 0, 4]).take 2048
    serviceRow (.stageAdvance ⟨7, 0, [4]⟩) = some (0x10, ⟨7, 0, [4]⟩) ∧
    (⟨7, 0, [4]⟩ : Request).fits = true ∧ base.stage ≠ .s0 ∧
    bytes.take (8 + 1) = leBytes 2 (8 + 1) ++ [0x10, 7] ++ leBytes 4 0 ++ [4] ∧
    8 ≤ (byteAt other 0).toNat + 256 * (byteAt other 1).toNat ∧
    (byteAt other 0).toNat + 256 * (byteAt other 1).toNat ≤ other.length ∧
    ∀ c r, serviceRow c ≠ some (byteAt other 2, r) := by
  refine ⟨rfl, ?_, ?_, ?_, ?_, ?_, fun c r h => ?_⟩
  any_goals decide +kernel
  cases c <;> simp [serviceRow, byteAt] at h

theorem witness_NoWriteReachesALockedSlot :
    let p := armedWel.snapFor .program (addressValue (.four 12587008))
    armedWel.powered = true ∧ armedWel.Quiet ∧ p.mode ≠ .passthrough ∧ 65536 ∣ p.geo.slotSize ∧
    65536 ∣ p.geo.recBase ∧
    p.geo.inAperture (addressValue (.four 12587008) % p.geo.flashSize) = false ∧
    (next (.program (.four 12587008) [1] 0) armedWel).isSome = true ∧
    slotOfPhys p.geo 12587008 = some .b :=
  ⟨rfl, base_quiet, by decide, by decide, by decide, by decide, by decide +kernel, by decide⟩

/-! #### Verification, records, fuses -/

/-- UPDATE_VERIFY of slot B with `n` bytes of a chunk still to come. -/
def verifying (work : VeWork) : State :=
  let t := working base (.verify .b)
  { t with
    ve := ⟨work, [], 0, ShaState.initial⟩
    down := { t.down with port := .carryingChunk, chunk := ⟨12582912, 2, [1], .inFlight⟩ } }

theorem witness_VerifyGoesChunkByChunk :
    let t := verifying (.manifest .b)
    t.powered = true ∧ t.NoWork ∧ t.engine.state = .command (.verify .b) ∧
    t.down.chunk.st = .inFlight ∧ (t.down.chunk.got ++ []).length < t.down.chunk.length ∧
    t.down.chunk.length ≤ (t.down.chunk.got ++ [2]).length ∧ t.engine.abortRequest = false ∧
    t.ve.work = .manifest .b ∧ (verifying (.image .b)).ve.work = .image .b ∧
    base.down.chunk.st ≠ .inFlight ∧
    ({ t with engine := { t.engine with abortRequest := true } } : State).NoWork :=
  ⟨rfl, ⟨rfl, rfl, rfl⟩, rfl, rfl, by decide, by decide, rfl, rfl, rfl, by decide, rfl, rfl, rfl⟩

/-- A flow in step 8 at its candidate A, slot B after it; one byte is still to come. -/
def flowing (work : VeWork) (phase : FlowPhase) : State := { waiting with
  config := some (config geo)
  flow := ⟨phase, .reboot⟩
  ve := ⟨work, [], 4096, ShaState.initial⟩
  down := { waiting.down with port := .carryingChunk, chunk := ⟨0, 2, [1], .inFlight⟩ } }

theorem witness_VerifyGoesChunkByChunk_flow :
    let m := flowing (.manifest .a) (.verifying .a [.b] true)
    let l := flowing .loader .loader
    let ends : State := { l with ve := { l.ve with cursor := 1048574 } }
    (m.powered = true ∧ m.NoWork ∧ m.engine.state = .idle ∧ 0 < m.configGeo.recSize ∧
      m.flow.phase = .verifying .a [.b] true ∧ m.ve.work = .manifest .a ∧
      m.down.chunk.st = .inFlight ∧ m.down.chunk.length ≤ (m.down.chunk.got ++ [2]).length) ∧
    (flowing (.image .a) (.verifying .a [] false)).ve.work = .image .a ∧
    (l.NoWork ∧ l.flow.phase = .loader ∧ l.ve.cursor + 2 < l.configGeo.recSize) ∧
    (ends.NoWork ∧ ¬ ends.ve.cursor + 2 < ends.configGeo.recSize) := by
  refine ⟨⟨rfl, ⟨rfl, rfl, rfl⟩, rfl, ?_, rfl, rfl, rfl, ?_⟩, rfl, ⟨⟨rfl, rfl, rfl⟩, rfl, ?_⟩,
    ⟨rfl, rfl, rfl⟩, ?_⟩ <;> decide

/-- A part with one entry waiting. -/
def waits (rec : RecordId) (c : Change) : State := { base with
  records := { base.records with waiting := [⟨rec, [⟨.command, c⟩]⟩] } }

theorem witness_RequestsAndBegins (rec : RecordId) (c : Change) :
    (waits rec c).powered = true ∧ (waits rec c).Quiet ∧ (waits rec c).records.writing = none ∧
    (waits rec c).records.waiting = ⟨rec, [⟨.command, c⟩]⟩ :: [] ∧
    (waits rec c).supply.normal = true ∧ base.records.waiting = [] ∧
    (∀ e ∈ [(⟨.cert, []⟩ : Entry)], e.record ≠ .config) ∧
    [(⟨.cert, []⟩ : Entry), ⟨.config, []⟩] = [⟨.cert, []⟩] ++ ⟨.config, []⟩ :: [] :=
  ⟨rfl, fun _ => ⟨rfl, rfl, rfl⟩, rfl, rfl, rfl, rfl, by decide, rfl⟩

/-- An entry that two have asked for, each with its change, and a second owner reset that joins one. -/
theorem witness_RequestsAndBegins_several :
    let set : List Requester := [⟨.command, .credClear⟩, ⟨.job, .ownerReset⟩, ⟨.block, .asIs⟩]
    let s : State := { base with records := { base.records with waiting := [⟨.counters, set⟩] } }
    let again : Requester := ⟨.job, .ownerReset⟩
    s.powered = true ∧ s.Quiet ∧ s.records.writing = none ∧ s.records.waiting = ⟨.counters, set⟩ :: [] ∧
    s.supply.normal = true ∧ (∃ q ∈ set, q.change = .ownerReset) ∧
    (∀ q ∈ [(⟨.block, .asIs⟩ : Requester)], q.change ≠ .ownerReset) ∧
    requestIn s.records.waiting .counters again = [⟨.counters, set ++ [⟨.job, .asIs⟩]⟩] ∧
    look (fun t => t.cred.ownerEpoch) .recordWriteBegin s = some 1 := by
  refine ⟨rfl, fun _ => ⟨rfl, rfl, rfl⟩, rfl, rfl, rfl, ?_, ?_, ?_, ?_⟩ <;> decide +kernel

/-- A command at a write of its own. -/
def storing (w : CmdWork) (rec : RecordId) : State :=
  writingFor (working base w) rec (.cert [0x30])

theorem witness_CompletionsEndTheCommand (w : CmdWork) (rec : RecordId) :
    (storing w rec).powered = true ∧ (storing w rec).NoWork ∧
    (storing w rec).engine.state = .command w ∧ (storing w rec).engine.abortRequest = false ∧
    base.records.writing = none ∧
    ∃ v, (storing w rec).records.writing = some v ∧ v.record = rec ∧
      (∃ q ∈ v.requesters, q.who = .command) ∧
      ∀ q ∈ v.requesters, ∀ f x, q.change ≠ .confirm f x :=
  ⟨rfl, ⟨rfl, rfl, rfl⟩, rfl, rfl, rfl, _, rfl, rfl, ⟨_, .head _, rfl⟩, by simp⟩

/-- A write that only a block asked for. -/
theorem witness_CompletionsEndTheCommand_block :
    let t : State := { base with records := { base.records with
      writing := some ⟨.cert, [⟨.block, .asIs⟩], .cert []⟩ } }
    t.powered = true ∧ t.NoWork ∧ ∃ w, t.records.writing = some w ∧
      ∀ q ∈ w.requesters, q.who ≠ .command ∧ q.who ≠ .job :=
  ⟨rfl, ⟨rfl, rfl, rfl⟩, _, rfl, by decide⟩

/-- PROV_IDENTITY at the completion of its KEY[0] write, an abort requested, KEY[3] still waiting: at LOW it
ends ABORTED, at NORMAL it goes on (R71, R135); and the same request seen as a block's write completes. -/
theorem witness_CompletionsEndTheCommand_abort (normal : Bool) :
    let w := storing (.store [.key 0, .key 3] []) (.key 0)
    let s : State := { w with
      engine := { w.engine with abortRequest := true }
      supply := { w.supply with normal := normal }
      records := { w.records with waiting := [⟨.key 3, [⟨.command, .key someKey⟩]⟩] } }
    let b : State := { s with records := { s.records with
      writing := some ⟨.cert, [⟨.block, .asIs⟩], .cert []⟩ } }
    s.powered = true ∧ s.NoWork ∧ s.engine.state = .command (.store [.key 0, .key 3] []) ∧
    [RecordId.key 0, .key 3].erase (.key 0) = [.key 3] ∧ s.engine.abortRequest = true ∧
    (CmdWork.store [.key 3] []).StopsAtLow ∧
    (∃ e ∈ s.records.waiting, ∃ q ∈ e.requesters, q.who = .command) ∧
    look (fun t => (t.aperture.resp.state, t.aperture.resp.result, t.records.waiting)) .recordWriteComplete
      s = some (if normal = true then
        (.running, .ok, [⟨.key 3, [⟨.command, .key someKey⟩]⟩]) else (.done, .aborted, [])) ∧
    look (fun t => t.aperture.resp.state) .recordWriteComplete b =
      some (if normal = true then .running else .done) := by
  refine ⟨rfl, ⟨rfl, rfl, rfl⟩, rfl, by decide, rfl, .inl ⟨_, _, rfl⟩,
    ⟨_, .head _, _, .head _, rfl⟩, ?_, ?_⟩ <;> revert normal <;> decide +kernel

/-- The two SLOT writes of PROV_DEPLOY and of UPDATE_CONFIRM: the first to complete leaves the other awaited,
at LOW and with an abort requested too (R111, R146). -/
theorem witness_CompletionsEndTheCommand_slots :
    let low := fun (w : CmdWork) (rec : RecordId) =>
      let s := storing w rec
      { s with engine := { s.engine with abortRequest := true }, supply := State.reset.supply }
    (low (.deploySlots 2 [.slot .a, .slot .b]) (.slot .a)).NoWork ∧
    look (fun t => t.engine.state) .recordWriteComplete
      (low (.deploySlots 2 [.slot .a, .slot .b]) (.slot .a)) =
        some (.command (.deploySlots 2 [.slot .b])) ∧
    look (fun t => t.engine.state) .recordWriteComplete
      (low (.confirmSlots [.slot .b, .slot .a]) (.slot .b)) =
        some (.command (.confirmSlots [.slot .a])) ∧
    look (fun t => t.engine.restartDue) .recordWriteComplete
      (low (.deploySlots 2 [.slot .b]) (.slot .b)) = some (some .deploy) := by
  refine ⟨⟨rfl, rfl, rfl⟩, ?_, ?_, ?_⟩ <;> decide +kernel

/-- UPDATE_CONFIRM of the trial of section 6.8 before its COUNTERS write. -/
def confirming : State :=
  let t := working trial (.confirmCounters 5 0 [])
  { t with records := { t.records with
      waiting := [⟨.counters, [⟨.command, .confirm 5 0⟩]⟩] } }

/-- At the write's begin, at its completion, and at the last SLOT write's with a floor of 4, the count, and
of 5, one bit above it. -/
theorem witness_ConfirmSettlesAndBurns :
    let begun := working trial (.confirmCounters 5 0 [.slot .b, .slot .a])
    let begun' : State := { begun with records := { begun.records with
      writing := some ⟨.counters, [⟨.command, .confirm 5 0⟩], .counters counters⟩ } }
    let last := writingFor (working trial (.confirmSlots [.slot .a])) (.slot .a)
      (.slot ⟨.active, .none, none⟩)
    let raised : State := { last with slots := { last.slots with pendingFloor := 5 } }
    (confirming.powered = true ∧ confirming.NoWork ∧ confirming.runs = true ∧ confirming.records.writing = none ∧
      confirming.supply.normal = true ∧
      confirming.engine.state = .command (.confirmCounters 5 0 []) ∧
      (confirming.slot confirming.runningOfRun).state = .trial) ∧
    (begun'.NoWork ∧ begun'.runs = true ∧
      begun'.engine.state = .command (.confirmCounters 5 0 (.slot .b :: [.slot .a]))) ∧
    (∃ q ∈ [(⟨.command, .confirm 5 0⟩ : Requester)], q.change = .confirm 5 0) ∧
    (last.NoWork ∧ last.engine.state = .command (.confirmSlots [.slot .a]) ∧
      last.slots.pendingFloor ≤ last.fuses.image.count ∧
      last.slots.pendingRevoke.getLsbD 0 = false ∧ last.slots.pendingRevoke.getLsbD 1 = false) ∧
    raised.fuses.image.count < raised.slots.pendingFloor ∧
    (raised.fuses.image.set ⟨.counter, raised.fuses.image.count⟩).count ≤
      raised.slots.pendingFloor ∧
    raised.fuses.burn = none ∧
    raised.fuses.image.burned ⟨.counter, raised.fuses.image.count⟩ = false := by
  refine ⟨⟨rfl, ⟨rfl, rfl, rfl⟩, rfl, rfl, rfl, rfl, rfl⟩, ⟨⟨rfl, rfl, rfl⟩, rfl, rfl⟩, ?_,
    ⟨⟨rfl, rfl, rfl⟩, rfl, ?_, ?_, ?_⟩, ?_, ?_, rfl, ?_⟩ <;> decide +kernel

/-- A COUNTERS write of an UPDATE_CONFIRM, with these requesters, in progress. -/
def confirmWrite (rs : List Requester) (s : State) : State :=
  { s with records := { s.records with
      writing := some ⟨.counters, rs ++ [⟨.orphan, .confirm 5 1⟩], .counters { counters with
        pendingFloor := 5, pendingRevoke := 1 }⟩ } }

/-- Abandoned with no command at work, and with one that stops at LOW; shared by a command whose settling
has no write left, and by the owner reset. -/
theorem witness_ConfirmSettlesAndBurns_shared :
    let alone := confirmWrite [] base
    let low := confirmWrite [⟨.block, .asIs⟩] (lowWait (.store [.cert] []) .cert (.cert []))
    let shared := confirmWrite [⟨.command, .asIs⟩] (working base (.confirmCounters 5 1 []))
    let job := confirmWrite [⟨.job, .ownerReset⟩] (atJob .empty)
    (alone.powered = true ∧ alone.NoWork ∧ alone.engine.state = .idle) ∧
    (low.NoWork ∧ low.engine.abortRequest = true ∧ low.supply.normal = false ∧
      (CmdWork.store [.cert] []).StopsAtLow ∧
      ({ low with records := { low.records with writing := none } } : State).AwaitsWrite) ∧
    (shared.NoWork ∧ shared.engine.state = .command (.confirmCounters 5 1 [])) ∧
    (job.NoWork ∧ job.engine.state = .job .wipeCounters) ∧
    look (fun t => (t.slots.pendingFloor, t.slots.pendingRevoke)) .recordWriteComplete alone =
      some (5, 1) ∧
    look (fun t => (t.slots.pendingFloor, t.aperture.resp.result)) .recordWriteComplete low =
      some (5, .aborted) ∧
    look (fun t => (t.slots.pendingFloor, t.slots.pendingRevoke)) .recordWriteComplete job =
      some (5, 1) := by
  refine ⟨⟨rfl, ⟨rfl, rfl, rfl⟩, rfl⟩, ⟨⟨rfl, rfl, rfl⟩, rfl, rfl, .inl ⟨_, _, rfl⟩, ⟨by decide, ?_⟩⟩,
    ⟨⟨rfl, rfl, rfl⟩, rfl⟩, ⟨⟨rfl, rfl, rfl⟩, rfl⟩, ?_, ?_, ?_⟩
  · intro w h
    cases h
  all_goals decide +kernel

/-- A bit burn in progress. -/
def burning (attempts : Nat) (owner : BurnOwner) (target : FuseBit) (s : State) : State :=
  { s with fuses := { s.fuses with burn := some ⟨target, attempts, owner⟩ } }

/-- Each owner, with the attempts 1, 2 and the bits 2, 3 where the clauses meet. -/
theorem witness_FuseAttempts :
    let orphan := fun n => burning n .orphan ⟨.counter, 4⟩ base
    let deploy := fun bit => burning 2 .command ⟨.lifecycle, bit⟩
      (working factory (.deployBurn bit false))
    let job : State := burning 0 .job ⟨.counter, 4⟩ { base with
      engine := { base.engine with state := .job (.floorBurn ⟨false, false, false⟩) }
      slots := { base.slots with pendingFloor := 5 } }
    ((orphan 1).powered = true ∧ (orphan 1).NoWork ∧ (orphan 1).fuses.queue = [] ∧
      (orphan 1).supply.normal = true) ∧ (orphan 2).NoWork ∧
    ((deploy 3).NoWork ∧ (deploy 3).engine.state = .command (.deployBurn 3 false) ∧
      (deploy 3).fuses.queue = []) ∧
    ((deploy 2).NoWork ∧ (deploy 2).fuses.image.burned ⟨.lifecycle, 3⟩ = false ∧
      (deploy 2).supply.normal = true) ∧
    (job.NoWork ∧ job.slots.pendingFloor ≤ (job.fuses.image.set ⟨.counter, 4⟩).count ∧
      job.slots.pendingRevoke &&& ~~~ (job.fuses.image.set ⟨.counter, 4⟩).revoke = 0) ∧
    base.fuses.burn = none := by
  refine ⟨⟨rfl, ⟨rfl, rfl, rfl⟩, rfl, rfl⟩, ⟨rfl, rfl, rfl⟩, ⟨⟨rfl, rfl, rfl⟩, rfl, rfl⟩,
    ⟨⟨rfl, rfl, rfl⟩, ?_, rfl⟩, ⟨⟨rfl, rfl, rfl⟩, ?_, ?_⟩, rfl⟩ <;> decide +kernel

/-- Requesters that go on: UPDATE_CONFIRM, the flow, and a request that waited behind an abandoned burn, not
burned at NORMAL and at LOW, and burned. -/
theorem witness_FuseAttempts_requesters :
    let confirm := burning 2 .command ⟨.counter, 4⟩ (working base (.confirmBurn ⟨false, false, false⟩))
    let flow := burning 1 .flow ⟨.revoke, 0⟩ { waiting with
      config := some (config geo), flow := ⟨.burns ⟨true, false, false⟩ false, .reboot⟩ }
    let behind := fun (bit : Nat) (normal : Bool) => burning 2 .orphan ⟨.revoke, 0⟩ { base with
      supply := { base.supply with normal := normal }
      fuses := { base.fuses with queue := [⟨⟨.counter, bit⟩, .command⟩] } }
    (confirm.powered = true ∧ confirm.NoWork ∧ confirm.fuses.queue = [] ∧
      BitBurn.ends ⟨⟨.counter, 4⟩, 2, .command⟩ false true = some .failed) ∧
    (flow.NoWork ∧ flow.down.port = .idle ∧ 0 < flow.configGeo.recSize ∧
      BitBurn.ends ⟨⟨.revoke, 0⟩, 1, .flow⟩ false true = none ∧
      BitBurn.ends ⟨⟨.revoke, 0⟩, 1, .flow⟩ false false = some .supplyStop ∧
      BitBurn.ends ⟨⟨.revoke, 0⟩, 1, .flow⟩ true false = some .burned) ∧
    ∀ normal, ((behind 3 normal).NoWork ∧ (behind 4 normal).supply.normal = normal ∧
      (behind 3 normal).fuses.queue = ⟨⟨.counter, 3⟩, .command⟩ :: [] ∧
      ((behind 3 normal).burnRead ⟨.revoke, 0⟩ false).fuses.image.burned ⟨.counter, 3⟩ = true ∧
      ((behind 4 normal).burnRead ⟨.revoke, 0⟩ false).fuses.image.burned ⟨.counter, 4⟩ = false) := by
  refine ⟨⟨rfl, ⟨rfl, rfl, rfl⟩, rfl, rfl⟩, ⟨⟨rfl, rfl, rfl⟩, rfl, ?_, rfl, rfl, rfl⟩,
    fun n => ⟨⟨rfl, rfl, rfl⟩, rfl, rfl, ?_, ?_⟩⟩
  · decide
  · cases n <;> decide +kernel
  · cases n <;> decide +kernel

/-- Commands whose write waits as the supply falls, at an abort point and at none, and PROV_DEPLOY that
waits for NORMAL. -/
theorem witness_SupplyEntries :
    let d0 := working factory (.deployBurn 0 true)
    let d : State := { d0 with supply := State.reset.supply }
    (∀ w rec c, let s : State := { lowWait w rec c with supply := base.supply }
      s.powered = true ∧ s.NoWork ∧ s.supply.normal = true ∧ s.engine.abortRequest = true ∧
        s.engine.state = .command w ∧ s.AwaitsWrite) ∧
    (CmdWork.store [.cert] []).StopsAtLow ∧ (CmdWork.verifyStore .b (.fail .rollback)).StopsAtLow ∧
    (CmdWork.credIncrement 0 [0x41]).StopsAtLow ∧ ¬ (CmdWork.credClear 0).StopsAtLow ∧
    (d.powered = true ∧ d.NoWork ∧ d.supply.normal = false ∧ d.slots.deferral = false ∧
      d.flow.phase = .none ∧ d.fuses.burn = none ∧ d.fuses.image.burned ⟨.lifecycle, 0⟩ = false) ∧
    base.supply.normal = true ∧ base.engine.abortRequest = false ∧ base.NoWork :=
  ⟨fun w rec c => ⟨rfl, ⟨rfl, rfl, rfl⟩, rfl, rfl, rfl, (lowWait_stops w rec c).2.2.2.2.2.1⟩,
    .inl ⟨_, _, rfl⟩, .inr (.inl ⟨_, _, rfl⟩), .inr (.inr ⟨_, _, rfl⟩), by simp [CmdWork.StopsAtLow],
    ⟨rfl, ⟨rfl, rfl, rfl⟩, rfl, rfl, rfl, rfl, by decide⟩, rfl, rfl, rfl, rfl, rfl⟩

/-- A deferred floor at an idle and at a busy engine, and a flow whose burns wait for NORMAL. -/
theorem witness_SupplyEntries_deferred :
    let idle : State := { base with
      supply := State.reset.supply, slots := { base.slots with pendingFloor := 5, deferral := true } }
    let busy := working idle (.credClear 0)
    let flow : State := { waiting with
      supply := State.reset.supply, config := some (config geo)
      flow := ⟨.burns ⟨false, false, false⟩ true, .reboot⟩ }
    (idle.powered = true ∧ idle.NoWork ∧ idle.supply.normal = false ∧ idle.flow.phase = .none ∧
      idle.slots.deferral = true ∧ idle.engine.state = .idle) ∧
    (busy.NoWork ∧ busy.engine.state ≠ .idle ∧
      ∀ bit, busy.engine.state ≠ .command (.deployBurn bit true)) ∧
    (flow.powered = true ∧ flow.NoWork ∧ flow.supply.normal = false ∧ flow.slots.deferral = false ∧
      flow.engine.state = .idle ∧ flow.flow.phase = .burns ⟨false, false, false⟩ true ∧
      flow.down.port = .idle ∧ 0 < flow.configGeo.recSize) :=
  ⟨⟨rfl, ⟨rfl, rfl, rfl⟩, rfl, rfl, rfl, rfl⟩, ⟨⟨rfl, rfl, rfl⟩, by decide, by simp [working]⟩,
    rfl, ⟨rfl, rfl, rfl⟩, rfl, rfl, rfl, rfl, rfl, by decide⟩

theorem witness_ButtonAndExpiries :
    let held : State := { working base (.credClear 0) with
      presence := { base.presence with level := true, state := .pressed }
      timers := { base.timers with presence := produced } }
    base.powered = true ∧ base.Quiet ∧ held.powered = true ∧ held.Quiet ∧
    held.presence.state = .pressed ∧ held.fuses.image.lifecycle ≠ 0 ∧ held.engine.state ≠ .idle ∧
    held.timers.presence.due = true ∧ ({ held with engine := base.engine } : State).Quiet ∧
    base.timers.presence.due = false :=
  ⟨rfl, base_quiet, rfl, fun h => absurd h (by decide), rfl, by decide, by decide, rfl,
    fun _ => ⟨rfl, rfl, rfl⟩, rfl⟩

/-- GATE at the tick before its last and at its last, the button and the monitor one short of a change and
at it (R13, R129, R174). -/
def ticking (gate : Nat) (ticks run : Nat) : State := { gateOpen base with
  timers := { base.timers with gate := ⟨gate, 999, .running, false⟩ }
  presence := { base.presence with ticks := ticks }
  supply := { base.supply with run := run } }

theorem witness_BaseTickCounts :
    (∀ g n r, (ticking g n r).powered = true ∧ (ticking g n r).Quiet ∧
      (ticking g n r).supply.normal = true ∧ (ticking g n r).engine.abortRequest = false ∧
      (ticking g n r).presence.level = false) ∧
    ([.gate, .supply] : List TickEvent).Nodup ∧ base.supply.samples = 4 ∧
    supplyMv base.supply.calibration 4095 < base.supply.threshold ∧
    look (fun t => (t.timers.gate, t.supply.normal, t.presence.level)) (.baseTick 4095 true [])
      (ticking 2 18 2) = some (⟨1, 0, .running, false⟩, true, false) ∧
    look (fun t => (t.timers.gate, t.supply.normal, t.presence.level)) (.baseTick 4095 true [])
      (ticking 1 19 3) = some (⟨0, 0, .expired, true⟩, false, true) ∧
    look (fun t => (t.timers.gate.state, t.cred.gateOpen)) (.baseTick 4095 false [.gate, .supply])
      (ticking 1 0 3) = some (.stopped, false) := by
  refine ⟨fun _ _ _ => ⟨rfl, fun _ => ⟨rfl, rfl, rfl⟩, rfl, rfl, rfl⟩, ?_, ?_, ?_, ?_, ?_, ?_⟩ <;>
    decide +kernel

theorem witness_PowerLossAndPowerOn :
    base.powered = true ∧ ({ base with powered := false } : State).powered = false ∧
    (∀ sensed pin, Instr.wren ≠ .powerOn sensed pin) := ⟨rfl, rfl, by simp⟩

/-- The examples of R118 at POWER_ON: 1210 with its check, 1210 with a wrong one, and 1350 with its own. -/
theorem test_powerOn_calibration :
    let at' := fun (mv check : Nat) => look (fun t => (t.supply.calibration, t.supply.calDefault))
      (.powerOn [] false) { base with fuses := { base.fuses with
        array := { base.fuses.array with calibration := BitVec.ofNat 32 (mv + 65536 * check) } } }
    at' 1210 64325 = some (1210, false) ∧ at' 1210 64326 = some (1200, true) ∧
    at' 1350 64185 = some (1200, true) := by decide +kernel

/-- R76 and R79: a slot stored below the floor, at it, and above it. -/
theorem test_powerOn_rollBack (v : Fin 3) :
    look (fun t => ((t.slot .a).state, t.records.waiting)) (.powerOn [] false)
      { base with records := ⟨{ Store.blank with
        slotA := some ⟨.active, .none, some (summary (3 + v))⟩ }, [], none⟩ } =
    some (if v = 0 then (.failed, [⟨.slot .a, [⟨.block, .asIs⟩]⟩]) else (.active, [])) := by
  revert v; decide +kernel

/-- A flow that can go on: in FACTORY, in DEPLOYED with candidates, and in DEPLOYED with none. -/
theorem witness_FlowResumes :
    let f : State := { factory with stage := .num 0, flow := waiting.flow }
    let e : State := { waiting with
      slots := State.reset.slots, config := some (config geo) }
    (waiting.powered = true ∧ waiting.Quiet ∧ waiting.cred.wipeUnfinished = false ∧
      waiting.flow.phase = .wait ∧ waiting.supply.normal = true ∧ waiting.resetIn = false ∧
      waiting.down.port = .idle ∧ waiting.fuses.image.lifecycle ≠ 0 ∧
      waiting.slots.pendingFloor ≤ waiting.fuses.image.count ∧
      waiting.slots.pendingRevoke &&& ~~~ waiting.fuses.image.revoke = 0) ∧
    (f.Quiet ∧ f.flow.phase = .wait ∧ f.supply.normal = true ∧ f.fuses.image.lifecycle = 0) ∧
    (e.Quiet ∧ e.candidates = [] ∧ 0 < (e.config.getD ConfigRec.default).geo.recSize) ∧
    (f.engine.state = .idle ∧
      ({ f with cred := { f.cred with wipeUnfinished := true } } : State).cred.wipeUnfinished = true) ∧
    State.reset.supply.normal = false := by
  refine ⟨⟨rfl, fun _ => ⟨rfl, rfl, rfl⟩, rfl, rfl, rfl, rfl, rfl, ?_, ?_, ?_⟩,
    ⟨fun _ => ⟨rfl, rfl, rfl⟩, rfl, rfl, rfl⟩, ⟨fun _ => ⟨rfl, rfl, rfl⟩, ?_, ?_⟩,
    ⟨rfl, rfl⟩, rfl⟩ <;> decide +kernel

/-- A flow with a COUNTER bit due, at NORMAL. -/
theorem witness_FlowResumes_burns :
    let s : State := { waiting with
      config := some (config geo), slots := { waiting.slots with pendingFloor := 5 } }
    s.powered = true ∧ s.Quiet ∧ s.cred.wipeUnfinished = false ∧ s.fuses.image.lifecycle ≠ 0 ∧
    s.nextBit ⟨false, false, false⟩ = (some ⟨.counter, 4⟩, ⟨false, false, false⟩) ∧
    s.fuses.burn = none ∧ s.engine.state = .idle ∧ s.down.port = .idle ∧ 0 < s.configGeo.recSize := by
  refine ⟨rfl, fun _ => ⟨rfl, rfl, rfl⟩, rfl, ?_, ?_, rfl, rfl, rfl, ?_⟩ <;> decide +kernel

/-- The jobs requested idle and at work, the wipe's last write, and a floor one bit above the count. -/
theorem witness_InternalJobs :
    let wiped : State := { atJob .empty with records := { base.records with
      writing := some ⟨.counters, [⟨.job, .ownerReset⟩], .counters counters⟩ } }
    let raised : State := { base with slots := { base.slots with pendingFloor := 5 } }
    (owned.powered = true ∧ owned.NoWork ∧ owned.stage ≠ .s0 ∧ owned.fuses.image.lifecycle ≠ 0 ∧
      owned.engine.state = .idle) ∧
    ((working owned (.credClear 0)).NoWork ∧ (working owned (.credClear 0)).engine.state ≠ .idle) ∧
    (wiped.NoWork ∧ wiped.engine.state = .job .wipeCounters ∧
      ∃ w, wiped.records.writing = some w ∧ (∃ q ∈ w.requesters, q.who = .job) ∧
        ∀ q ∈ w.requesters, ∀ f v, q.change ≠ .confirm f v) ∧
    (raised.NoWork ∧ raised.stage ≠ .s0 ∧ raised.engine.state = .idle ∧
      raised.fuses.image.count < raised.slots.pendingFloor ∧
      (raised.fuses.image.set ⟨.counter, raised.fuses.image.count⟩).count ≤
        raised.slots.pendingFloor ∧ raised.supply.normal = true ∧ raised.fuses.burn = none ∧
      raised.fuses.image.burned ⟨.counter, raised.fuses.image.count⟩ = false) ∧
    (base.slots.pendingFloor ≤ base.fuses.image.count ∧
      base.slots.pendingRevoke &&& ~~~ base.fuses.image.revoke = 0) ∧
    State.reset.stage = .s0 ∧ State.reset.NoWork ∧ factory.fuses.image.lifecycle = 0 := by
  refine ⟨⟨rfl, ⟨rfl, rfl, rfl⟩, ?_, ?_, rfl⟩, ⟨⟨rfl, rfl, rfl⟩, ?_⟩,
    ⟨⟨rfl, rfl, rfl⟩, rfl, _, rfl, ?_, by simp⟩,
    ⟨⟨rfl, rfl, rfl⟩, ?_, rfl, ?_, ?_, rfl, rfl, ?_⟩, ⟨?_, ?_⟩, rfl, ⟨rfl, rfl, rfl⟩, rfl⟩ <;>
    decide +kernel

/-- The wipe's last write with its flag set, and cleared by a kept write; and a flow whose last loader chunk
comes with the wipe unfinished. -/
theorem witness_InternalJobs_resumed :
    let wipe := fun (unfinished : Bool) => ({ atJob .empty with
      engine := { base.engine with state := .job (.wipe [.key 5]) }
      cred := { base.cred with wipeUnfinished := unfinished }
      records := { base.records with
        writing := some ⟨.key 5, [⟨.job, .key (KeyRec.empty 5)⟩], .key (KeyRec.empty 5)⟩ } } : State)
    let l : State := { flowing .loader .loader with
      filter := ⟨.recovery, geo, recoveryTable geo⟩
      ve := ⟨.loader, [], 1048574, ShaState.initial⟩
      cred := { base.cred with wipeUnfinished := true } }
    (∀ u, (wipe u).powered = true ∧ (wipe u).NoWork ∧ (wipe u).cred.wipeUnfinished = u ∧
      (wipe u).engine.state = .job (.wipe [.key 5]) ∧
      ∃ w, (wipe u).records.writing = some w ∧ (∃ q ∈ w.requesters, q.who = .job) ∧
        (∀ q ∈ w.requesters, ∀ f v, q.change ≠ .confirm f v) ∧
        [RecordId.key 5].erase w.record = [] ∧ [RecordId.key 4, .key 5].erase w.record ≠ []) ∧
    (l.powered = true ∧ l.NoWork ∧ l.engine.state = .idle ∧ l.down.chunk.st = .inFlight ∧
      l.down.chunk.length ≤ (l.down.chunk.got ++ [2]).length ∧ l.filter.mode = .recovery ∧
      l.configGeo.recSize ≤ l.ve.cursor + l.down.chunk.length ∧ l.cred.wipeUnfinished = true) := by
  refine ⟨fun u => ⟨rfl, ⟨rfl, rfl, rfl⟩, rfl, rfl, _, rfl, ?_, by simp, ?_, ?_⟩,
    rfl, ⟨rfl, rfl, rfl⟩, rfl, rfl, ?_, rfl, ?_, rfl⟩ <;> decide

/-! #### The machine -/

/-- A command that has asked for nothing, on a part that writes nothing. -/
theorem awaits_nothing {s : State} (hl : s.records.waiting = []) (hw : s.records.writing = none)
    (he : s.engine.state = .idle) : AwaitsMatch s := by
  refine ⟨?_, ?_, by simp [hl], by simp [he], by simp [he]⟩ <;>
    simp [State.commandAsks, State.commandBegun, commandsIn, hl, hw, he, EngineState.awaits]

/-- A CRED_CHECK after its match, its COUNTERS write in progress. -/
theorem matched_awaits (id : Fin 24) : AwaitsMatch (matched id) := by
  refine ⟨.refl _, List.nodup_singleton _, (by intro _ h; cases h), (by intro _ _ _ h; cases h), ?_⟩
  intro _ _ p hp
  have h : p ∈ [((.counters, .credClear) : RecordId × Change)] := hp
  rw [List.mem_singleton.1 h]

/-- A part with one command in its queue. -/
def queued (i : Instr) (s : State) : State := { s with pending := [i] }

theorem witness_StepTakesTheFront :
    (queued .wren base).pending = .wren :: [] ∧ base.pending = [] := ⟨rfl, rfl⟩

theorem witness_StepKeepsLogListAndCounts :
    step (queued .wren base) = .next { base with up := { base.up with wel := true } } ∧
    LogWellFormed (queued .wren base).log ∧
    WaitingWellFormed (queued .wren (waits .cert (.cert []))).records.waiting ∧
    CountsInBounds (queued .wren (violated 16 (.num 3))) ∧
    AwaitsMatch (queued .recordWriteComplete (matched 3)) := by
  refine ⟨rfl, ⟨by decide, fun i h => absurd h (Nat.not_lt_zero i), rfl⟩, ⟨by decide, by decide⟩, ?_,
    matched_awaits 3⟩
  exact ⟨by decide, (by intro _ h; cases h), (by intro _ h; cases h), by decide, by decide, by decide⟩

theorem witness_StepKeepsTheFlowInvariant :
    (∃ t, step (queued (.gateClose (req [])) (gateOpen base)) = .next t) ∧
    FlowInvariant (queued (.gateClose (req [])) (gateOpen base)) ∧ FlowInvariant (queued .wren waiting) := by
  refine ⟨⟨_, rfl⟩, ⟨?_, fun _ => ⟨rfl, rfl, rfl⟩, ⟨fun _ => .inl rfl, fun _ => rfl⟩, fun h => ?_⟩,
    ⟨?_, fun _ => ⟨rfl, rfl, rfl⟩, ?_, fun _ => ⟨rfl, rfl, rfl, (by intro _ h; cases h)⟩⟩⟩
  · exact ⟨fun h => absurd h (by decide), fun h => absurd rfl h⟩
  · exact absurd h (by decide)
  · exact ⟨fun _ => by decide, fun _ => rfl⟩
  · exact ⟨fun h => absurd h (by decide), fun h => absurd h (by unfold GateTimed; decide)⟩

theorem witness_StepKeepsTheTablesWithin :
    TablesWithin (queued (.policyTighten (req [1, 2, 1, 0])) base) ∧
    ∃ t, step (queued (.policyTighten (req [1, 2, 1, 0])) base) = .next t := by
  refine ⟨⟨⟨?_, ?_, by decide⟩, (by intro _ h; cases h), (by intro _ h; cases h)⟩, _, rfl⟩
  · intro e he
    simp only [queued, base, table, List.mem_cons, List.not_mem_nil, or_false] at he
    rcases he with rfl | rfl | rfl <;> exact ⟨fun _ h => h, fun _ h => h⟩
  · intro d hd
    obtain rfl : (⟨.ones, ⟨8, 0⟩, ⟨8, 0⟩, ⟨8, 0⟩, ⟨8, 0⟩⟩ : DefaultEntry) = d := Option.some.inj hd
    exact ⟨fun _ h => h, fun _ h => h⟩

/-- A burn read back, and a POWER_ON that senses a doubtful bit burned. -/
theorem witness_StepNeverUnburns :
    let off : State := { base with powered := false, fuses := { base.fuses with
      image := FuseRows.unburned, doubtful := [⟨.counter, 4⟩] } }
    FusesInvariant (queued (.fuseAttemptDone true) (burning 0 .orphan ⟨.counter, 4⟩ base)) ∧
    (FusesInvariant (queued (.powerOn [⟨.counter, 4⟩] false) off) ∧
      look (fun t => t.fuses.array.count) (.powerOn [⟨.counter, 4⟩] false) off = some 5) ∧
    ∃ t, step (queued (.fuseAttemptDone true) (burning 0 .orphan ⟨.counter, 4⟩ base)) = .next t :=
  ⟨fun _ => rfl, ⟨(by intro h; cases h), by decide +kernel⟩, _, rfl⟩

theorem witness_GateOpensOnlyAfterCredCheck :
    AwaitsMatch (queued .recordWriteComplete (matched 0)) ∧
    (queued .recordWriteComplete (matched 0)).cred.gateOpen = false ∧
    look (fun t => t.cred.gateOpen) .recordWriteComplete (matched 0) = some true :=
  ⟨matched_awaits 0, rfl, by decide +kernel⟩

/-! ### The verification procedure -/

/-- A manifest without entries: authority 0, trial time 60 s, security version 3, image version 7, image
length 4096, its default entry's byte at 60 given (Table 12-9). -/
def manifest0 (fill : Byte) : List Byte :=
  [0x43, 0x50, 0x4c, 0x4d, 1, 0, 0, 0, 128, 0, 60, 0, 3, 0, 0, 0, 7, 0, 0, 0, 0, 0x10, 0, 0] ++
    List.replicate 32 0xaa ++ [0x80, 0, 0x80, 0, fill, 0, 0, 0] ++ List.replicate 64 0

theorem witness_ProcedureChecksInOrder :
    let m := manifest0 0xff
    (m.take 4 = [0x43, 0x50, 0x4c, 0x4d] ∧ byteAt m 4 = 1 ∧ (byteAt m 5).toNat ≤ 1 ∧
      (byteAt m 6).toNat ≤ 1 ∧ (byteAt m 7).toNat = 0 ∧ byteAt m 8 = 128 ∧ byteAt m 9 = 0 ∧
      byteAt m 10 = 60 ∧ byteAt m 11 = 0 ∧ (byteAt m 12).toNat ≤ 64 ∧ byteAt m 13 = 0 ∧
      byteAt m 14 = 0 ∧ byteAt m 15 = 0) ∧
    (slice m 24 32 = List.replicate 32 0xaa ∧ byteAt m 60 = 0xff ∧
      (Cond.ofByte (byteAt m 56)).bound < 8 ∧ (Cond.ofByte (byteAt m 58)).bound < 8 ∧
      byteAt m 61 = 0 ∧ byteAt m 62 = 0 ∧ byteAt m 63 = 0) := by decide +kernel

/-- Table 12-10: OTHER_SLOT, ZEROS, the conditions 0xD2 and 0x80 with annotations, offset 4096, size 8192;
and an anchor and a fill that are no listed values (R41). -/
def entryBytes : List Byte := [2, 0, 0xd2, 7, 0x80, 9, 0, 0, 0, 0x10, 0, 0, 0, 0x20, 0, 0]

theorem test_parseRegion :
    parseRegion entryBytes = some ⟨.otherSlot, 4096, 8192, Cond.atOrAbove2, Cond.always, .zeros⟩ ∧
    parseRegion (3 :: entryBytes.drop 1) = none ∧ parseRegion [0, 1] = none ∧
    (Region.valid ⟨.otherSlot, 12574720, 8192, Cond.always, Cond.always, .ones⟩ geo = true) ∧
    Region.valid ⟨.otherSlot, 12578816, 8192, Cond.always, Cond.always, .ones⟩ geo = false := by
  decide +kernel

/-- The policy of a manifest with that one entry: its entry count 1, its bytes at 64. -/
theorem witness_VerifyGoesChunkByChunk_policy :
    let m := (manifest0 0).set 7 1
    let m1 := m.take 64 ++ entryBytes
    (List.range (byteAt m1 7).toNat).map (fun i => parseRegion ((m1.drop (64 + 16 * i)).take 16)) =
      [(⟨.otherSlot, 4096, 8192, Cond.atOrAbove2, Cond.always, .zeros⟩ : Region)].map some ∧
    byteAt m1 60 = 0 ∧ State.reset.partInput.length = 31 ∧
    State.reset.partInput.take 12 = [0, 0, 0, 1, 0, 0, 0, 0, 0, 0, 0xff, 0] := by decide +kernel

theorem test_manifest_checks :
    checkManifest State.reset Geometry.default (manifest0 0xff) = some .authorityAbsent ∧
    checkManifest State.reset Geometry.default [] = some .manifestFormat ∧
    judgeImage Geometry.default (manifest0 0xff) [] = .fail .imageDigest ∧
    judgeImage Geometry.default (manifest0 0x01) (List.replicate 32 0xaa) = .fail .policyBad := by
  decide +kernel

theorem test_manifest_summary :
    (manifestSummary (manifest0 0xff)).imageVersion = 7 ∧
    (manifestSummary (manifest0 0xff)).trialTime = 60 ∧
    policyOk Geometry.default (manifest0 0xff) = true := by decide +kernel

end Sys2Proof.Tests
end

