-- ==== Sys2Proof/Proofs/StageConditions.lean ====
section
/-! Stage conditions: what a condition allows at a numeric stage and at UNSET (R6), and the no-wider relation
as inclusion of the allowed sets (R9). -/

namespace Sys2Proof.Machine

/-- The model's list leaves out no stage value (R1). -/
theorem mem_allStages (s : Stage) : s ∈ allStages := by
  cases s with
  | num n => fin_cases n <;> simp [allStages]
  | unset => simp [allStages]

/-- R9: the check over the list of nine values speaks of every stage. -/
theorem Cond.noWider_iff (c d : Cond) :
    c.noWider d = true ↔ ∀ st, c.holds st = true → d.holds st = true := by
  have not_or_iff_imp : ∀ st, (!c.holds st || d.holds st) = true ↔
      (c.holds st = true → d.holds st = true) := by
    intro st
    cases c.holds st <;> simp
  simp only [Cond.noWider, List.all_eq_true, mem_allStages, true_implies, not_or_iff_imp]

/-- R6 at UNSET: below and at are false, so only N and U count; the bound plays no part. -/
theorem Cond.holds_unset (code bound : BitVec 4) :
    (Cond.mk code bound).holds .unset = (code.getLsbD 3 != code.getLsbD 0) := rfl

/-- R6 at a numeric stage, for a bound in 0..7: unset is false, so U plays no part, and below and at compare
as in the order of the numeric stages. -/
theorem Cond.holds_num (code : BitVec 4) (b n : Fin 8) :
    (Cond.mk code (BitVec.ofNat 4 b.val)).holds (.num n) =
      (code.getLsbD 3 !=
        (code.getLsbD 2 && decide (n < b) || code.getLsbD 1 && decide (n = b))) := by
  have bound_toNat : (BitVec.ofNat 4 b.val).toNat = b.val := by
    rw [BitVec.toNat_ofNat]
    omega
  simp only [Cond.holds, bound_toNat, Fin.lt_def, Fin.ext_iff]

/-- Settles O9: Table 1-1 by groups of codes with the same L and E, whose numeric stages are none, at, below
and at or below, or with N their complements; its UNSET column by N and U; the relation by
`Cond.noWider_iff`. -/
theorem stageConditionsAndNoWider : Obligations.StageConditionsAndNoWider := by
  refine ⟨fun b n => ?table, Cond.noWider_iff⟩
  have below_or_at : (decide (n < b) || decide (n = b)) = decide (n ≤ b) := by
    simp only [le_iff_lt_or_eq, Bool.decide_or]
  have not_below : (!decide (n < b)) = decide (b ≤ n) := by simp only [← decide_not, not_lt]
  have not_at_or_below : (!decide (n ≤ b)) = decide (b < n) := by simp only [← decide_not, not_le]
  simp only [Cond.holds_num, Cond.holds_unset]
  refine ⟨?noStage, ?atBound, ?belowBound, ?atOrBelowBound, ?unsetAllowed, ?unsetRefused⟩
  case noStage => simp
  case atBound => simp
  case belowBound => simp [not_below]
  case atOrBelowBound => simp [below_or_at, not_at_or_below]
  case unsetAllowed => decide
  case unsetRefused => decide

end Sys2Proof.Machine
end

