-- ==== Sys2Proof/Proofs/ProvDeploy.lean ====
section
/-! PROV_DEPLOY as its frame is taken: the items the Record Store lacks (R145), and the first attempt at a
LIFECYCLE bit (R119, R122, R146). -/

namespace Sys2Proof.Machine

/-! ### The items of R145 -/

/-- A stored KEY record is PRESENT (R145). -/
theorem keyStored_eq_any (k : Option KeyRec) : keyStored k = k.any fun k => k.present := by
  cases k <;> rfl

/-- R145: each absent item gives its own code, in the order of the list. -/
theorem Store.missing_eq (t : Store) :
    let present := fun i : Fin 16 => (t.keys[i]).any fun k => k.present
    t.missing =
      (if t.config.isSome then [] else [1]) ++ (if present 0 then [] else [2]) ++
        (if present 3 then [] else [3]) ++ (if present 1 then [] else [4]) ++
        (if t.cert.isSome then [] else [5]) := by
  have absent_code : ∀ (code : Byte) (stored : Bool) (rest : List (Byte × Bool)),
      (((code, stored) :: rest).filter fun e => !e.2).map Prod.fst =
        (if stored then [] else [code]) ++ (rest.filter fun e => !e.2).map Prod.fst := by
    intro code stored rest
    cases stored <;> rfl
  simp only [Store.missing, Store.items, keyStored_eq_any, absent_code, List.filter_nil, List.map_nil,
    List.append_nil, List.append_assoc]

/-! ### The burn of a LIFECYCLE bit -/

/-- A part in FACTORY has no LIFECYCLE bit burned (R117). -/
theorem FuseRows.burned_lifecycle_of_zero {f : FuseRows} (h : f.lifecycle = 0) (bit : Nat) :
    f.burned ⟨.lifecycle, bit⟩ = false := by
  simp [FuseRows.burned, h]

/-- An unburned bit's burn, asked for at NORMAL, has not ended as it is asked for (R119). -/
theorem State.requestBurn_unburned {s : State} {b : FuseBit} (hb : s.fuses.image.burned b = false)
    (hn : s.supply.normal = true) (owner : BurnOwner) :
    s.requestBurn b owner = (s.asksBurn b owner, none) := by
  unfold State.requestBurn State.asksBurn
  cases s.fuses.burn with
  | none => simp [State.takeBurn, hb, hn]
  | some _ => rfl

/-- PROV_DEPLOY waits for an unburned LIFECYCLE bit that it tries at NORMAL (R122, R146). -/
theorem State.deployTry_unburned {s : State} {bit : Nat}
    (hb : s.fuses.image.burned ⟨.lifecycle, bit⟩ = false) (hn : s.supply.normal = true) :
    s.deployTry bit = (s.asksBurn ⟨.lifecycle, bit⟩ .command).work (.deployBurn bit false) := by
  rw [State.deployTry, State.requestBurn_unburned hb hn]

/-- R119: the request waits behind a burn in progress, else its first attempt begins. -/
theorem State.asksBurn_eq (s : State) (b : FuseBit) (owner : BurnOwner) :
    s.asksBurn b owner = { s with fuses :=
      if s.fuses.burn.isSome then { s.fuses with queue := s.fuses.queue ++ [⟨b, owner⟩] }
      else { s.fuses with burn := some ⟨b, 0, owner⟩ } } := by
  unfold State.asksBurn
  cases s.fuses.burn <;> rfl

/-! ### The gating -/

/-- Without a refusal every check has passed (R72). -/
theorem firstRefusal_eq_none_iff {cs : List Check} :
    firstRefusal cs = none ↔ ∀ c ∈ cs, c.1 = true := by
  induction cs with
  | nil => simp
  | cons c cs ih =>
    rw [List.forall_mem_cons, ← ih, firstRefusal]
    cases c.1 <;> simp

/-- The checks of R72 that PROV_DEPLOY can fail, in their order: lifecycle, reserved field, no parameters,
the items of R145, supply. -/
def State.deployChecks (s : State) (r : Request) : List Check :=
  let missing := s.records.store.missing
  [(decide (s.fuses.image.lifecycle = 0), .plain .lifecycleDenied),
    (decide (r.reserved = 0), Reply.reservedField), (r.params.isEmpty, Reply.range),
    (missing.isEmpty, ⟨.missingItem, 0, [BitVec.ofNat 8 missing.length] ++ missing, false⟩),
    (s.supply.normal, .plain .supplyLow)]

/-- PROV_DEPLOY's frame as it is taken: the first refusal answers, else LIFECYCLE bit 0 is tried (R145,
R146). -/
theorem cmdProvDeploy_taken (s : State) (r : Request) :
    cmdProvDeploy (requestFrame 0x64 r) (s.taken 0x64 r) =
      (firstRefusal (s.deployChecks r)).elim ((s.taken 0x64 r).deployTry 0) (s.answered 0x64 r) := by
  have no_params : decide (r.params.length = 0) = r.params.isEmpty := by
    cases r.params <;> rfl
  simp only [cmdProvDeploy, State.gated_taken, State.deployChecks, lifecycleCheck,
    State.life_factory_iff, exactParams, requestFrame_params, no_params, State.taken_records,
    Cond.always_holds, u8, List.cons_append, List.nil_append, firstRefusal, if_true, Bool.and_true,
    Bool.not_true, Bool.false_or]
  split
  · next hrefused => rw [hrefused, Option.elim_some]
  · next hpassed => rw [hpassed, Option.elim_none]

/-- What the burn of bit 0 finds once no check has refused. -/
theorem State.deployChecks_passed {s : State} {r : Request}
    (h : firstRefusal (s.deployChecks r) = none) :
    s.fuses.image.lifecycle = 0 ∧ s.supply.normal = true := by
  have passed := firstRefusal_eq_none_iff.1 h
  simp only [State.deployChecks, List.forall_mem_cons, decide_eq_true_eq] at passed
  obtain ⟨hfactory, _, _, _, hnormal, _⟩ := passed
  exact ⟨hfactory, hnormal⟩

/-- Settles O27: a refusal answers at once, and past the checks bit 0 is unburned and the supply NORMAL, so
that the burn is asked for and the engine waits for it. -/
theorem provDeployStarts : Obligations.ProvDeployStarts := by
  intro s r hready hfits st present missing
  have hmissing : st.missing = missing := Store.missing_eq st
  rw [exec_service_row (i := .provDeploy r) rfl, ← hmissing, ← State.asksBurn_eq]
  change _ = Host.Outcome.next (match firstRefusal (s.deployChecks r) with
    | some refusal => s.answered 0x64 r refusal
    | none => (s.asksBurn ⟨.lifecycle, 0⟩ .command).started 0x64 r (.deployBurn 0 false))
  have taken := cmdProvDeploy_taken s r
  cases hchecks : firstRefusal (s.deployChecks r) with
  | some refusal =>
    rw [hchecks] at taken
    exact State.perform_service hready 0x64 r hfits taken (State.answered_quiet hready 0x64 r refusal)
  | none =>
    obtain ⟨hfactory, hnormal⟩ := State.deployChecks_passed hchecks
    have tries := State.deployTry_unburned (s := s.taken 0x64 r)
      (FuseRows.burned_lifecycle_of_zero hfactory 0) hnormal
    rw [hchecks] at taken
    exact State.perform_service hready 0x64 r hfits (taken.trans tries) (State.started_quiet _ 0x64 r _)

end Sys2Proof.Machine
end

