-- ==== Sys2Proof/Proofs/ReportsAndLog.lean ====
section
/-! The commands that report and the Measurement Log: a taken frame that is answered at once, IDENTIFY,
CERT_READ and KEY_PUBLIC (R136, R159, R160), the log's capacity rule and chain (R148 to R150), LOG_READ
(R156) and MEASURE_EXTEND (R155). -/

namespace Sys2Proof.Machine

/-! ### A taken frame answered at once -/

/-- What a parameter byte of a request's frame reads. -/
@[simp] theorem requestFrame_p (code : Byte) (r : Request) (i : Nat) :
    (requestFrame code r).p i = (byteAt r.params i).toNat := rfl

/-- R73: the check of a command without parameters. -/
theorem exactParams_zero (code : Byte) (r : Request) :
    exactParams (requestFrame code r) 0 = (r.params.isEmpty, Reply.range) := by
  rw [exactParams, requestFrame_params]
  cases r.params <;> rfl

/-- R73: the check of a command with a fixed number of parameter bytes. -/
theorem exactParams_request (code : Byte) (r : Request) (n : Nat) :
    exactParams (requestFrame code r) n = (decide (r.params.length = n), Reply.range) := rfl

/-- A last check that passes is no refusal (R72). -/
theorem firstRefusal_append_true (cs : List Check) (a : Reply) :
    firstRefusal (cs ++ [(true, a)]) = firstRefusal cs := by
  induction cs with
  | nil => rfl
  | cons c cs ih => rw [List.cons_append, firstRefusal, firstRefusal, ih]

/-- R72 for a command of every stage, not checked for the supply: its lifecycle and reserved field, then its
parameters and its state. -/
theorem State.gated_always_taken (s : State) (code : Byte) (r : Request) (only : Option Lifecycle)
    (params state : List Check) (act : State → State) :
    (s.taken code r).gated (requestFrame code r) only Cond.always true params state false act =
      (firstRefusal (lifecycleCheck s only ::
        (decide (r.reserved = 0), Reply.reservedField) :: (params ++ state))).elim
        (act (s.taken code r)) (s.answered code r) := by
  have passing_checks : firstRefusal ([lifecycleCheck s only,
        (Cond.always.holds s.stage, .detailed .stageDenied 0),
        (decide (r.reserved = 0) && true, Reply.reservedField)] ++ params ++ state ++
        [(!false || s.supply.normal, Reply.plain .supplyLow)]) =
      firstRefusal (lifecycleCheck s only ::
        (decide (r.reserved = 0), Reply.reservedField) :: (params ++ state)) := by
    rw [Bool.not_false, Bool.true_or, firstRefusal_append_true]
    simp only [Cond.always_holds, Bool.and_true, List.cons_append, List.nil_append, firstRefusal,
      if_true]
  rw [State.gated_taken, passing_checks]
  split
  · next hrefused => rw [hrefused, Option.elim_some]
  · next hpassed => rw [hpassed, Option.elim_none]

/-- R72 for a command of either lifecycle and every stage that only reports: it answers its first refusal,
else its report. -/
theorem State.gated_report (s : State) (code : Byte) (r : Request) (params state : List Check)
    (report : State → Reply) :
    (s.taken code r).gated (requestFrame code r) none Cond.always true params state false
        (fun t => t.endCommand (report t)) =
      s.answered code r ((firstRefusal ((decide (r.reserved = 0), Reply.reservedField) ::
        (params ++ state))).getD (report (s.taken code r))) := by
  rw [State.gated_always_taken, lifecycleCheck, firstRefusal_true, State.taken_endCommand]
  cases firstRefusal ((decide (r.reserved = 0), Reply.reservedField) :: (params ++ state)) <;> rfl

/-- The row of a service command whose frame is answered at once on a ready part (R66, R67). -/
theorem exec_answered {i : Instr} {code : Byte} {r : Request} {s : State} {a : Reply}
    (hrow : serviceRow i = some (code, r)) (hready : s.Ready) (hfits : r.fits = true)
    (hd : dispatch (requestFrame code r) (s.taken code r) = s.answered code r a) :
    exec i s = .next (s.answered code r a) := by
  rw [exec_service_row hrow]
  exact State.perform_service hready code r hfits hd (State.answered_quiet hready code r a)

/-- Two replies past the same checks agree when they agree where no check refuses. -/
theorem firstRefusal_getD_congr {cs : List Check} {a b : Reply}
    (h : (∀ c ∈ cs, c.1 = true) → a = b) :
    (firstRefusal cs).getD a = (firstRefusal cs).getD b := by
  cases hcs : firstRefusal cs with
  | none => exact h (firstRefusal_eq_none_iff.1 hcs)
  | some _ => rfl

/-! ### Little-endian numbers (R185) -/

/-- R185: a number's field has the asked number of bytes. -/
theorem leBytes_length (n v : Nat) : (leBytes n v).length = n := by simp [leBytes]

/-- R185: byte `i` of a number's field carries its digit of weight 256 to the `i`. -/
theorem byteAt_leBytes {n i : Nat} (v : Nat) (h : i < n) :
    byteAt (leBytes n v) i = BitVec.ofNat 8 (v / 256 ^ i) := by
  simp [byteAt, leBytes, h]

/-- No byte reads as 0. -/
@[simp] theorem leAt_zero (bs : List Byte) (i : Nat) : leAt bs i 0 = 0 := by simp [leAt, slice, fromLe]

/-- R185: the byte at the offset is the least significant; past the end of the string all read 0. -/
theorem leAt_succ (bs : List Byte) (i n : Nat) :
    leAt bs i (n + 1) = (byteAt bs i).toNat + 256 * leAt bs (i + 1) n := by
  unfold leAt slice byteAt
  by_cases h : i < bs.length
  · rw [List.drop_eq_getElem_cons h, List.take_succ_cons, fromLe, List.getD_eq_getElem _ _ h]
  · have past_end : bs.length ≤ i := Nat.le_of_not_lt h
    simp [List.drop_eq_nil_of_le, past_end, Nat.le_succ_of_le, fromLe]

/-- A byte as a one-byte field. -/
theorem u8_toNat (b : Byte) : u8 b.toNat = [b] := by simp [u8]

/-! ### IDENTIFY, CERT_READ and KEY_PUBLIC -/

/-- The key slot a request's first parameter names. -/
theorem keySlot_request {r : Request} {i : Fin 16} (code : Byte)
    (h : (byteAt r.params 0).toNat % 16 = i.val) : keySlot (requestFrame code r) 0 = i :=
  Fin.ext h

/-- R136: the report of a PRESENT key. -/
theorem KeyRec.payload_of_present {k : KeyRec} (i : Fin 16) (h : k.present = true) :
    k.payload i = u8 i.val ++ [1, keyKind i, keyRole i, k.cond.toByte] ++ flagByte k.gateRequired ++
      u8 k.label.length ++ k.label ++ k.pub := by
  simp [KeyRec.payload, h, flagByte]

/-- Settles O1: each report is the answer of a frame taken at once, and of KEY_PUBLIC's only a PRESENT key's
record gets past the checks. -/
theorem identifyCertReadAndKeyPublic : Obligations.IdentifyCertReadAndKeyPublic := by
  refine ⟨fun n v => ⟨leBytes_length n v, fun i => byteAt_leBytes v⟩, ?numbers, ?codes, ?identify,
    ?certRead, ?keyPublic⟩
  case numbers =>
    intro bs i
    simp only [leAt_succ, leAt_zero, Nat.add_assoc, Nat.reduceAdd]
    omega
  case codes =>
    refine ⟨fun n => ?_, by decide, by decide, by decide, by decide, by decide, by decide, by decide⟩
    rw [Stage.toByte, BitVec.toNat_ofNat]
    omega
  case identify =>
    intro s r hready hfits
    refine exec_answered rfl hready hfits ?_
    change cmdIdentify (requestFrame 0x01 r) (s.taken 0x01 r) = _
    rw [cmdIdentify, State.gated_report, exactParams_zero]
    simp only [State.identifyPayload, Geometry.bytes, State.life, State.fuseCount, List.append_assoc,
      List.append_nil]
    rfl
  case certRead =>
    intro s r hready hfits
    refine exec_answered rfl hready hfits ?_
    change cmdCertRead (requestFrame 0x05 r) (s.taken 0x05 r) = _
    rw [cmdCertRead, State.gated_report, exactParams_zero]
    rfl
  case keyPublic =>
    intro s r i hready hfits hi
    refine exec_answered rfl hready hfits ?_
    change cmdKeyPublic (requestFrame 0x06 r) (s.taken 0x06 r) = _
    obtain rfl := keySlot_request 0x06 hi
    rw [cmdKeyPublic, State.gated_report, exactParams_request]
    refine congrArg (s.answered 0x06 r) (firstRefusal_getD_congr fun passed => ?_)
    simp only [List.cons_append, List.nil_append, List.forall_mem_cons] at passed
    obtain ⟨_, _, _, present, _⟩ := passed
    exact congrArg Reply.ok (KeyRec.payload_of_present _ present)

/-! ### The capacity rule and the chain (R148 to R150) -/

/-- R149: the record takes the next index and its bytes extend the chain. -/
theorem MeasLog.push_eq (l : MeasLog) (k : LogKind) (st : Stage) (digest label : List Byte) :
    l.push k st digest label =
      ⟨l.records ++ [⟨l.records.length, k, st, digest, label⟩],
        sha256 (l.chain ++ [BitVec.ofNat 8 l.records.length, k.toByte, st.toByte,
          BitVec.ofNat 8 label.length] ++ digest ++ label)⟩ := by
  simp [MeasLog.push, chainNext, LogRec.bytes, u8]

/-- R150: the capacity rule as a choice on the number of records. -/
theorem MeasLog.append_eq (l : MeasLog) (k : LogKind) (st : Stage) (digest label : List Byte) :
    l.append k st digest label =
      if l.records.length < 63 then l.push k st digest label
      else if l.records.length = 63 then l.push .overflow st zeroDigest []
      else l := by
  unfold MeasLog.append MeasLog.outcome
  split_ifs <;> rfl

/-- R150: the requested record is the one appended exactly below 63 records. -/
theorem MeasLog.outcome_appended_iff (l : MeasLog) :
    l.outcome = .appended ↔ l.records.length < 63 := by
  unfold MeasLog.outcome
  split_ifs with below <;> simp [below]

/-- R150: the overflow flag of a log that is not empty is its last record's kind. -/
theorem MeasLog.overflow_eq_last (l : MeasLog) (h : l.records ≠ []) :
    l.overflow = decide ((l.records.getLast h).kind = .overflow) := by
  rw [MeasLog.overflow, List.getLast?_eq_some_getLast h]

/-- R150: OVERFLOW stands at index 63 alone, the last index of 64 records. -/
theorem LogWellFormed.overflow_iff {l : MeasLog} (h : LogWellFormed l) :
    l.overflow = true ↔ l.records.length = 64 := by
  obtain ⟨_, at_index, _⟩ := h
  by_cases empty : l.records = []
  · simp [MeasLog.overflow, empty]
  · have nonempty : 0 < l.records.length := List.length_pos_iff.2 empty
    have last := (at_index (l.records.length - 1) (by omega)).2
    rw [MeasLog.overflow_eq_last l empty, decide_eq_true_iff, List.getLast_eq_getElem, last]
    omega

/-- Settles O6: the rule's three ranges by `MeasLog.append_eq`, the record and the chain value of the two that
append by `MeasLog.push_eq`. -/
theorem logCapacityAndChain : Obligations.LogCapacityAndChain := by
  intro l k st digest label n
  refine ⟨?append, rfl, LogWellFormed.overflow_iff⟩
  rw [MeasLog.append_eq, MeasLog.push_eq, MeasLog.push_eq]
  split_ifs with below full
  · rfl
  · rw [full, List.append_nil]
    rfl
  · rfl

/-! ### LOG_READ -/

/-- A record that fits is returned, and what it leaves of the room is the next ones' (R156). -/
theorem takeFitting_cons_of_le {room : Nat} {r : LogRec} (rs : List LogRec)
    (h : r.bytes.length ≤ room) :
    takeFitting room (r :: rs) = r :: takeFitting (room - r.bytes.length) rs := if_pos h

/-- The first record that does not fit ends the report (R156). -/
theorem takeFitting_cons_of_lt {room : Nat} {r : LogRec} (rs : List LogRec)
    (h : room < r.bytes.length) : takeFitting room (r :: rs) = [] := if_neg (Nat.not_le_of_lt h)

/-- The records returned are the first ones (R156). -/
theorem takeFitting_prefix (room : Nat) (l : List LogRec) : takeFitting room l <+: l := by
  induction l generalizing room with
  | nil => exact List.prefix_refl []
  | cons r rs ih =>
    rcases Nat.lt_or_ge room r.bytes.length with too_long | fits
    · rw [takeFitting_cons_of_lt rs too_long]
      exact List.nil_prefix
    · rw [takeFitting_cons_of_le rs fits]
      exact List.prefix_cons_inj r |>.2 (ih _)

/-- The records returned fit in the room (R156). -/
theorem takeFitting_length_le (room : Nat) (l : List LogRec) :
    ((takeFitting room l).flatMap LogRec.bytes).length ≤ room := by
  induction l generalizing room with
  | nil => exact Nat.zero_le room
  | cons r rs ih =>
    rcases Nat.lt_or_ge room r.bytes.length with too_long | fits
    · rw [takeFitting_cons_of_lt rs too_long]
      exact Nat.zero_le room
    · rw [takeFitting_cons_of_le rs fits, List.flatMap_cons, List.length_append]
      have rest := ih (room - r.bytes.length)
      omega

/-- One record more than those returned does not fit (R156). -/
theorem lt_length_take_takeFitting_succ {room : Nat} {l : List LogRec}
    (h : (takeFitting room l).length < l.length) :
    room < ((l.take ((takeFitting room l).length + 1)).flatMap LogRec.bytes).length := by
  induction l generalizing room with
  | nil => simp at h
  | cons r rs ih =>
    rcases Nat.lt_or_ge room r.bytes.length with too_long | fits
    · rw [takeFitting_cons_of_lt rs too_long]
      simpa using too_long
    · rw [takeFitting_cons_of_le rs fits, List.length_cons, List.length_cons] at h
      rw [takeFitting_cons_of_le rs fits, List.length_cons, List.take_succ_cons, List.flatMap_cons,
        List.length_append]
      have rest := ih (Nat.lt_of_succ_lt_succ h)
      omega

/-- The payload, its records as the first ones from the start index on (R156). -/
theorem MeasLog.payload_eq (l : MeasLog) (start : Byte) :
    let k := (takeFitting 1996 (l.records.drop start.toNat)).length
    l.payload start.toNat = u8 l.records.length ++ flagByte l.overflow ++ [start] ++ u8 k ++ l.chain ++
      ((l.records.drop start.toNat).take k).flatMap LogRec.bytes := by
  intro k
  have returned : takeFitting logRoom (l.records.drop start.toNat) =
      (l.records.drop start.toNat).take k :=
    List.prefix_iff_eq_take.1 (takeFitting_prefix 1996 _)
  have returned_length : ((l.records.drop start.toNat).take k).length = k := by
    rw [← returned]
    rfl
  simp only [MeasLog.payload, returned, returned_length, u8_toNat]

/-- Settles O3: the number of records returned is the one at which the report of R156 stops. -/
theorem logReadReturnsWholeRecords : Obligations.LogReadReturnsWholeRecords := by
  refine ⟨?bytes, ?read⟩
  case bytes =>
    rintro ⟨index, kind, stage, digest, label⟩
    cases kind <;> rfl
  case read =>
    intro s r hready hfits
    refine ⟨(takeFitting 1996 (s.log.records.drop (byteAt r.params 0).toNat)).length, ?_, ?_⟩
    · intro start hparams
      have hstart : byteAt r.params 0 = start := by rw [hparams]; rfl
      have is_prefix := takeFitting_prefix 1996 (s.log.records.drop start.toNat)
      rw [hstart, ← List.prefix_iff_eq_take.1 is_prefix]
      exact ⟨takeFitting_length_le _ _, lt_length_take_takeFitting_succ, is_prefix.length_le⟩
    · refine exec_answered rfl hready hfits ?_
      change cmdLogRead (requestFrame 0x04 r) (s.taken 0x04 r) = _
      rw [cmdLogRead, State.gated_report, exactParams_request, requestFrame_p, State.taken_log,
        MeasLog.payload_eq]
      rfl

/-! ### MEASURE_EXTEND -/

/-- DEPLOYED is a bit of the LIFECYCLE row burned (R117). -/
theorem State.life_deployed_iff (s : State) : s.life = .deployed ↔ s.fuses.image.lifecycle ≠ 0 := by
  rw [Ne, ← State.life_factory_iff]
  cases s.life <;> simp

/-- The lifecycle step of a command limited to DEPLOYED (R72). -/
theorem lifecycleCheck_deployed (s : State) :
    lifecycleCheck s (some .deployed) =
      (decide (s.fuses.image.lifecycle ≠ 0), .plain .lifecycleDenied) := by
  rw [lifecycleCheck, decide_eq_decide.2 s.life_deployed_iff]

/-- The checks of R72 that MEASURE_EXTEND can fail, in their order: lifecycle, reserved field, the label's
length and the digest and label as its only parameters, room in the log. -/
def State.extendChecks (s : State) (r : Request) : List Check :=
  let k := (byteAt r.params 32).toNat
  [(decide (s.fuses.image.lifecycle ≠ 0), .plain .lifecycleDenied),
    (decide (r.reserved = 0), Reply.reservedField),
    (decide (k ≤ 32 ∧ r.params.length = 33 + k), Reply.range),
    (decide (s.log.records.length < 64), .plain .full)]

/-- MEASURE_EXTEND's frame as it is taken: the first refusal answers, else the record is made (R155). -/
theorem cmdMeasureExtend_taken (s : State) (r : Request) :
    cmdMeasureExtend (requestFrame 0x11 r) (s.taken 0x11 r) =
      (firstRefusal (s.extendChecks r)).elim
        ((s.taken 0x11 r).measureExtend (r.params.take 32)
          ((r.params.drop 33).take (byteAt r.params 32).toNat))
        (s.answered 0x11 r) := by
  rw [cmdMeasureExtend, State.gated_always_taken, lifecycleCheck_deployed, State.extendChecks,
    Bool.decide_and]
  rfl

/-- R155: an accepted MEASURE_EXTEND answers with the index and the chain value of the record made. -/
theorem State.measureExtend_taken (s : State) (r : Request) (digest label : List Byte) :
    let log := s.log.append .external s.stage digest label
    (s.taken 0x11 r).measureExtend digest label =
      State.answered { s with log := log } 0x11 r
        ⟨if s.log.records.length < 63 then .ok else .full, 0,
          [BitVec.ofNat 8 s.log.records.length] ++ log.chain, false⟩ := by
  intro log
  simp only [State.measureExtend, State.taken_log, MeasLog.outcome_appended_iff]
  rfl

/-- Settles O8: the first refusal answers, else the record made. -/
theorem measureExtendAppends : Obligations.MeasureExtendAppends := by
  intro s r hready hfits k log
  rw [exec_service_row (i := .measureExtend r) rfl]
  change _ = Host.Outcome.next (match firstRefusal (s.extendChecks r) with
    | some refusal => s.answered 0x11 r refusal
    | none => State.answered { s with log := log } 0x11 r
        ⟨if s.log.records.length < 63 then .ok else .full, 0,
          [BitVec.ofNat 8 s.log.records.length] ++ log.chain, false⟩)
  have taken := cmdMeasureExtend_taken s r
  cases hchecks : firstRefusal (s.extendChecks r) with
  | some refusal =>
    rw [hchecks] at taken
    exact State.perform_service hready 0x11 r hfits taken (State.answered_quiet hready 0x11 r refusal)
  | none =>
    have made := State.measureExtend_taken s r (r.params.take 32) ((r.params.drop 33).take k)
    have ready_after : State.Ready { s with log := log } := hready
    rw [hchecks] at taken
    exact State.perform_service hready 0x11 r hfits (taken.trans made)
      (State.answered_quiet ready_after 0x11 r _)

end Sys2Proof.Machine
end

