-- ==== Sys2Proof/Proofs/CredCheck.lean ====
section
/-! CRED_CHECK as its frame is taken: its gating (R165) and the increment of f that an accepted attempt asks
for before anything is compared (R166). -/

namespace Sys2Proof.Machine

/-! ### Gated commands that are refused or started -/

/-- A check's reply counts only where the check fails (R72). -/
theorem firstRefusal_congr_reply {ok : Bool} {a b : Reply} (before after : List Check)
    (h : ok = false → a = b) :
    firstRefusal (before ++ (ok, a) :: after) = firstRefusal (before ++ (ok, b) :: after) := by
  induction before with
  | nil =>
    cases ok with
    | true => rfl
    | false => rw [h rfl]
  | cons c before ih => rw [List.cons_append, List.cons_append, firstRefusal, firstRefusal, ih]

/-- R72 for a command of either lifecycle that is checked for its stage and the supply and has no reserved
parameter field. -/
theorem State.gated_supplied_taken (s : State) (code : Byte) (r : Request) (cond : Cond)
    (params state : List Check) (act : State → State) :
    (s.taken code r).gated (requestFrame code r) none cond true params state true act =
      (firstRefusal ((cond.holds s.stage, .detailed .stageDenied 0) ::
        (decide (r.reserved = 0), Reply.reservedField) ::
        (params ++ (state ++ [(s.supply.normal, .plain .supplyLow)])))).elim
        (act (s.taken code r)) (s.answered code r) := by
  simp only [State.gated_taken, lifecycleCheck, Bool.and_true, Bool.not_true, Bool.false_or,
    List.cons_append, List.nil_append, List.append_assoc, firstRefusal_true]
  split
  · next hrefused => rw [hrefused, Option.elim_some]
  · next hpassed => rw [hpassed, Option.elim_none]

/-- The row of a service command that a ready part either refuses or starts (R66, R67, R68). -/
theorem exec_answered_or_started {i : Instr} {code : Byte} {r : Request} {s t : State} {w : CmdWork}
    {refusal : Option Reply} (hrow : serviceRow i = some (code, r)) (hready : s.Ready)
    (hfits : r.fits = true)
    (hd : dispatch (requestFrame code r) (s.taken code r) =
      refusal.elim (t.started code r w) (s.answered code r)) :
    exec i s = .next (refusal.elim (t.started code r w) (s.answered code r)) := by
  cases refusal with
  | some a => exact exec_answered hrow hready hfits hd
  | none =>
    rw [exec_service_row hrow]
    exact State.perform_service hready code r hfits hd (State.started_quiet t code r w)

/-! ### The credential a request names -/

/-- The credential a request's first parameter names. -/
theorem credId_request {r : Request} {id : Fin 24} (code : Byte)
    (h : (byteAt r.params 0).toNat % 24 = id.val) : credId (requestFrame code r) = id :=
  Fin.ext h

/-- R161: a record is SET unless it is EMPTY. -/
theorem Cred.isSet_eq (c : Cred) : c.isSet = decide (c ≠ .empty) := by
  cases c <;> simp [Cred.isSet]

/-- CRED_CHECK's check of the record's kind: no SECRET, and EMPTY is left to the next check (R165). -/
def Cred.checkable : Cred → Bool
  | .secret _ _ _ _ => false
  | .verifier _ _ _ => true
  | .empty => true

/-- The kind check as the model makes it. -/
theorem Cred.checkable_eq (c : Cred) : c.checkable = !c.isSecret := by
  cases c <;> rfl

/-! ### The penalty -/

/-- A running channel has its count left (R16). -/
theorem Channel.remaining_of_running {c : Channel} (h : c.state = .running) : c.remaining = c.count :=
  if_pos h

/-- R165: THROTTLED answers only while PENALTY runs, and then the remaining count is the channel's. -/
theorem throttled_reply {c : Channel} (h : decide (c.state ≠ .running) = false) :
    (⟨.throttled, 0, u16 c.remaining, false⟩ : Reply) = ⟨.throttled, 0, leBytes 2 c.count, false⟩ := by
  have running : c.state = .running := by simpa using h
  rw [Channel.remaining_of_running running]
  rfl

/-! ### The gating and the first act -/

/-- The checks of R72 that CRED_CHECK can fail, in the order of R165: stage, reserved field, id, candidate
length and its bytes, the record's kind, EMPTY, f = 20, PENALTY running, supply. -/
def State.credCheckChecks (s : State) (r : Request) (id : Fin 24) : List Check :=
  let p := fun k => (byteAt r.params k).toNat
  let c := s.cred.creds[id]
  [(Cond.atOrAbove2.holds s.stage, .detailed .stageDenied 0),
    (decide (r.reserved = 0), Reply.reservedField), (decide (p 0 ≤ 23), Reply.range),
    (decide (1 ≤ p 1 ∧ p 1 ≤ 64), Reply.range), (decide (r.params.length = 2 + p 1), Reply.range),
    (c.checkable, Reply.range), (decide (c ≠ .empty), .plain .emptyItem),
    (decide (s.cred.failCount < 20), .plain .locked),
    (decide (s.timers.penalty.state ≠ .running),
      ⟨.throttled, 0, leBytes 2 s.timers.penalty.count, false⟩),
    (s.supply.normal, .plain .supplyLow)]

/-- CRED_CHECK's frame as it is taken: the first refusal answers, else the increment of f is asked for and
the command waits for it with the candidate it has yet to compare (R165, R166). -/
theorem cmdCredCheck_taken {s : State} {r : Request} {id : Fin 24}
    (hid : (byteAt r.params 0).toNat % 24 = id.val) :
    cmdCredCheck (requestFrame 0x40 r) (s.taken 0x40 r) =
      (firstRefusal (s.credCheckChecks r id)).elim
        ((s.asks .counters .command .credIncrement).started 0x40 r
          (.credIncrement id (r.params.drop 2)))
        (s.answered 0x40 r) := by
  obtain rfl := credId_request 0x40 hid
  rw [cmdCredCheck, State.gated_supplied_taken]
  refine congrArg (fun refusal => Option.elim refusal _ _) ?_
  rw [State.credCheckChecks, Bool.decide_and, Cred.checkable_eq, ← Cred.isSet_eq]
  exact firstRefusal_congr_reply [_, _, _, _, _, _, _, _] [_] throttled_reply

/-- Settles O20: the first refusal answers, else the increment is asked for. -/
theorem credCheckCountsFirst : Obligations.CredCheckCountsFirst := by
  intro s r id hready hfits hid p c
  rw [exec_answered_or_started (i := .credCheck r) (code := 0x40) rfl hready hfits
    (cmdCredCheck_taken hid)]
  change _ = Host.Outcome.next (match firstRefusal (s.credCheckChecks r id) with
    | some refusal => s.answered 0x40 r refusal
    | none => (s.asks .counters .command .credIncrement).started 0x40 r
        (.credIncrement id (r.params.drop 2)))
  cases firstRefusal (s.credCheckChecks r id) <;> rfl

end Sys2Proof.Machine
end

/-! The Event Unit's commands: EVENTS_READ (R182), EVENTS_ACK (R183) and EVENTS_ENABLE (R180), the last two
carrying one cause set and answering at once. -/

namespace Sys2Proof.Machine

/-! ### Gated commands that are refused or done at once -/

/-- The row of a service command that a ready part either refuses or does at once, ending in a state `t` that
is as ready (R66, R67). -/
theorem exec_answered_or_done {i : Instr} {code : Byte} {r : Request} {s t : State} {a : Reply}
    {refusal : Option Reply} (hrow : serviceRow i = some (code, r)) (hready : s.Ready)
    (hdone : t.Ready) (hfits : r.fits = true)
    (hd : dispatch (requestFrame code r) (s.taken code r) =
      refusal.elim (t.answered code r a) (s.answered code r)) :
    exec i s = .next (refusal.elim (t.answered code r a) (s.answered code r)) := by
  cases refusal with
  | some refused => exact exec_answered hrow hready hfits hd
  | none =>
    rw [exec_service_row hrow]
    exact State.perform_service hready code r hfits hd (State.answered_quiet hdone code r a)

/-! ### The commands that carry a cause set -/

/-- The checks of R72 that a command with one cause set can fail: reserved field, two parameter bytes. -/
def causeSetChecks (r : Request) : List Check :=
  [(decide (r.reserved = 0), Reply.reservedField), (decide (r.params.length = 2), Reply.range)]

/-- Replacing the Event Unit leaves a ready part ready. -/
theorem State.Ready.with_events {s : State} (h : s.Ready) (e : EventUnit) :
    State.Ready { s with events := e } := h

/-- A taken frame that replaces the Event Unit and ends: its own SERVICE_DONE is pending over what it put
there (R67). -/
theorem State.taken_with_events_endCommand (s : State) (code : Byte) (r : Request) (e : EventUnit)
    (a : Reply) :
    State.endCommand { s.taken code r with events := e } a =
      State.answered { s with events := e } code r a := rfl

/-- The row of a service command that carries one cause set and changes nothing but the Event Unit: the first
refusal answers, else the new Event Unit and the reply about it. -/
theorem exec_causeSet_command {i : Instr} {code : Byte} {r : Request} {s : State}
    (change : EventUnit → EventUnit) (reply : EventUnit → Reply)
    (hrow : serviceRow i = some (code, r)) (hready : s.Ready) (hfits : r.fits = true)
    (hd : dispatch (requestFrame code r) (s.taken code r) =
      (s.taken code r).gated (requestFrame code r) none Cond.always true
        [exactParams (requestFrame code r) 2] [] false fun t =>
          State.endCommand { t with events := change t.events } (reply (change t.events))) :
    exec i s = .next ((firstRefusal (causeSetChecks r)).elim
      (State.answered { s with events := change s.events } code r (reply (change s.events)))
      (s.answered code r)) := by
  refine exec_answered_or_done hrow hready (hready.with_events _) hfits ?_
  rw [hd, State.gated_always_taken, State.taken_events, State.taken_with_events_endCommand,
    lifecycleCheck, firstRefusal_true, exactParams_request]
  rfl

/-- EVENTS_ACK as a command with a cause set (R183). -/
theorem exec_eventsAck {s : State} {r : Request} (hready : s.Ready) (hfits : r.fits = true) :
    let e := s.events.ack (causeSet (leAt r.params 0 2))
    exec (.eventsAck r) s = .next ((firstRefusal (causeSetChecks r)).elim
      (State.answered { s with events := e } 0x50 r (.ok (u16 e.pending.toNat)))
      (s.answered 0x50 r)) :=
  exec_causeSet_command (fun e => e.ack (causeSet (leAt r.params 0 2)))
    (fun e => .ok (u16 e.pending.toNat)) rfl hready hfits rfl

/-- EVENTS_ENABLE as a command with a cause set (R180). -/
theorem exec_eventsEnable {s : State} {r : Request} (hready : s.Ready) (hfits : r.fits = true) :
    let set := causeSet (leAt r.params 0 2)
    exec (.eventsEnable r) s = .next ((firstRefusal (causeSetChecks r)).elim
      (State.answered { s with events := { s.events with enabled := set } } 0x51 r
        (.ok (u16 set.toNat)))
      (s.answered 0x51 r)) :=
  exec_causeSet_command (fun e => { e with enabled := causeSet (leAt r.params 0 2) })
    (fun e => .ok (u16 e.enabled.toNat)) rfl hready hfits rfl

/-- EVENTS_READ's report is of the Event Unit as the frame found it: the report is made on the taken frame,
before the command's own SERVICE_DONE (R182). -/
theorem exec_eventsRead {s : State} {r : Request} (hready : s.Ready) (hfits : r.fits = true) :
    exec (.eventsRead r) s = .next (s.answered 0x08 r ((firstRefusal
      [(decide (r.reserved = 0), Reply.reservedField), (r.params.isEmpty, Reply.range)]).getD
      (.ok s.eventsPayload))) := by
  refine exec_answered rfl hready hfits ?_
  change cmdEventsRead (requestFrame 0x08 r) (s.taken 0x08 r) = _
  rw [cmdEventsRead, State.gated_report, exactParams_zero]
  rfl

/-- Settles O5: the codes of Table 12-2 by their definitions, the report by `exec_eventsRead`, and the two
commands with a cause set by whether a check refuses. -/
theorem eventsCommands : Obligations.EventsCommands := by
  refine ⟨?codes, ?read, ?ack, ?enable⟩
  case codes => exact ⟨rfl, fun _ => ⟨rfl, rfl⟩, rfl⟩
  case read =>
    intro s r hready hfits
    exact exec_eventsRead hready hfits
  case ack =>
    intro s r hready hfits mask
    rw [exec_eventsAck hready hfits, causeSetChecks]
    cases firstRefusal [(decide (r.reserved = 0), Reply.reservedField),
      (decide (r.params.length = 2), Reply.range)] <;> rfl
  case enable =>
    intro s r hready hfits set
    rw [exec_eventsEnable hready hfits, causeSetChecks]
    cases firstRefusal [(decide (r.reserved = 0), Reply.reservedField),
      (decide (r.params.length = 2), Reply.range)] <;> rfl

end Sys2Proof.Machine

/-! What a step can do to the log, the Record Store, f, the gate, the violation list, the Region Table, its
snapshots and the fuses: each command's effect on them is a sequence of a few moves, said once for every
command, so that an invariant of them needs one look at each move (R50, R52, R116, R124, R148, R164, R181). -/

namespace Sys2Proof.Machine

-- One proof at a time: together they would start more threads than the check's memory limit has room for.
set_option Elab.async false

/-! ### The moves -/

/-- The fields that the moves are about. -/
structure Tracked where
  log : MeasLog
  records : RecordStore
  fails : Nat
  gateOpen : Bool
  violations : List ViolationRec
  total : Nat
  table : RegionTable
  arrived : Option Arrived
  reads : List OpenRead
  image : FuseRows
  array : FuseRows
  powered : Bool

/-- What a state holds in those fields. -/
def State.tracked (s : State) : Tracked where
  log := s.log
  records := s.records
  fails := s.cred.failCount
  gateOpen := s.cred.gateOpen
  violations := s.events.violations
  total := s.events.total
  table := s.filter.table
  arrived := s.up.arrived
  reads := s.up.reads
  image := s.fuses.image
  array := s.fuses.array
  powered := s.powered

/-- The Region Tables that decide transactions: the current one and those of the snapshots kept (R50). -/
def State.tables (s : State) : List RegionTable :=
  s.filter.table :: (s.up.arrived.toList.map (·.snap.table) ++ s.up.reads.map (·.snap.table))

/-- What a loss of power has left, once the supply is applied and before a slot below the floor fails (R76,
R116, R123). -/
def State.sensedUp (s : State) (sensed : List FuseBit) (resetIn : Bool) : State :=
  let t := s.records.store
  let fuses := s.fuses.sense sensed
  { State.reset with
    pending := s.pending
    draws := s.draws
    out := s.out
    fuses := fuses
    records := ⟨t, [], none⟩
    resetIn := resetIn
    config := t.config
    cert := t.cert
    keys := Vector.ofFn fun i => (t.keys[i]).getD (KeyRec.empty i)
    cred := CredStore.loaded t
    slots := SlotTable.loaded t
    supply := Supply.loaded t fuses.image
    presence := { State.reset.presence with
      holdTime := (t.config.getD ConfigRec.default).holdTime } }

/-- One move. `mayOpen` says whether the owner gate may open. -/
inductive Move (mayOpen : Prop) : State → State → Prop
  | still {s t : State} (h : t.tracked = s.tracked) : Move mayOpen s t
  | logs (s : State) (k : LogKind) (st : Stage) (digest label : List Byte) (h : k ≠ .overflow := by decide) :
      Move mayOpen s (s.logAppend k st digest label)
  | violates (s : State) (v : Violation) : Move mayOpen s (s.violate v)
  | acks (s : State) (mask : BitVec 11) : Move mayOpen s { s with events := s.events.ack mask }
  | requests (s : State) (rec : RecordId) (who : Who) (c : Change) :
      Move mayOpen s (s.request rec who c)
  | withdraws (s : State) : Move mayOpen s s.withdrawCommand
  | counts (s : State) {n : Nat} (h : n ≤ 20) : Move mayOpen s (s.setFails n)
  | dequeues {s : State} {e : Entry} {rest : List Entry} (h : s.records.waiting = e :: rest) :
      Move mayOpen s { s with records := { s.records with waiting := rest } }
  | writes (s : State) (rec : RecordId) (rs : List Requester) :
      Move mayOpen s
        { s with records := { s.records with writing := some ⟨rec, rs, s.content rec rs⟩ } }
  | stores {s : State} {w : Writing} (h : s.records.writing = some w) :
      Move mayOpen s { s with records := { s.records with
        store := s.records.store.put w.record w.content, writing := none } }
  | loads {s : State} {f : PathFilter} (h : TableWithin s.filter.table → TableWithin f.table) :
      Move mayOpen s { s with filter := f }
  | ports {s : State} {u : Upstream} (h : ∀ t ∈ State.tables { s with up := u }, t ∈ s.tables) :
      Move mayOpen s { s with up := u }
  | burns {s : State} {f : FuseArray} {b : FuseBit} (hi : f.image = s.fuses.image.set b)
      (ha : f.array = s.fuses.array.set b) : Move mayOpen s { s with fuses := f }
  | shuts (s : State) : Move mayOpen s s.shutGate
  | opens (s : State) (h : mayOpen) : Move mayOpen s s.openGate
  | restarts (s : State) (why : BootReason) : Move mayOpen s (s.startFlow why)
  | losesPower (s : State) : Move mayOpen s s.losePower
  | sensesUp (s : State) (sensed : List FuseBit) (r : Bool) : Move mayOpen s (s.sensedUp sensed r)

/-- Moves one after another. -/
abbrev Moves (mayOpen : Prop) : State → State → Prop := Relation.ReflTransGen (Move mayOpen)

theorem Moves.refl {p : Prop} (s : State) : Moves p s s := Relation.ReflTransGen.refl

theorem Move.moves {p : Prop} {s t : State} (h : Move p s t) : Moves p s t := Relation.ReflTransGen.single h

/-- An operation that leaves the fields alone. -/
theorem Moves.still {p : Prop} {s t : State} (h : t.tracked = s.tracked) : Moves p s t := (Move.still h).moves

/-- An operation behind another. -/
theorem Moves.also {p : Prop} {s t u : State} (h : Moves p s t) (k : Moves p t u) : Moves p s u :=
  Relation.ReflTransGen.trans h k

/-- The same where the first leaves the fields as the second finds them. -/
theorem Moves.next {p : Prop} {s a b t : State} (h : Moves p s a) (k : Moves p b t)
    (e : b.tracked = a.tracked := by rfl) : Moves p s t :=
  h.also ((Moves.still e).also k)

/-- Moves, then an operation that leaves the fields alone. -/
theorem Moves.upto {p : Prop} {s a t : State} (h : Moves p s a) (e : t.tracked = a.tracked := by rfl) :
    Moves p s t := h.also (.still e)

/-- An operation that leaves the fields alone, then moves. -/
theorem Moves.after {p : Prop} {s b t : State} (h : Moves p b t) (e : b.tracked = s.tracked := by rfl) :
    Moves p s t := (Moves.still e).also h

/-- Where the gate may open under one condition it may under a weaker one. -/
theorem Move.mono {p q : Prop} (h : p → q) {s t : State} (m : Move p s t) : Move q s t := by
  cases m with
  | still e => exact .still e
  | logs k st digest label hk => exact .logs _ k st digest label hk
  | violates v => exact .violates _ v
  | acks mask => exact .acks _ mask
  | requests rec who c => exact .requests _ rec who c
  | withdraws => exact .withdraws _
  | counts hn => exact .counts _ hn
  | dequeues hw => exact .dequeues hw
  | writes rec rs => exact .writes _ rec rs
  | stores hw => exact .stores hw
  | loads ht => exact .loads ht
  | ports ht => exact .ports ht
  | burns hi ha => exact .burns hi ha
  | shuts => exact .shuts _
  | opens hp => exact .opens _ (h hp)
  | restarts why => exact .restarts _ why
  | losesPower => exact .losesPower _
  | sensesUp sensed r => exact .sensesUp _ sensed r

/-- The same of a sequence. -/
theorem Moves.mono {p q : Prop} (h : p → q) {s t : State} (k : Moves p s t) : Moves q s t := by
  induction k with
  | refl => exact .refl _
  | tail _ m ih => exact ih.tail (m.mono h)

/-- What every move keeps, a sequence of them keeps. -/
theorem Moves.keep {p : Prop} {P : State → Prop} (hP : ∀ {s t : State}, Move p s t → P s → P t) {s t : State}
    (h : Moves p s t) (hs : P s) : P t := by
  induction h with
  | refl => exact hs
  | tail _ hm ih => exact hP hm ih

/-! ### The engine and its jobs -/

section
variable {p : Prop}

/-- The command in progress ends (R67). -/
theorem endCommand_moves (s : State) (a : Reply) : Moves p s (s.endCommand a) := .still rfl

/-- The gate closes (R163). -/
theorem closeGate_moves (s : State) : Moves p s s.closeGate := by
  unfold State.closeGate
  split
  · exact (Move.shuts s).moves.upto
  · exact (Move.shuts s).moves

/-- Several writes asked for (R135, R176). -/
theorem requestAll_moves (who : Who) (ws : List (RecordId × Change)) (s : State) :
    Moves p s (s.requestAll who ws) := by
  induction ws generalizing s with
  | nil => exact .refl s
  | cons w ws ih => exact (Move.requests s w.1 who w.2).moves.also (ih _)

/-- A slot's change and its write's request (R79). -/
theorem changeSlot_moves (s : State) (x : SlotId) (r : SlotRec) : Moves p s (s.changeSlot x r) :=
  (Move.requests (s.setSlot x r) (.slot x) .block .asIs).moves.after

/-- The same with the command told (R109, R146). -/
theorem changeSlotTold_moves (s : State) (x : SlotId) (r : SlotRec) : Moves p s (s.changeSlotTold x r) :=
  (changeSlot_moves s x r).also (Move.requests _ _ _ _).moves

/-- The owner reset's end (R154, R176). -/
theorem ownerResetEnd_moves (s : State) : Moves p s s.ownerResetEnd :=
  (Move.logs s .ownerReset s.stage zeroDigest []).moves.upto

/-- The wipe goes on (R176). -/
theorem wipeNext_moves (s : State) (l : List RecordId) : Moves p s (s.wipeNext l) := by
  cases l with
  | cons r rs => exact .still rfl
  | nil =>
    change Moves p s s.wipeCounters
    unfold State.wipeCounters
    split
    · exact (Move.requests s .counters .job .ownerReset).moves.upto
    · exact ownerResetEnd_moves s

/-- OWNER_RESET's start (R176). -/
theorem startOwnerReset_moves (s : State) : Moves p s s.startOwnerReset := by
  have closed : Moves p s
      (State.closeGate { s with engine := { s.engine with ownerResetPending := false } }) :=
    (closeGate_moves _).after
  exact closed.next ((requestAll_moves .job _ _).also (wipeNext_moves _ _))

/-- A bit burn asked for burns nothing yet (R119). -/
theorem requestBurn_tracked (s : State) (b : FuseBit) (o : BurnOwner) :
    (s.requestBurn b o).1.tracked = s.tracked := by
  unfold State.requestBurn State.takeBurn
  (repeat' split) <;> rfl

/-- The burns that go on burn nothing yet (R111, R114). -/
theorem goOnBurns_tracked (s : State) (o : BurnOwner) (q : BurnSeq) :
    (s.goOnBurns o q).1.tracked = s.tracked := by
  unfold State.goOnBurns
  split
  · rfl
  · split
    · exact requestBurn_tracked s _ o
    · rfl

/-- A bit of the burns has ended (R111, R114). -/
theorem afterBurn_tracked (s : State) (o : BurnOwner) (q : BurnSeq) (row : FuseRow) (r : BurnOutcome) :
    (s.afterBurn o q row r).1.tracked = s.tracked := by
  cases r with
  | burned => exact goOnBurns_tracked s o q
  | failed => exact goOnBurns_tracked s o _
  | supplyStop => rfl

/-- FUSE_FAULT (R111). -/
theorem faultIf_tracked (s : State) (q : BurnSeq) : (s.faultIf q).tracked = s.tracked := by
  unfold State.faultIf
  split <;> rfl

/-- UPDATE_CONFIRM after its burns (R111). -/
theorem onCommandBurns_tracked (r : State × BurnStatus) :
    (State.onCommandBurns r).tracked = r.1.tracked := by
  rcases r with ⟨s, q | q | q⟩ <;> exact faultIf_tracked s q

/-- FLOOR_BURN after its burns (R114). -/
theorem onJobBurns_tracked (r : State × BurnStatus) : (State.onJobBurns r).tracked = r.1.tracked := by
  rcases r with ⟨s, q | q | q⟩
  · exact faultIf_tracked s q
  · exact faultIf_tracked s q
  · simp only [State.onJobBurns]
    split <;> rfl

/-- FLOOR_BURN's start (R114). -/
theorem startFloorBurn_moves (s : State) : Moves p s s.startFloorBurn :=
  .still ((onJobBurns_tracked _).trans (goOnBurns_tracked _ _ _))

/-! ### The commands -/

/-- What gating can do, with what has passed where the command acts (R72). -/
theorem State.gated_acts (s : State) (f : Frame) (only : Option Lifecycle) (cond : Cond)
    (ok : Bool) (params state : List Check) (supply : Bool) (act : State → State) :
    (∃ a, s.gated f only cond ok params state supply act = s.endCommand a) ∨
      (s.gated f only cond ok params state supply act = act s ∧
        ∀ c ∈ params ++ state, c.1 = true) := by
  unfold State.gated
  rw [firstFailing_eq]
  split
  · exact .inl ⟨_, rfl⟩
  · next h =>
    refine .inr ⟨rfl, fun c hc => firstRefusal_eq_none_iff.1 h c ?_⟩
    rcases List.mem_append.1 hc with hc | hc <;> simp [hc]

/-- A gated command moves as its act does (R72). -/
theorem gated_moves {s : State} {f : Frame} {only : Option Lifecycle} {cond : Cond} {ok : Bool}
    {params state : List Check} {supply : Bool} {act : State → State}
    (h : (∀ c ∈ params ++ state, c.1 = true) → Moves p s (act s)) :
    Moves p s (s.gated f only cond ok params state supply act) := by
  rcases s.gated_acts f only cond ok params state supply act with ⟨a, e⟩ | ⟨e, hc⟩
  · exact e ▸ endCommand_moves s a
  · exact e ▸ h hc

/-- A report (R98, R136, R156). -/
theorem gated_still {s : State} {f : Frame} {only : Option Lifecycle} {cond : Cond} {ok : Bool}
    {params state : List Check} {supply : Bool} {act : State → State} (h : (act s).tracked = s.tracked) :
    Moves p s (s.gated f only cond ok params state supply act) := gated_moves fun _ => .still h

/-- STAGE_ADVANCE (R4). -/
theorem advanceStage_moves (s : State) (n : Nat) : Moves p s (s.advanceStage n) :=
  ((closeGate_moves { s with stage := .num (Fin.ofNat 8 n) }).after.also
    (Move.logs _ .stage (.num (Fin.ofNat 8 n)) zeroDigest []).moves).upto

/-- Form (a) keeps the table within what was loaded: the new condition is no wider than the one it replaces
(R52, R54). -/
theorem RegionTable.tighten_within {t : RegionTable} {target : Nat} {a : Access} {c : Cond}
    (hw : ∀ held, t.target target a = some held → CondWithin c held) (h : TableWithin t) :
    TableWithin (t.tighten target a c) := by
  obtain ⟨he, hd, hl⟩ := h
  unfold RegionTable.tighten
  split
  · next h32 =>
    refine ⟨he, fun d hdd => ?_, hl⟩
    obtain ⟨d0, hd0, rfl⟩ := Option.mem_map.1 hdd
    have within : CondWithin c (d0.cond a) := hw _ (by
      rw [RegionTable.target, if_pos h32, Option.mem_def.1 hd0]
      rfl)
    obtain ⟨hr, hwr⟩ := hd d0 hd0
    cases a with
    | read => exact ⟨fun st hc => hr st (within st hc), hwr⟩
    | write => exact ⟨hr, fun st hc => hwr st (within st hc)⟩
  · next h32 =>
    refine ⟨fun e hem => ?_, hd, hl⟩
    obtain ⟨i, hi, rfl⟩ := List.mem_iff_getElem.1 hem
    have hi0 : i < t.entries.length := by simpa using hi
    rw [List.getElem_modify]
    obtain ⟨hr, hwr⟩ := he _ (List.getElem_mem hi0)
    split
    · next hti =>
      subst hti
      have within : CondWithin c ((t.entries[target]).cond a) := hw _ (by
        rw [RegionTable.target, if_neg h32, List.getElem?_eq_getElem hi0]
        rfl)
      cases a with
      | read => exact ⟨fun st hc => hr st (within st hc), hwr⟩
      | write => exact ⟨hr, fun st hc => hwr st (within st hc)⟩
    · exact ⟨hr, hwr⟩

/-- POLICY_TIGHTEN's form (a) (R54). -/
theorem cmdTightenA_moves (f : Frame) (s : State) : Moves p s (cmdTightenA f s) := by
  unfold cmdTightenA
  refine gated_moves fun passed => Moves.upto (a := s.setTable (s.filter.table.tighten (f.p 1)
    ((accessOf (f.p 2)).getD .read) (Cond.ofByte (byteAt f.params 3)))) (Move.loads fun h => ?_).moves
  simp only [List.append_nil, List.forall_mem_cons] at passed
  obtain ⟨_, _, _, _, narrower, _⟩ := passed
  refine RegionTable.tighten_within (fun held hheld => ?_) h
  rw [hheld] at narrower
  exact (Cond.noWider_iff _ _).1 narrower

/-- A tightening entry more keeps the table within what was loaded while fewer than four are held (R52,
R55). -/
theorem TableWithin.add_tight {t : RegionTable} (h : TableWithin t) (r : Region) (hl : t.tight.length < 4) :
    TableWithin { t with tight := t.tight ++ [r] } := by
  obtain ⟨he, hd, _⟩ := h
  exact ⟨he, hd, by simpa using hl⟩

/-- POLICY_TIGHTEN's form (b) (R55). -/
theorem cmdTightenB_moves (f : Frame) (s : State) : Moves p s (cmdTightenB f s) := by
  unfold cmdTightenB
  refine gated_moves fun passed => ?_
  obtain ⟨_, room⟩ := List.forall_mem_append.1 passed
  have fewer : s.filter.table.tight.length < 4 := 
    of_decide_eq_true (room _ (List.mem_singleton_self _))
  dsimp only
  split
  · next r _ => exact (Move.loads (s := s)
      (f := { s.filter with table := { s.filter.table with tight := s.filter.table.tight ++ [r] } })
      fun h => h.add_tight r fewer).moves.upto
  · exact .refl s

/-- POLICY_TIGHTEN (R53). -/
theorem cmdPolicyTighten_moves (f : Frame) (s : State) : Moves p s (cmdPolicyTighten f s) := by
  unfold cmdPolicyTighten
  split
  · exact cmdTightenA_moves f s
  · split
    · exact cmdTightenB_moves f s
    · exact gated_still rfl

/-- A chunk asked for (R31). -/
theorem requestChunk_tracked (s : State) (a n : Nat) : (s.requestChunk a n).tracked = s.tracked := by
  unfold State.requestChunk
  split <;> rfl

/-- A use of the gate (R162). -/
theorem gateUse_tracked (s : State) (b : Bool) : (s.gateUse b).tracked = s.tracked := by
  cases b <;> rfl

/-- A command that asks for one write (R135). -/
theorem asks_moves (s t : State) (h : t.tracked = s.tracked) (rec : RecordId) (c : Change) (w : CmdWork) :
    Moves p s ((t.request rec .command c).work w) :=
  ((Moves.still h).also (Move.requests t rec .command c).moves).upto

/-- CRED_SET (R170). -/
theorem setCred_moves (s : State) (id : Fin 24) (label : List Byte)
    (rest : List Byte ⊕ (Cond × Bool × List Byte)) : Moves p s (s.setCred id label rest) := by
  have built : ∀ t : State, t.tracked = s.tracked → (t.buildCred label rest).1.tracked = s.tracked := by
    intro t h
    rcases rest with pass | ⟨cond, gate, value⟩ <;> exact h
  unfold State.setCred
  split
  · exact asks_moves s _ (built s.consumeProof rfl) _ _ _
  · exact asks_moves s _ (built s.startGate rfl) _ _ _

/-- PROV_DEPLOY's second phase (R146). -/
theorem deployBurned_moves (s : State) (bit : Nat) : Moves p s (s.deployBurned bit) :=
  ((changeSlotTold_moves s .a SlotRec.staged).also (changeSlotTold_moves _ .b SlotRec.staged)).upto

/-- PROV_DEPLOY's first phase (R146). -/
theorem deployTry_moves (s : State) (bit : Nat) : Moves p s (s.deployTry bit) := by
  have asked : Moves p s (s.requestBurn ⟨.lifecycle, bit⟩ .command).1 :=
    .still (requestBurn_tracked s _ _)
  unfold State.deployTry
  generalize s.requestBurn ⟨.lifecycle, bit⟩ .command = r at asked
  rcases r with ⟨t, _ | o⟩
  · exact asked.upto
  · cases o with
    | burned => exact asked.also (deployBurned_moves _ _)
    | supplyStop => exact asked.upto
    | failed => exact asked.upto

/-- A command taken by the engine, whatever its code (R66). -/
theorem dispatch_moves (f : Frame) (s : State) : Moves p s (dispatch f s) := by
  unfold dispatch
  split
  · exact gated_still rfl
  · exact gated_still rfl
  · exact gated_still rfl
  · exact gated_still rfl
  · exact gated_still rfl
  · exact gated_still rfl
  · exact gated_still rfl
  · exact gated_still rfl
  · exact gated_moves fun _ => advanceStage_moves s _
  · exact gated_moves fun _ => (Move.logs s .external s.stage _ _).moves.upto
  · exact cmdPolicyTighten_moves f s
  · exact gated_still rfl
  · exact gated_still (requestChunk_tracked _ _ _)
  · exact gated_moves fun _ => (changeSlot_moves s _ _).upto
  · exact gated_moves fun _ => (changeSlot_moves s _ _).upto
  · exact gated_moves fun _ => asks_moves s s.stopTrial rfl _ _ _
  · exact gated_still rfl
  · unfold cmdKeySign
    exact gated_moves fun _ => (Moves.still (gateUse_tracked s _)).upto
  · exact gated_still rfl
  · unfold cmdKeyErase
    exact gated_moves fun _ => asks_moves s s.startGate rfl _ _ _
  · unfold cmdCredCheck
    exact gated_moves fun _ => asks_moves s s rfl _ _ _
  · refine gated_moves fun _ => ?_
    split
    · exact setCred_moves s _ _ _
    · exact .refl s
  · unfold cmdCredGet
    exact gated_moves fun _ => (Moves.still (gateUse_tracked s _)).upto
  · unfold cmdCredDelete
    exact gated_moves fun _ => asks_moves s s.startGate rfl _ _ _
  · exact gated_moves fun _ => (Move.shuts s).moves.upto
  · exact gated_moves fun _ => (Move.acks s (causeSet (leAt f.params 0 2))).moves.upto
  · exact gated_still rfl
  · exact gated_moves fun _ => asks_moves s s rfl _ _ _
  · exact gated_still rfl
  · unfold cmdProvAuthority
    exact gated_moves fun _ => asks_moves s s rfl _ _ _
  · exact gated_moves fun _ => asks_moves s s rfl _ _ _
  · unfold cmdProvDeploy
    exact gated_moves fun _ => deployTry_moves s 0
  · exact endCommand_moves s _

/-! ### The arbiter and the frame of a command (R68) -/

/-- One look of the arbiter (R68). -/
theorem arbitrate_moves (s : State) : Moves p s s.arbitrate := by
  unfold State.arbitrate
  split
  · split
    · exact startOwnerReset_moves s
    · split
      · exact startFloorBurn_moves s
      · split
        · exact (dispatch_moves _ _).after
        · exact .refl s
  · exact .refl s
  · exact .refl s

/-- The arbiter until it rests (R68). -/
theorem settled_moves (s : State) : Moves p s s.settled :=
  (arbitrate_moves s).also <| (arbitrate_moves _).also <| (arbitrate_moves _).also (arbitrate_moves _)

/-- A command of the block moves as its body does (R68, assumption 1). -/
theorem perform_moves {s t : State} {body : State → State} (e : s.perform body = .next t)
    (hb : ∀ u : State, u.tracked = s.tracked → u.engine = s.engine → Moves p u (body u)) :
    Moves p s t := by
  unfold State.perform at e
  obtain rfl := Host.Outcome.next.inj e
  split
  · exact ((hb s.clearOut rfl rfl).also (settled_moves _)).after
  · exact .still rfl

/-! ### Frames and aborts -/

/-- A completed frame (R66). -/
theorem dispose_moves (s : State) (f : Frame) : Moves p s (s.dispose f) := by
  unfold State.dispose
  split
  · exact (dispatch_moves f _).after
  · split <;> exact .still rfl
  · exact .still rfl

/-- A bad frame (R63). -/
theorem frameBad_moves (s : State) (d c g : Byte) : Moves p s (s.frameBad d c g) := by
  unfold State.frameBad
  split <;> exact .still rfl

/-- A service command's frame (R61, R66). -/
theorem submit_moves (s : State) (code : Byte) (r : Request) : Moves p s (s.submit code r) := by
  unfold State.submit
  split
  · exact .refl s
  · split
    · exact (dispose_moves s.dropReception _).after
    · exact (frameBad_moves s.dropReception _ _ _).after

/-- Bytes for the frame in reception (R61, R62). -/
theorem receive_moves (s : State) (before data : List Byte) : Moves p s (s.receive before data) := by
  simp only [State.receive]
  split
  · exact .still rfl
  · split
    · exact (frameBad_moves s.dropReception _ _ _).after
    · split
      · exact .still rfl
      · exact (dispose_moves s.dropReception _).after

/-- A PROGRAM in the request area (R61, R63). -/
theorem frameProgram_moves (s : State) (off : Nat) (data : List Byte) :
    Moves p s (s.frameProgram off data) := by
  unfold State.frameProgram
  split
  · exact receive_moves s _ _
  · split
    · split
      · exact receive_moves s _ _
      · exact (frameBad_moves s.dropReception _ _ _).after
    · exact (frameBad_moves s.dropReception _ _ _).after

/-- A command aborted (R71). -/
theorem abortCommand_moves (s : State) (w : CmdWork) : Moves p s (s.abortCommand w) := by
  refine (Move.withdraws s).moves.upto ?_
  cases w <;> rfl

/-- The abort request observed (R71). -/
theorem observeAbort_moves (s : State) : Moves p s s.observeAbort := by
  unfold State.observeAbort
  split
  · split
    · exact abortCommand_moves s _
    · exact .refl s
  · exact .refl s
  · exact .refl s

/-- The abort (R70). -/
theorem abort_moves (s : State) : Moves p s s.abort := by
  simp only [State.abort]
  split
  · exact .still rfl
  · exact .still rfl
  · exact (observeAbort_moves _).after
  · exact .still rfl

/-! ### The upstream bus -/

/-- Fewer snapshots on the bus (R17). -/
theorem released_moves (s : State) : Moves p s s.released := by
  refine (Move.ports (u := { s.up with arrived := none }) fun t ht => ?_).moves
  simp only [State.tables, Option.toList_none, List.map_nil, List.nil_append, List.mem_cons,
    List.mem_append] at ht ⊢
  tauto

/-- A transaction that is over (R17, R19). -/
theorem transact_moves {s : State} {cls : TxClass} {a : Nat} {early : State → State}
    {act : Snapshot → State → State} (he : ∀ u, Moves p u (early u)) (ha : ∀ q u, Moves p u (act q u)) :
    Moves p s (s.transact cls a early act) := by
  refine (released_moves s).also ?_
  simp only [State.transact]
  split
  · exact he _
  · exact ha _ _

/-- A unit dropped (R49). -/
theorem dropUnit_moves (s : State) (q : Snapshot) (cls : TxClass) (a : Nat) (d : Decider) :
    Moves p s (s.dropUnit q cls a d) := (Move.violates s.setDenied _).moves.after

/-- A forwarded write's slot (R51). -/
theorem stageSlot_moves (s : State) (m : Mode) (g : Geometry) (phys : Nat) :
    Moves p s (s.stageSlot m g phys) := by
  unfold State.stageSlot
  split
  · exact .refl s
  · split
    · split
      all_goals first | exact .refl s | exact changeSlot_moves s _ _
    · exact .refl s

/-- A write unit (R40, R47, R49). -/
theorem judgeUnit_moves (s : State) (q : Snapshot) (cls : TxClass) (base size first : Nat)
    (covers : Nat → Bool) (op : Nat → DownOp) :
    Moves p s (s.judgeUnit q cls base size first covers op) := by
  unfold State.judgeUnit
  split
  · exact dropUnit_moves s q _ _ _
  · split
    · exact dropUnit_moves s q _ _ _
    · split
      · exact dropUnit_moves s q _ _ _
      · split
        · exact dropUnit_moves s q _ _ _
        · exact (stageSlot_moves (s.forward _) _ _ _).after

/-- PROGRAM's judgement (R21, R40, R60). -/
theorem programUnit_moves (s : State) (q : Snapshot) (a : Nat) (data : List Byte) :
    Moves p s (s.programUnit q a data) := by
  simp only [State.programUnit]
  split
  · split
    · exact frameProgram_moves s _ _
    · exact (Move.violates s.setDenied _).moves.after
  · exact judgeUnit_moves s q _ _ _ _ _ _

/-- ERASE_4K's judgement (R40, R60, R70). -/
theorem erase4kUnit_moves (s : State) (q : Snapshot) (a : Nat) : Moves p s (s.erase4kUnit q a) := by
  simp only [State.erase4kUnit]
  split
  · split
    · exact abort_moves s
    · exact .refl s
  · exact judgeUnit_moves s q _ _ _ _ _ _

/-- ERASE_64K's judgement (R40, R60, R70). -/
theorem erase64kUnit_moves (s : State) (q : Snapshot) (a : Nat) : Moves p s (s.erase64kUnit q a) := by
  simp only [State.erase64kUnit]
  split
  · exact abort_moves s
  · exact judgeUnit_moves s q _ _ _ _ _ _

/-! ### READs -/

/-- The fields after violations have been taken, one after another (R181). -/
def Tracked.violated (t : Tracked) (vs : List Violation) : Tracked :=
  { t with
    violations := vs.foldl mergeViolation t.violations
    total := vs.foldl (fun n _ => min (n + 1) 4294967295) t.total }

/-- Violations taken are moves (R181). -/
theorem violated_moves (vs : List Violation) : ∀ {s t : State}, t.tracked = s.tracked.violated vs →
    Moves p s t := by
  induction vs with
  | nil => exact fun h => .still h
  | cons v vs ih => exact fun {s t} h => (Move.violates s v).moves.also (ih h)

/-- A byte of a READ hands one violation at most, and keeps the READ's snapshot (R39, R48). -/
theorem readByte_violated (s : State) (r : OpenRead) (flash : List Byte) :
    (∃ vs, (s.readByte r flash).1.tracked = s.tracked.violated vs) ∧
      (s.readByte r flash).2.1.snap = r.snap := by
  have taken : s.takePort.tracked = s.tracked := by
    unfold State.takePort
    split <;> rfl
  have header : ∀ off, (s.readHeader off).tracked = s.tracked := by
    intro off
    unfold State.readHeader
    split <;> rfl
  have sent : ∀ (u : State) (ops : List DownOp), u.tracked = s.tracked →
      (u.toFlash ops).tracked = s.tracked := fun u ops h => h
  simp only [State.readByte]
  split
  · exact ⟨⟨[], rfl⟩, rfl⟩
  · split
    · exact ⟨⟨[], header _⟩, rfl⟩
    · split
      · exact ⟨⟨[], rfl⟩, rfl⟩
      · split
        · exact ⟨⟨[], rfl⟩, rfl⟩
        · next phys _ =>
          have read : (if r.nextPhys = some phys then s.takePort
              else s.takePort.toFlash [.readFrom phys]).tracked = s.tracked := by
            split
            · exact taken
            · exact sent _ _ taken
          generalize (if r.nextPhys = some phys then s.takePort
              else s.takePort.toFlash [.readFrom phys]) = t at read ⊢
          split
          · exact ⟨⟨[], read⟩, rfl⟩
          · refine ⟨?_, rfl⟩
            split
            · exact ⟨[], read⟩
            · next d _ _ =>
              refine ⟨[⟨r.snap.geo.logical (r.addr + r.sent), .read, r.snap.stage, d⟩], ?_⟩
              rw [← read]
              rfl

/-- The bytes of a READ hand violations and keep its snapshot (R39, R48). -/
theorem readBytes_violated (n : Nat) : ∀ (s : State) (r : OpenRead) (flash : List Byte),
    (∃ vs, (readBytes n s r flash).1.tracked = s.tracked.violated vs) ∧
      (readBytes n s r flash).2.snap = r.snap := by
  induction n with
  | zero => exact fun s r flash => ⟨⟨[], rfl⟩, rfl⟩
  | succ n ih =>
    intro s r flash
    obtain ⟨⟨vs, hv⟩, hs⟩ := readByte_violated s r flash
    obtain ⟨⟨ws, hw⟩, hr⟩ := ih (s.readByte r flash).1 (s.readByte r flash).2.1 (s.readByte r flash).2.2
    refine ⟨⟨vs ++ ws, ?_⟩, hr.trans hs⟩
    rw [readBytes, hw, hv]
    simp [Tracked.violated]

/-- Bytes of a READ clocked out, the READs in progress replaced by ones with tables known before (R39,
R50). -/
theorem clockRead_moves {s t : State} (ht : t.tracked = { s.tracked with arrived := none } ∨ t = s)
    {others : List OpenRead} {r : OpenRead} (hr : r.snap.table ∈ s.tables)
    (ho : ∀ q ∈ others, q ∈ s.up.reads) (count : Nat) (flash : List Byte) :
    Moves p s (t.clockRead others r count flash) := by
  obtain ⟨⟨vs, hv⟩, hs⟩ := readBytes_violated count t r flash
  have port : Moves p s { s with up := { s.up with
      arrived := t.up.arrived, reads := others ++ [(readBytes count t r flash).2] } } := by
    refine (Move.ports fun table hm => ?_).moves
    have arrivals : ∀ a ∈ t.up.arrived.toList, a ∈ s.up.arrived.toList := by
      rcases ht with h | rfl
      · have none : t.up.arrived = none := congrArg Tracked.arrived h
        simp [none]
      · exact fun a ha => ha
    simp only [State.tables, List.map_append, List.map_cons, List.map_nil, List.mem_cons, List.mem_append,
      List.mem_map, List.not_mem_nil, or_false] at hm hr ⊢
    rcases hm with hm | ⟨a, ha, hm⟩ | ⟨q, hq, hm⟩ | hm
    · exact .inl hm
    · exact .inr (.inl ⟨a, arrivals a ha, hm⟩)
    · exact .inr (.inr ⟨q, ho q hq, hm⟩)
    · rw [hm, hs]
      exact hr
  refine port.also (violated_moves vs ?_)
  have left : (t.clockRead others r count flash).tracked =
      { (readBytes count t r flash).1.tracked with reads := others ++ [(readBytes count t r flash).2] } := rfl
  rw [left, hv]
  rcases ht with h | rfl
  · have none : t.up.arrived = none := congrArg Tracked.arrived h
    rw [h, none]
    rfl
  · rfl

/-- READ (R39). -/
theorem read_moves (s : State) (part : ReadPart) (count : Nat) (flash : List Byte) :
    Moves p s (s.read part count flash) := by
  unfold State.read
  split
  · refine clockRead_moves (.inl rfl) ?_ (fun q hq => hq) count flash
    unfold State.snapFor
    split
    · next a ha =>
      split
      · simp [State.tables, ha]
      · exact List.mem_cons_self
    · exact List.mem_cons_self
  · split
    · next r hr =>
      refine clockRead_moves (.inr rfl) ?_ (fun q hq => List.mem_of_mem_dropLast hq) count flash
      simp only [State.tables, List.mem_cons, List.mem_append, List.mem_map]
      exact .inr (.inr ⟨r, List.mem_of_getLast? hr, rfl⟩)
    · exact .refl s

/-- The port freed (R30). -/
theorem freePort_tracked (s : State) : s.freePort.tracked = s.tracked := by
  unfold State.freePort
  split <;> rfl

/-- READ_END (R30). -/
theorem endRead_moves (s : State) : Moves p s s.endRead := by
  unfold State.endRead
  split
  · exact .refl s
  · next r rest hr =>
    have fewer : Moves p s (s.setReads rest) := by
      refine (Move.ports (u := { s.up with reads := rest }) fun t ht => ?_).moves
      simp only [State.tables, hr, List.map_cons, List.mem_cons, List.mem_append] at ht ⊢
      tauto
    dsimp only
    split
    · exact fewer.upto (freePort_tracked _)
    · exact fewer

/-- ARRIVAL (R17, R50). -/
theorem arrival_moves (s : State) (cmd : Byte) (addr : BitVec 32) :
    Moves p s { s with up := { s.up with
      arrived := some ⟨upstreamClass cmd, carriedAddress cmd addr, s.snapshot⟩ } } := by
  refine (Move.ports fun t ht => ?_).moves
  simp only [State.tables, Option.toList_some, List.map_cons, List.map_nil, List.mem_cons, List.mem_append,
    List.not_mem_nil, or_false] at ht ⊢
  rcases ht with ht | ht | ht
  · exact .inl ht
  · exact .inl ht
  · exact .inr (.inr ht)

/-! ### The boot flow -/

/-- The release step (R96). -/
theorem release_tracked (s : State) : s.release.tracked = s.tracked := by
  unfold State.release State.startPenalty State.requestJob
  dsimp only
  (repeat' split) <;> rfl

/-- A table as loaded allows what it was loaded with (R44, R52). -/
theorem TableWithin.load (entries : List Region) (fill : Fill) (r w : Cond) :
    TableWithin (RegionTable.load entries fill r w) := by
  refine ⟨fun e he => ?_, fun d hd => ?_, Nat.zero_le _⟩
  · obtain ⟨_, _, rfl⟩ := List.mem_map.1 he
    exact ⟨fun _ h => h, fun _ h => h⟩
  · obtain rfl := Option.mem_some.1 hd
    exact ⟨fun _ h => h, fun _ h => h⟩

/-- No table allows nothing beyond what was loaded (R44, R52). -/
theorem TableWithin.unloaded : TableWithin RegionTable.unloaded := by
  simp [TableWithin, RegionTable.unloaded]

/-- RECOVERY measured (R95, R96). -/
theorem finishRecovery_moves (s : State) (digest : List Byte) : Moves p s (s.finishRecovery digest) :=
  ((Move.logs s .part s.stage (sha256 s.partInput) []).moves.also
    (Move.logs _ .recovery s.stage digest []).moves).upto (release_tracked _)

/-- The loader's digest (R95). -/
theorem onLoader_moves (r : State × Option (List Byte)) : Moves p r.1 (State.onLoader r) := by
  rcases r with ⟨s, _ | digest⟩
  · exact .still rfl
  · exact finishRecovery_moves s digest

/-- The loader goes on (R95). -/
theorem goOnLoader_tracked (s : State) (g : Geometry) : (s.goOnLoader g).1.tracked = s.tracked := by
  unfold State.goOnLoader
  split
  · exact requestChunk_tracked s _ _
  · rfl

/-- The loader's bytes, read on or digested (R95). -/
theorem loader_moves (s : State) (g : Geometry) : Moves p s (State.onLoader (s.goOnLoader g)) :=
  (Moves.still (goOnLoader_tracked s g)).also (onLoader_moves _)

/-- RECOVERY entered (R45, R95). -/
theorem enterRecovery_moves (s : State) : Moves p s s.enterRecovery := by
  have loaded : Moves p s { s with filter :=
      ⟨.recovery, s.configOrDefault.geo, recoveryTable s.configOrDefault.geo⟩ } :=
    (Move.loads fun _ => TableWithin.load _ _ _ _).moves
  exact loaded.next (loader_moves { s with
    filter := ⟨.recovery, s.configOrDefault.geo, recoveryTable s.configOrDefault.geo⟩
    ve := ⟨.loader, [], 0, ShaState.initial⟩ } s.configOrDefault.geo)

/-- The next candidate (R93). -/
theorem tryCandidates_moves (s : State) (first : Bool) (l : List SlotId) :
    Moves p s (s.tryCandidates first l) := by
  cases l with
  | nil => exact enterRecovery_moves s
  | cons x rest => exact .still (requestChunk_tracked { s with ve := ⟨.manifest x, [], 0, ShaState.initial⟩ }
      (slotBase s.configOrDefault.geo x) Config.chunkSize)

/-- An unconfirmed trial (R92). -/
theorem failTrial_moves (s : State) (x : SlotId) : Moves p s (s.failTrial x) := by
  unfold State.failTrial
  split
  · exact changeSlot_moves s _ _
  · exact .refl s

/-- Steps 6 to 8 (R92, R93). -/
theorem selectSlot_moves (s : State) : Moves p s s.selectSlot :=
  (failTrial_moves s .a).also <| (failTrial_moves _ .b).also (tryCandidates_moves _ _ _)

/-- The booted slot (R79, R94). -/
theorem bootSlot_moves (s : State) (x : SlotId) (m : Summary) : Moves p s (s.bootSlot x m) := by
  unfold State.bootSlot
  split
  · dsimp only
    split
    · exact .refl s
    · exact changeSlot_moves s _ _
  · exact (changeSlot_moves s x ⟨.trial, .trial, .none, some m⟩).also (.still (by unfold State.startTrial; rfl))

/-- The load step (R94, R96). -/
theorem bootVerified_moves (s : State) (x : SlotId) (m : Summary) (first : Bool) :
    Moves p s (s.bootVerified x m first) := by
  have loaded : Moves p s { s.bootSlot x m with filter :=
      ⟨x.mode, (s.bootSlot x m).configOrDefault.geo, manifestTable (s.bootSlot x m).ve.manifest⟩ } :=
    (bootSlot_moves s x m).also (Move.loads fun _ => TableWithin.load _ _ _ _).moves
  have logged : ∀ u : State, Moves p u
      (((u.logPart.logAppend .manifest u.stage m.manifestDigest x.label).logAppend .image u.stage
        m.imageDigest x.label).logAppend .policy u.stage m.policyDigest x.label) := fun u =>
    (((Move.logs u .part _ _ []).moves.also (Move.logs _ .manifest _ _ _).moves).also
      (Move.logs _ .image _ _ _).moves).also (Move.logs _ .policy _ _ _).moves
  refine (loaded.also (logged _)).upto ((release_tracked _).trans ?_)
  split <;> rfl

/-- A candidate's verification has ended (R87, R93). -/
theorem candidateEnded_moves (s : State) (x : SlotId) (rest : List SlotId) (first : Bool)
    (o : VerifyOutcome) : Moves p s (s.candidateEnded x rest first o) := by
  cases o with
  | pass m => exact bootVerified_moves s x m first
  | fail why => exact (changeSlot_moves s _ _).also (tryCandidates_moves _ _ _)

/-- Step 5's burns (R91). -/
theorem onFlowBurns_moves (r : State × BurnStatus) : Moves p r.1 (State.onFlowBurns r) := by
  rcases r with ⟨s, q | q | q⟩
  · exact .still rfl
  · exact .still rfl
  · exact (selectSlot_moves _).after (faultIf_tracked s q)

/-- The flow resumed (R89 to R93). -/
theorem resumeFlow_moves (s : State) (i j k : Byte) : Moves p s (s.resumeFlow i j k) := by
  have counted : Moves p s (s.capture i j k).countBoot :=
    (Move.requests { s.capture i j k with slots := { s.slots with
      bootCounter := min (s.slots.bootCounter + 1) 4294967295, lastReason := s.flow.reason } }
      .counters .block .asIs).moves.after
  simp only [State.resumeFlow]
  generalize (s.capture i j k).countBoot = t at counted ⊢
  refine counted.also ?_
  split
  · have unloaded : Moves p t { t with filter :=
        ⟨.passthrough, t.configOrDefault.geo, RegionTable.unloaded⟩ } :=
      (Move.loads fun _ => TableWithin.unloaded).moves
    exact (unloaded.also (Move.logs _ .part _ _ []).moves).upto (release_tracked _)
  · exact (Moves.still (goOnBurns_tracked t _ _)).also (onFlowBurns_moves _)

/-- The procedure goes on (R85). -/
theorem goOnImage_tracked (s : State) (g : Geometry) (x : SlotId) :
    (s.goOnImage g x).1.tracked = s.tracked := by
  simp only [State.goOnImage]
  split
  · exact requestChunk_tracked s _ _
  · rfl

/-- The procedure takes a chunk (R81, R85). -/
theorem feedVerify_tracked (s : State) (g : Geometry) (bytes : List Byte) :
    (s.feedVerify g bytes).1.tracked = s.tracked := by
  unfold State.feedVerify
  split
  · split
    · rfl
    · exact goOnImage_tracked _ g _
  · exact goOnImage_tracked _ g _
  · rfl
  · rfl

/-- A chunk of the flow (R31, R85, R95). -/
theorem flowChunk_moves (s : State) (bytes : List Byte) : Moves p s (s.flowChunk bytes) := by
  have fed : Moves p s (s.feedVerify s.configOrDefault.geo bytes).1 := .still (feedVerify_tracked s _ _)
  unfold State.flowChunk
  dsimp only
  split
  · generalize s.feedVerify s.configOrDefault.geo bytes = r at fed
    rcases r with ⟨t, _ | o⟩
    · exact fed
    · exact fed.also (candidateEnded_moves t _ _ _ o)
  · exact (loader_moves { s with ve := { s.ve with
      cursor := s.ve.cursor + bytes.length, sha := shaUpdate s.ve.sha bytes } }
      s.configOrDefault.geo).after
  · exact .refl s
  · exact .refl s
  · exact .refl s

/-! ### Chunks, signatures and pairs -/

/-- UPDATE_VERIFY after a chunk (R102 to R104). -/
theorem commandChunk_moves (s : State) (x : SlotId) (bytes : List Byte) :
    Moves p s (s.commandChunk x bytes) := by
  have fed : Moves p s (s.feedVerify s.filter.geo bytes).1 := .still (feedVerify_tracked s _ _)
  unfold State.commandChunk
  split
  · exact abortCommand_moves s _
  · generalize s.feedVerify s.filter.geo bytes = r at fed
    rcases r with ⟨t, _ | o⟩
    · exact fed
    · exact fed.also ((asks_moves t t rfl (.slot x) (.verify o) (.verifyStore x o)).also
        (observeAbort_moves _))

/-- Bytes of a chunk (R31, R32). -/
theorem chunkBytes_moves (s : State) (data : List Byte) : Moves p s (s.chunkBytes data) := by
  unfold State.chunkBytes
  split
  · exact .refl s
  · exact .refl s
  · dsimp only
    split
    · exact .still rfl
    · unfold State.chunkDone
      split
      · exact (commandChunk_moves _ _ _).after
      · exact (flowChunk_moves _ _).after

/-- A finished signature (R134). -/
theorem finishSignature_tracked (s : State) : s.finishSignature.tracked = s.tracked := by
  unfold State.finishSignature
  split <;> rfl

/-- Records asked for behind drawn values (R135, R142). -/
theorem asksAll_moves (s : State) (n : Nat) (ws : List (RecordId × Change)) (w : CmdWork) :
    Moves p s ((State.requestAll { s with draws := n } .command ws).work w) :=
  ((requestAll_moves .command ws { s with draws := n }).after).upto

/-- A finished pair (R134). -/
theorem finishGeneration_moves (s : State) : Moves p s s.finishGeneration := by
  unfold State.finishGeneration
  split
  · exact asks_moves s { s with draws := s.draws + 1 } rfl _ _ _
  · exact asksAll_moves s _ _ _
  · exact .refl s

/-! ### Record writes -/

/-- The slots settled (R109). -/
theorem settleSlots_moves (s : State) (floor : Nat) : Moves p s (s.settleSlots floor).1 := by
  unfold State.settleSlots
  split
  · dsimp only
    split
    · dsimp only
      split
      · exact (changeSlotTold_moves s _ _).also (changeSlotTold_moves _ _ _)
      · exact changeSlotTold_moves s _ _
    · dsimp only
      split
      · exact changeSlotTold_moves s _ _
      · exact .refl s
  · exact .refl s

/-- A requester's change (R125, R164). -/
theorem applyChange_moves (s : State) (rec : RecordId) (c : Change) : Moves p s (s.applyChange rec c) := by
  unfold State.applyChange
  split
  · exact .refl s
  · split <;> exact .still rfl
  · next floor _ =>
    refine (settleSlots_moves s floor).upto ?_
    unfold State.applyConfirm
    generalize s.settleSlots floor = r
    rcases r with ⟨t, awaited⟩
    dsimp only
    split <;> rfl
  · exact (Move.counts s (Nat.min_le_left _ _)).moves
  · exact (Move.counts s (Nat.zero_le _)).moves
  · exact (Move.counts s (Nat.zero_le _)).moves.upto
  · split <;> exact .still rfl
  · split <;> exact .still rfl
  · exact .still rfl
  · exact .still rfl

/-- The changes of a set of requesters, in order (R125). -/
theorem applyAll_moves (rec : RecordId) (rs : List Requester) : ∀ s : State,
    Moves p s (rs.foldl (fun v r => v.applyChange rec r.change) s) := by
  induction rs with
  | nil => exact fun s => .refl s
  | cons r rs ih => exact fun s => (applyChange_moves s rec r.change).also (ih _)

/-- RECORD_WRITE_BEGIN (R125). -/
theorem recordBegin_moves (s : State) : Moves p s s.recordBegin := by
  unfold State.recordBegin
  split
  · next e rest _ hw _ =>
    exact ((Move.dequeues hw).moves.also (applyAll_moves e.record e.requesters _)).also
      (Move.writes _ e.record e.requesters).moves
  · exact .refl s

/-- UPDATE_CONFIRM goes on (R111). -/
theorem confirmNext_tracked (s : State) (l : List RecordId) : (s.confirmNext l).tracked = s.tracked := by
  cases l with
  | nil => exact (onCommandBurns_tracked _).trans (goOnBurns_tracked s _ _)
  | cons r rs => rfl

/-- CRED_CHECK's comparison (R166, R167). -/
theorem credCompare_moves (s : State) (id : Fin 24) (candidate : List Byte) :
    Moves p s (s.credCompare id candidate) := by
  unfold State.credCompare
  split
  · exact asks_moves s s rfl _ _ _
  · refine .still ?_
    unfold State.credMismatch State.startPenalty
    dsimp only
    (repeat' split) <;> rfl

/-- The command told of its write; after a match of id 0 it opens the gate (R125, R162). -/
theorem tellCommand_moves (s : State) (rec : RecordId) (w : CmdWork) (ho : w = .credClear 0 → p) :
    Moves p s (s.tellCommand rec w) := by
  unfold State.tellCommand
  split
  · exact endCommand_moves s _
  · exact .still (confirmNext_tracked s _)
  · exact .still (confirmNext_tracked s _)
  · split <;> exact .still rfl
  · exact credCompare_moves s _ _
  · next id =>
    unfold State.credMatched
    split
    · next h0 => exact (Move.opens s (ho (h0 ▸ rfl))).moves.upto
    · exact .still rfl
  · split <;> exact .still rfl
  · exact .refl s
  · exact .refl s
  · exact .refl s
  · exact .refl s
  · exact .refl s

/-- The job told of its write (R176). -/
theorem tellJob_moves (s : State) (rec : RecordId) (w : JobWork) : Moves p s (s.tellJob rec w) := by
  unfold State.tellJob
  split
  · exact wipeNext_moves s _
  · exact ownerResetEnd_moves s
  · exact .refl s

/-- Everybody told of a write (R125). -/
theorem tell_moves (s : State) (rec : RecordId) (rs : List Requester)
    (ho : s.engine.state = .command (.credClear 0) → involves rs .command = true → p) :
    Moves p s (s.tell rec rs) := by
  unfold State.tell
  split
  · exact .refl s
  · next w hw =>
    split
    · next hi => exact tellCommand_moves s rec w fun h => ho (hw.trans (h ▸ rfl)) hi
    · exact .refl s
  · split
    · exact tellJob_moves s rec _
    · exact .refl s

/-- RECORD_WRITE_COMPLETE (R125). -/
theorem recordComplete_moves (s : State)
    (ho : ∀ w, s.records.writing = some w → s.engine.state = .command (.credClear 0) →
      involves w.requesters .command = true → p) : Moves p s s.recordComplete := by
  unfold State.recordComplete
  split
  · exact .refl s
  · next w hw =>
    exact ((Move.stores hw).moves.next (tell_moves (State.takePending { s with records := { s.records with
      store := s.records.store.put w.record w.content, writing := none } } w.requesters) w.record
      w.requesters (ho w hw))).also (observeAbort_moves _)

/-! ### Fuses -/

/-- PROV_DEPLOY after a bit (R122, R146). -/
theorem onDeployBurn_moves (s : State) (bit : Nat) (o : BurnOutcome) :
    Moves p s (s.onDeployBurn bit o) := by
  cases o with
  | burned => exact deployBurned_moves s bit
  | supplyStop => exact .still rfl
  | failed =>
    simp only [State.onDeployBurn]
    split
    · exact deployTry_moves s _
    · exact .still rfl

/-- A bit burn's outcome handed over (R119). -/
theorem burnEnded_moves (s : State) (owner : BurnOwner) (target : FuseBit) (o : BurnOutcome) :
    Moves p s (s.burnEnded owner target o) := by
  unfold State.burnEnded
  split
  · exact .refl s
  · split
    · exact .still ((onCommandBurns_tracked _).trans (afterBurn_tracked s _ _ _ _))
    · exact onDeployBurn_moves s _ o
    · exact .refl s
  · split
    · exact .still ((onJobBurns_tracked _).trans (afterBurn_tracked s _ _ _ _))
    · exact .refl s
  · split
    · exact (Moves.still (afterBurn_tracked s _ _ _ _)).also (onFlowBurns_moves _)
    · exact .refl s

/-- Outcomes handed over one after another (R119). -/
theorem queueEnded_moves (l : List (BurnRequest × BurnOutcome)) : ∀ s : State,
    Moves p s (s.queueEnded l) := by
  induction l with
  | nil => exact fun s => .refl s
  | cons e l ih => exact fun s => (burnEnded_moves s _ _ _).also (ih _)

/-- A request taken burns nothing yet (R119). -/
theorem takeBurn_tracked (s : State) (b : FuseBit) (o : BurnOwner) :
    (s.takeBurn b o).1.tracked = s.tracked := by
  unfold State.takeBurn
  (repeat' split) <;> rfl

/-- The waiting requests taken burn nothing yet (R119). -/
theorem takeQueue_tracked (l : List BurnRequest) : ∀ s : State, (takeQueue l s).1.tracked = s.tracked := by
  induction l with
  | nil => exact fun _ => rfl
  | cons r rs ih =>
    intro s
    have taken := takeBurn_tracked s r.target r.owner
    unfold takeQueue
    split
    · rfl
    · generalize s.takeBurn r.target r.owner = u at taken
      rcases u with ⟨t, _ | o⟩
      · exact (ih t).trans taken
      · exact (ih t).trans taken

/-- An attempt read back burns its bit or none (R116, R119). -/
theorem readBack_moves (s : State) (b : BitBurn) (back : Bool) : Moves p s (s.readBack b back).1 := by
  unfold State.readBack
  split
  · exact (Move.burns rfl rfl).moves
  · dsimp only
    (repeat' split) <;> exact .still rfl

/-- FUSE_ATTEMPT_DONE (R119). -/
theorem fuseAttempt_moves (s : State) (b : BitBurn) (back : Bool) : Moves p s (s.fuseAttempt b back) := by
  have read : Moves p s (s.readBack b back).1 := readBack_moves s b back
  unfold State.fuseAttempt
  generalize s.readBack b back = r at read
  rcases r with ⟨t, _ | o⟩
  · exact read
  · exact read.also <| (Moves.still (takeQueue_tracked _ t)).also <|
      (burnEnded_moves _ _ _ _).also (queueEnded_moves _ _)

/-! ### Supply, button, expiries -/

/-- The entry into LOW (R131). -/
theorem enterLow_moves (s : State) : Moves p s s.enterLow := by
  refine (observeAbort_moves _).after ?_
  unfold State.raiseOutsideS0
  split <;> rfl

/-- The entry into NORMAL (R113, R131). -/
theorem enterNormal_moves (s : State) : Moves p s s.enterNormal := by
  have raised : Moves p s ((s.setSupply true).raiseOutsideS0 .supplyOk) := by
    unfold State.raiseOutsideS0
    split <;> exact .still rfl
  have flow : ∀ t : State, Moves p t t.resumeFlowBurns := by
    intro t
    unfold State.resumeFlowBurns
    split
    · exact (Moves.still (goOnBurns_tracked t _ _)).also (onFlowBurns_moves _)
    · exact .refl t
  have deploy : ∀ t : State, Moves p t t.resumeDeploy := by
    intro t
    unfold State.resumeDeploy
    split
    · exact deployTry_moves t _
    · exact .refl t
  have deferred : ∀ t : State, t.requestDeferred.tracked = t.tracked := by
    intro t
    unfold State.requestDeferred
    split <;> rfl
  exact ((raised.also (flow _)).also (deploy _)).upto (deferred _)

/-- A press and a release (R174). -/
theorem button_tracked (s : State) : s.press.tracked = s.tracked ∧ s.letGo.tracked = s.tracked := by
  constructor
  · simp only [State.press]
    (repeat' split) <;> rfl
  · simp only [State.letGo]
    (repeat' split) <;> rfl

/-- PRESENCE's expiry (R174). -/
theorem presenceExpires_tracked (s : State) : s.presenceExpires.tracked = s.tracked := by
  simp only [State.presenceExpires]
  (repeat' split) <;> rfl

/-- An event of a tick (R13, R129, R174). -/
theorem tickEvent_moves (s : State) (a b c : Bool) (e : TickEvent) : Moves p s (s.tickEvent a b c e) := by
  unfold State.tickEvent
  split
  · split
    · split
      · exact enterLow_moves s
      · exact enterNormal_moves s
    · exact .refl s
  · split
    · exact (Move.restarts s .trialExpiry).moves
    · exact .refl s
  · split
    · exact (closeGate_moves _).after
    · exact .refl s
  · split <;> exact .still rfl
  · split
    · exact .still (presenceExpires_tracked s)
    · exact .refl s
  · split
    · split
      · exact .still (button_tracked s).1
      · exact .still (button_tracked s).2
    · exact .refl s

/-- The events of a tick, one after another, the arbiter between them (R68). -/
theorem tickEvents_moves (a b c : Bool) (l : List TickEvent) : ∀ s : State,
    Moves p s (l.foldl (fun u e => (u.tickEvent a b c e).settled) s) := by
  induction l with
  | nil => exact fun s => .refl s
  | cons e l ih => exact fun s => ((tickEvent_moves s a b c e).also (settled_moves _)).also (ih _)

/-- The supply applied (R76, R116, R123). -/
theorem applyPower_moves (s : State) (sensed : List FuseBit) (r : Bool) :
    Moves p s (s.applyPower sensed r) := by
  have back : ∀ (t : State) (x : SlotId), Moves p t (t.rollBack x) := by
    intro t x
    unfold State.rollBack
    split
    · exact changeSlot_moves t _ _
    · exact .refl t
  exact ((Move.sensesUp s sensed r).moves.also (back _ .a)).also (back _ .b)

/-! ### The transactions -/

/-- PROGRAM (R21). -/
theorem execProgram_moves (addr : Address) (data : List Byte) (n : Nat) {s t : State}
    (e : execProgram addr data n s = .next t) :
    Moves p s t := by
  refine perform_moves e fun u _ _ => transact_moves (fun v => .refl v) fun q v => ?_
  split
  · exact (programUnit_moves v q _ _).upto
  · exact .refl v

/-- ERASE_4K (R21, R40). -/
theorem execErase4k_moves (addr : Address) {s t : State} (e : execErase4k addr s = .next t) :
    Moves p s t := by
  refine perform_moves e fun u _ _ => transact_moves (fun v => .refl v) fun q v => ?_
  split
  · exact (erase4kUnit_moves v q _).upto
  · exact .refl v

/-- ERASE_64K (R21, R40). -/
theorem execErase64k_moves (addr : Address) {s t : State} (e : execErase64k addr s = .next t) :
    Moves p s t := by
  refine perform_moves e fun u _ _ => transact_moves (fun v => .refl v) fun q v => ?_
  split
  · exact (erase64kUnit_moves v q _).upto
  · exact .refl v

/-- ERASE_CHIP (R27). -/
theorem execEraseChip_moves {s t : State} (e : execEraseChip s = .next t) :
    Moves p s t := by
  refine perform_moves e fun u _ _ => transact_moves (fun v => .refl v) fun q v => ?_
  split
  · split
    · exact .still rfl
    · exact (dropUnit_moves v q _ _ _).upto
  · exact .refl v

/-- WREN (R20, R22). -/
theorem execWren_moves {s t : State} (e : execWren s = .next t) :
    Moves p s t := by
  refine perform_moves e fun u _ _ => transact_moves (fun v => .refl v) fun q v => ?_
  split <;> exact .still rfl

/-- WRDI (R20). -/
theorem execWrdi_moves {s t : State} (e : execWrdi s = .next t) :
    Moves p s t :=
  perform_moves e fun _ _ _ => transact_moves (fun v => .refl v) fun _ _ => .still rfl

/-- STATUS_READ (R24). -/
theorem execStatusRead_moves (sel : StatusByte) (count : Nat) {s t : State}
    (e : execStatusRead sel count s = .next t) :
    Moves p s t :=
  perform_moves e fun _ _ _ => transact_moves (fun _ => .still rfl) fun _ _ => .still rfl

/-- STATUS_WRITE (R26). -/
theorem execStatusWrite_moves (data : List Byte) {s t : State} (e : execStatusWrite data s = .next t) :
    Moves p s t := by
  refine perform_moves e fun u _ _ => transact_moves (fun v => .refl v) fun q v => ?_
  split
  · split <;> exact .still rfl
  · exact (Move.violates v _).moves.upto

/-- IDENT (R25). -/
theorem execIdent_moves (count : Nat) {s t : State} (e : execIdent count s = .next t) :
    Moves p s t :=
  perform_moves e fun _ _ _ => transact_moves (fun _ => .still rfl) fun _ _ => .still rfl

/-- FLASH_RESET (R28). -/
theorem execFlashReset_moves {s t : State} (e : execFlashReset s = .next t) :
    Moves p s t :=
  perform_moves e fun _ _ _ => transact_moves (fun v => .refl v) fun _ _ => .still rfl

/-- OTHER (R29). -/
theorem execOther_moves (cmd : Byte) (data : List Byte) (count : Nat) {s t : State}
    (e : execOther cmd data count s = .next t) :
    Moves p s t :=
  perform_moves e fun _ _ _ => transact_moves (fun _ => .still rfl)
    fun _ v => (Move.violates (v.toSoc _) _).moves.after

/-! ### The other rows -/

/-- READ (R39). -/
theorem execRead_moves (part : ReadPart) (count : Nat) (flash : List Byte) {s t : State}
    (e : execRead part count flash s = .next t) : Moves p s t :=
  perform_moves e fun u _ _ => read_moves u _ _ _

/-- READ_END (R30, R33). -/
theorem execReadEnd_moves {s t : State} (e : execReadEnd s = .next t) : Moves p s t :=
  perform_moves e fun u _ _ => endRead_moves u

/-- FLASH_FINISHED (R30). -/
theorem execFlashFinished_moves {s t : State} (e : execFlashFinished s = .next t) : Moves p s t := by
  refine perform_moves e fun u _ _ => ?_
  split
  · exact .still (freePort_tracked (u.toFlash [.statusPoll]))
  · exact .refl u

/-- CHUNK_COMPLETE (R31). -/
theorem execChunkComplete_moves (data : List Byte) {s t : State} (e : execChunkComplete data s = .next t) :
    Moves p s t :=
  perform_moves e fun u _ _ => chunkBytes_moves u data

/-- SIGNATURE_COMPLETE (R134). -/
theorem execSignatureComplete_moves {s t : State} (e : execSignatureComplete s = .next t) : Moves p s t :=
  perform_moves e fun u _ _ => .still (finishSignature_tracked u)

/-- GENERATION_COMPLETE (R134). -/
theorem execGenerationComplete_moves {s t : State} (e : execGenerationComplete s = .next t) :
    Moves p s t := by
  exact perform_moves e fun u _ _ => (finishGeneration_moves u).also (observeAbort_moves _)

/-- RECORD_WRITE_BEGIN (R125). -/
theorem execRecordWriteBegin_moves {s t : State} (e : execRecordWriteBegin s = .next t) : Moves p s t :=
  perform_moves e fun u _ _ => recordBegin_moves u

/-- RECORD_WRITE_COMPLETE (R125): the gate can open by telling a matched CRED_CHECK of id 0 alone (R162, R167). -/
theorem execRecordWriteComplete_moves {s t : State} (e : execRecordWriteComplete s = .next t) :
    Moves (s.engine.state = .command (.credClear 0) ∧ ∃ w, s.records.writing = some w ∧
      involves w.requesters .command = true) s t := by
  refine perform_moves e fun u hu he => recordComplete_moves u fun w hw hs hi => ⟨?_, w, ?_, hi⟩
  · rw [← he, hs]
  · rw [← hw, show s.records = u.records from congrArg Tracked.records hu.symm]

/-- FUSE_ATTEMPT_DONE (R119). -/
theorem execFuseAttemptDone_moves (back : Bool) {s t : State} (e : execFuseAttemptDone back s = .next t) :
    Moves p s t := by
  refine perform_moves e fun u _ _ => ?_
  split
  · exact .refl u
  · exact fuseAttempt_moves u _ _

/-- ENTRY_INTO_LOW (R131). -/
theorem execEntryIntoLow_moves {s t : State} (e : execEntryIntoLow s = .next t) : Moves p s t := by
  refine perform_moves e fun u _ _ => ?_
  split
  · exact enterLow_moves u
  · exact .refl u

/-- ENTRY_INTO_NORMAL (R131). -/
theorem execEntryIntoNormal_moves {s t : State} (e : execEntryIntoNormal s = .next t) : Moves p s t := by
  refine perform_moves e fun u _ _ => ?_
  split
  · exact .refl u
  · exact enterNormal_moves u

/-- PRESS (R174). -/
theorem execPress_moves {s t : State} (e : execPress s = .next t) : Moves p s t := by
  refine perform_moves e fun u _ _ => ?_
  split
  · exact .refl u
  · exact .still (button_tracked u).1

/-- RELEASE (R174). -/
theorem execRelease_moves {s t : State} (e : execRelease s = .next t) : Moves p s t := by
  refine perform_moves e fun u _ _ => ?_
  split
  · exact .still (button_tracked u).2
  · exact .refl u

/-- TRIAL_EXPIRY (R107). -/
theorem execTrialExpiry_moves {s t : State} (e : execTrialExpiry s = .next t) : Moves p s t :=
  perform_moves e fun u _ _ => tickEvent_moves u false false false .trial

/-- GATE_EXPIRY (R163). -/
theorem execGateExpiry_moves {s t : State} (e : execGateExpiry s = .next t) : Moves p s t :=
  perform_moves e fun u _ _ => tickEvent_moves u false false false .gate

/-- PENALTY_EXPIRY (R164). -/
theorem execPenaltyExpiry_moves {s t : State} (e : execPenaltyExpiry s = .next t) : Moves p s t :=
  perform_moves e fun u _ _ => tickEvent_moves u false false false .penalty

/-- PRESENCE_EXPIRY (R174). -/
theorem execPresenceExpiry_moves {s t : State} (e : execPresenceExpiry s = .next t) : Moves p s t :=
  perform_moves e fun u _ _ => tickEvent_moves u false false false .presence

/-- POWER_ON (R116, R123). -/
theorem execPowerOn_moves (sensed : List FuseBit) (r : Bool) {s t : State}
    (e : execPowerOn sensed r s = .next t) : Moves p s t := by
  obtain rfl := Host.Outcome.next.inj e
  exact ((Move.losesPower s.clearOut).moves.after).also (applyPower_moves _ sensed r)

/-- POWER_LOSS (R116, R125). -/
theorem execPowerLoss_moves {s t : State} (e : execPowerLoss s = .next t) : Moves p s t :=
  perform_moves e fun u _ _ => (Move.losesPower u).moves

/-- RESET_IN (R88). -/
theorem execResetIn_moves {s t : State} (e : execResetIn s = .next t) : Moves p s t :=
  perform_moves e fun u _ _ => (Move.restarts (u.setResetIn true) .resetIn).moves.after

/-- RESET_IN_RELEASE (R88). -/
theorem execResetInRelease_moves {s t : State} (e : execResetInRelease s = .next t) : Moves p s t :=
  perform_moves e fun _ _ _ => .still rfl

/-- PLATFORM_RESTART (R97, R146). -/
theorem execPlatformRestart_moves {s t : State} (e : execPlatformRestart s = .next t) : Moves p s t := by
  refine perform_moves e fun u _ _ => ?_
  split
  · exact (Move.restarts u _).moves
  · exact .refl u

/-- BOOT_FLOW_RESUME (R89). -/
theorem execBootFlowResume_moves (i j k : Byte) {s t : State} (e : execBootFlowResume i j k s = .next t) :
    Moves p s t := by
  refine perform_moves e fun u _ _ => ?_
  split
  · exact resumeFlow_moves u i j k
  · exact .refl u

/-- OWNER_RESET (R176). -/
theorem execOwnerReset_moves {s t : State} (e : execOwnerReset s = .next t) : Moves p s t := by
  refine perform_moves e fun u _ _ => ?_
  split <;> exact .still rfl

/-- FLOOR_BURN (R113). -/
theorem execFloorBurn_moves {s t : State} (e : execFloorBurn s = .next t) : Moves p s t := by
  refine perform_moves e fun u _ _ => ?_
  split <;> exact .still rfl

/-- ARRIVAL (R17). -/
theorem execArrival_moves (cmd : Byte) (addr : BitVec 32) {s t : State}
    (e : execArrival cmd addr s = .next t) : Moves p s t :=
  perform_moves e fun u _ _ => arrival_moves u cmd addr

/-- BASE_TICK (R11, R129, R174). -/
theorem execBaseTick_moves (code : BitVec 12) (pressed : Bool) (order : List TickEvent) {s t : State}
    (e : execBaseTick code pressed order s = .next t) : Moves p s t := by
  exact perform_moves e fun u _ _ => (tickEvents_moves _ _ _ _ _).after

/-! ### Every command -/

/-- What a command does is moves; the gate can open by the completion that tells a matched CRED_CHECK of id 0
alone (R162, R167). -/
theorem exec_moves {c : Instr} {s t : State} (e : exec c s = .next t) :
    Moves (c = .recordWriteComplete ∧ s.engine.state = .command (.credClear 0) ∧
      ∃ w, s.records.writing = some w ∧ involves w.requesters .command = true) s t := by
  cases hrow : serviceRow c with
  | some row =>
    rw [exec_service_row hrow] at e
    exact perform_moves e fun u _ _ => submit_moves u _ _
  | none =>
    cases c
    all_goals try (simp only [serviceRow, reduceCtorEq] at hrow; done)
    case read part count flash => exact execRead_moves part count flash e
    case readEnd => exact execReadEnd_moves e
    case program addr data n => exact execProgram_moves addr data n e
    case erase4k addr => exact execErase4k_moves addr e
    case erase64k addr => exact execErase64k_moves addr e
    case eraseChip => exact execEraseChip_moves e
    case wren => exact execWren_moves e
    case wrdi => exact execWrdi_moves e
    case statusRead sel count => exact execStatusRead_moves sel count e
    case statusWrite data => exact execStatusWrite_moves data e
    case ident count => exact execIdent_moves count e
    case flashReset => exact execFlashReset_moves e
    case other cmd data count => exact execOther_moves cmd data count e
    case flashFinished => exact execFlashFinished_moves e
    case chunkComplete data => exact execChunkComplete_moves data e
    case signatureComplete => exact execSignatureComplete_moves e
    case generationComplete => exact execGenerationComplete_moves e
    case recordWriteBegin => exact execRecordWriteBegin_moves e
    case recordWriteComplete => exact (execRecordWriteComplete_moves e).mono fun h => ⟨rfl, h⟩
    case fuseAttemptDone back => exact execFuseAttemptDone_moves back e
    case entryIntoLow => exact execEntryIntoLow_moves e
    case entryIntoNormal => exact execEntryIntoNormal_moves e
    case press => exact execPress_moves e
    case release => exact execRelease_moves e
    case trialExpiry => exact execTrialExpiry_moves e
    case gateExpiry => exact execGateExpiry_moves e
    case penaltyExpiry => exact execPenaltyExpiry_moves e
    case presenceExpiry => exact execPresenceExpiry_moves e
    case powerOn sensed r => exact execPowerOn_moves sensed r e
    case powerLoss => exact execPowerLoss_moves e
    case resetIn => exact execResetIn_moves e
    case resetInRelease => exact execResetInRelease_moves e
    case platformRestart => exact execPlatformRestart_moves e
    case bootFlowResume i j k => exact execBootFlowResume_moves i j k e
    case ownerReset => exact execOwnerReset_moves e
    case floorBurn => exact execFloorBurn_moves e
    case arrival cmd addr => exact execArrival_moves cmd addr e
    case baseTick code pressed order => exact execBaseTick_moves code pressed order e

end
end Sys2Proof.Machine

/-! What every step keeps: each invariant is looked at once for every move that a step can make, and once for
the commands where it is about the engine's work (R50, R52, R116, R120, R124, R135, R148, R164, R181). -/

namespace Sys2Proof.Machine

/-! ### The steps -/

/-- A step is its front command on the state with the queue's rest, or nothing (assumption 1). -/
theorem step_cases {s t : State} (e : step s = .next t) :
    t = s ∨ ∃ c, s.pending.head? = some c ∧ exec c (s.withPending s.pending.tail) = .next t := by
  unfold step at e
  split at e
  · next h => exact .inl (Host.Outcome.next.inj e).symm
  · next c rest h => exact .inr ⟨c, by rw [h]; rfl, by rw [h]; exact e⟩

/-- A step makes the moves of its command. -/
theorem step_moves {s t : State} (e : step s = .next t) : Moves True s t := by
  obtain rfl | ⟨c, _, h⟩ := step_cases e
  · exact .refl _
  · exact ((exec_moves h).mono fun _ => trivial).after

/-! ### The log (R148 to R150) -/

/-- A record appended at its index, OVERFLOW at index 63 alone (R148, R149). -/
theorem LogWellFormed.push {l : MeasLog} (h : LogWellFormed l) (hl : l.records.length < 64) {k : LogKind}
    (hk : k = .overflow ↔ l.records.length = 63) (st : Stage) (digest label : List Byte) :
    LogWellFormed (l.push k st digest label) := by
  obtain ⟨_, at_index, chain⟩ := h
  refine ⟨by simp [MeasLog.push]; omega, ?_, ?_⟩
  · intro i hi
    simp only [MeasLog.push] at hi ⊢
    rw [List.getElem_append]
    split
    · next before => exact at_index i before
    · next behind =>
      have last : i = l.records.length := by simp at hi; omega
      simpa [last] using hk
  · simp [MeasLog.push, chain]

/-- The capacity rule keeps the log well formed (R150). -/
theorem LogWellFormed.append {l : MeasLog} (h : LogWellFormed l) {k : LogKind} (hk : k ≠ .overflow)
    (st : Stage) (digest label : List Byte) : LogWellFormed (l.append k st digest label) := by
  rw [MeasLog.append_eq]
  split
  · exact h.push (by omega) (by simp only [hk, false_iff]; omega) st digest label
  · split
    · exact h.push (by omega) (by simpa) st _ _
    · exact h

/-- The log of a flow that begins (R148). -/
theorem LogWellFormed.empty : LogWellFormed MeasLog.empty := by
  simp [LogWellFormed, MeasLog.empty]

/-- Every move keeps the log well formed (R148). -/
theorem Move.log {p : Prop} {s t : State} (m : Move p s t) (h : LogWellFormed s.log) :
    LogWellFormed t.log := by
  cases m with
  | still e => rwa [show t.log = s.log from congrArg Tracked.log e]
  | logs k st digest label hk => exact h.append hk st digest label
  | restarts | losesPower | sensesUp => exact LogWellFormed.empty
  | violates | acks | requests | withdraws | counts | dequeues | writes | stores | loads | ports | burns
  | shuts | opens => exact h

/-! ### The waiting list (R124) -/

/-- The records that a request leaves waiting: those that waited and its own (R124). -/
theorem requestIn_records (l : List Entry) (rec : RecordId) (r : Requester) :
    (requestIn l rec r).map Entry.record =
      if rec ∈ l.map Entry.record then l.map Entry.record else l.map Entry.record ++ [rec] := by
  induction l with
  | nil => rfl
  | cons e es ih =>
    by_cases he : e.record = rec
    · simp [requestIn, he]
    · simp only [requestIn, if_neg he, List.map_cons, ih, List.mem_cons, Ne.symm he, false_or]
      split <;> rfl

/-- A request keeps the waiting list well formed (R124). -/
theorem WaitingWellFormed.request {l : List Entry} (h : WaitingWellFormed l) (rec : RecordId)
    (r : Requester) : WaitingWellFormed (requestIn l rec r) := by
  obtain ⟨once, asked⟩ := h
  refine ⟨?_, ?_⟩
  · rw [requestIn_records]
    split
    · exact once
    · next hn => exact List.nodup_append.2 ⟨once, by simp, by simpa using hn⟩
  · clear once
    induction l with
    | nil => simp [requestIn]
    | cons e es ih =>
      rw [List.forall_mem_cons] at asked
      unfold requestIn
      split
      · exact List.forall_mem_cons.2 ⟨Entry.join_requesters_ne_nil r asked.1, asked.2⟩
      · exact List.forall_mem_cons.2 ⟨asked.1, ih asked.2⟩

/-- Requesters gone, the waiting list stays well formed: entries left without one are gone too (R124). -/
theorem WaitingWellFormed.mapRequesters {l : List Entry} (h : WaitingWellFormed l)
    (f : Requester → Option Requester) : WaitingWellFormed (mapRequesters f l) := by
  rw [mapRequesters_eq]
  refine ⟨?_, fun e he => by simpa using (List.mem_filter.1 he).2⟩
  refine (h.1.sublist ?_)
  exact (List.filter_sublist.map Entry.record).trans (by simp [Function.comp_def])

/-- Every move keeps the waiting list well formed (R124). -/
theorem Move.waiting {p : Prop} {s t : State} (m : Move p s t) (h : WaitingWellFormed s.records.waiting) :
    WaitingWellFormed t.records.waiting := by
  cases m with
  | still e => rwa [show t.records = s.records from congrArg Tracked.records e]
  | requests rec who c => exact h.request rec _
  | withdraws => exact h.mapRequesters _
  | restarts why => exact h.mapRequesters _
  | dequeues hw =>
    obtain ⟨once, asked⟩ := h
    rw [hw] at once asked
    exact ⟨(List.nodup_cons.1 once).2, fun e he => asked e (List.mem_cons_of_mem _ he)⟩
  | losesPower | sensesUp => exact ⟨List.nodup_nil, fun e he => nomatch he⟩
  | logs | violates | acks | counts | writes | stores | loads | ports | burns | shuts | opens => exact h

/-! ### The counts (R164, R181) -/

/-- The content of a write in progress and the COUNTERS record keep f within its bound (R164). -/
theorem Store.put_counters_le {st : Store} {rec : RecordId} {content : RecContent}
    (h : ∀ c ∈ st.counters, c.failCount ≤ 20) (hc : ∀ c, content = .counters c → c.failCount ≤ 20) :
    ∀ c ∈ (st.put rec content).counters, c.failCount ≤ 20 := by
  unfold Store.put
  split
  all_goals first | exact h | skip
  case h_6 c => exact fun d hd => by cases hd; exact hc _ rfl

/-- The violation list holds at most 16 records with repeat counts in range (R181). -/
theorem mergeViolation_within {l : List ViolationRec} (v : Violation) (hl : l.length ≤ 16)
    (h : ∀ r ∈ l, 1 ≤ r.repeats ∧ r.repeats ≤ 65535) :
    (mergeViolation l v).length ≤ 16 ∧ ∀ r ∈ mergeViolation l v, 1 ≤ r.repeats ∧ r.repeats ≤ 65535 := by
  unfold mergeViolation
  split
  · next r hr =>
    have hne : l ≠ [] := by rintro rfl; simp at hr
    have hlen := List.length_pos_iff.2 hne
    split
    · refine ⟨by simp; omega, fun x hx => ?_⟩
      rcases List.mem_append.1 hx with hx | hx
      · exact h x (List.dropLast_subset l hx)
      · rw [List.mem_singleton.1 hx]
        exact ⟨by simp, by simp⟩
    · split
      · next hc =>
        have hc' : l.length < 16 := hc
        refine ⟨by simp; omega, fun x hx => ?_⟩
        rcases List.mem_append.1 hx with hx | hx
        · exact h x hx
        · rw [List.mem_singleton.1 hx]
          exact ⟨by simp, by simp⟩
      · exact ⟨hl, h⟩
  · exact ⟨by simp, by simp⟩

/-- Every move keeps the counts in their bounds (R164, R181). -/
theorem Move.countsInBounds {p : Prop} {s t : State} (m : Move p s t) (h : CountsInBounds s) :
    CountsInBounds t := by
  have whole := h
  obtain ⟨fails, stored, writing, few, repeats, total⟩ := h
  cases m with
  | still e =>
    unfold CountsInBounds at whole ⊢
    rwa [show t.cred.failCount = s.cred.failCount from congrArg Tracked.fails e,
      show t.records = s.records from congrArg Tracked.records e,
      show t.events.violations = s.events.violations from congrArg Tracked.violations e,
      show t.events.total = s.events.total from congrArg Tracked.total e]
  | violates v =>
    obtain ⟨few', repeats'⟩ := mergeViolation_within v few repeats
    refine ⟨fails, stored, writing, few', repeats', ?_⟩
    change min (s.events.total + 1) 4294967295 < 4294967296
    omega
  | acks mask =>
    unfold EventUnit.ack
    split
    · exact ⟨fails, stored, writing, Nat.zero_le _, fun _ hv => (nomatch hv), total⟩
    · exact whole
  | counts hn => exact ⟨hn, stored, writing, few, repeats, total⟩
  | writes rec rs =>
    refine ⟨fails, stored, ?_, few, repeats, total⟩
    intro w hw c hc
    cases hw
    cases rec <;> cases hc
    exact fails
  | stores hw =>
    exact ⟨fails, Store.put_counters_le stored (writing _ hw), by simp, few, repeats, total⟩
  | restarts why =>
    refine ⟨fails, stored, ?_, by simp [State.startFlow, EventUnit.cleared],
      by simp [State.startFlow, EventUnit.cleared], by simp [State.startFlow, EventUnit.cleared]⟩
    intro w hw c hc
    obtain ⟨v, hv, rfl⟩ := Option.map_eq_some_iff.1 (Option.mem_def.1 hw)
    exact writing v hv c hc
  | losesPower =>
    exact ⟨Nat.zero_le _, stored, fun _ hw => (nomatch hw), Nat.zero_le _, fun _ hv => (nomatch hv),
      Nat.succ_pos _⟩
  | sensesUp sensed r =>
    refine ⟨?_, stored, fun _ hw => (nomatch hw), Nat.zero_le _, fun _ hv => (nomatch hv), Nat.succ_pos _⟩
    change (s.records.store.counters.map CountersRec.failCount).getD 0 ≤ 20
    cases hc : s.records.store.counters with
    | none => exact Nat.zero_le _
    | some c => exact stored c hc
  | logs | requests | withdraws | dequeues | loads | ports | burns | shuts | opens => exact whole

/-! ### The Region Tables (R50, R52) -/

/-- The tables of a state. -/
theorem tablesWithin_iff (s : State) : TablesWithin s ↔ ∀ t ∈ s.tables, TableWithin t := by
  simp [TablesWithin, State.tables, or_imp, forall_and]

/-- Every move keeps the tables within what was loaded (R52). -/
theorem Move.tablesWithin {p : Prop} {s t : State} (m : Move p s t) (h : TablesWithin s) :
    TablesWithin t := by
  have whole := h
  obtain ⟨table, arrived, reads⟩ := h
  cases m with
  | still e =>
    unfold TablesWithin at whole ⊢
    rwa [show t.filter.table = s.filter.table from congrArg Tracked.table e,
      show t.up.arrived = s.up.arrived from congrArg Tracked.arrived e,
      show t.up.reads = s.up.reads from congrArg Tracked.reads e]
  | loads ht => exact ⟨ht table, arrived, reads⟩
  | ports ht => exact (tablesWithin_iff _).2 fun u hu => (tablesWithin_iff s).1 whole u (ht u hu)
  | restarts why =>
    refine ⟨TableWithin.unloaded, fun a ha => ?_, fun r hr => ?_⟩
    · obtain ⟨b, hb, rfl⟩ := Option.map_eq_some_iff.1 (Option.mem_def.1 ha)
      exact arrived b hb
    · obtain ⟨b, hb, rfl⟩ := List.mem_map.1 hr
      exact reads b hb
  | losesPower | sensesUp => exact ⟨TableWithin.unloaded, fun _ ha => (nomatch ha), fun _ hr => (nomatch hr)⟩
  | logs | violates | acks | requests | withdraws | counts | dequeues | writes | stores | burns | shuts
  | opens => exact whole

/-! ### The fuses (R116, R120) -/

/-- From one state to another no fuse is unburned: neither in the array nor, while the part is powered, in the
image that it reads (R116, R120). -/
structure FusesOnward (s t : State) : Prop where
  image : t.powered = true → t.fuses.image = t.fuses.array
  burned : BurnedWithin s.fuses.array t.fuses.array
  deviceId : t.fuses.array.deviceId = s.fuses.array.deviceId
  calibration : t.fuses.array.calibration = s.fuses.array.calibration

/-- Further bits burned. -/
theorem FuseRows.burned_foldl_set (l : List FuseBit) (f : FuseRows) :
    BurnedWithin f (l.foldl FuseRows.set f) := by
  induction l generalizing f with
  | nil => exact fun _ h => h
  | cons b l ih => exact fun c h => ih _ c (FuseRows.burned_set f b c h)

/-- Burning a bit leaves the rows that hold no bit of it. -/
theorem FuseRows.set_fixed (f : FuseRows) (b : FuseBit) :
    (f.set b).deviceId = f.deviceId ∧ (f.set b).calibration = f.calibration := by
  unfold FuseRows.set
  split <;> exact ⟨rfl, rfl⟩

/-- So does burning several. -/
theorem FuseRows.foldl_set_fixed (l : List FuseBit) (f : FuseRows) :
    (l.foldl FuseRows.set f).deviceId = f.deviceId ∧
      (l.foldl FuseRows.set f).calibration = f.calibration := by
  induction l generalizing f with
  | nil => exact ⟨rfl, rfl⟩
  | cons b l ih =>
    obtain ⟨id, cal⟩ := ih (f.set b)
    obtain ⟨id', cal'⟩ := f.set_fixed b
    exact ⟨id.trans id', cal.trans cal'⟩

/-- The array's bits after a loss of power (R116). -/
theorem FuseArray.powerLost_array (f : FuseArray) : f.powerLost.array = f.array := by
  unfold FuseArray.powerLost
  split <;> rfl

/-- A move that leaves the fuses leaves them onward. -/
theorem FusesOnward.same {a s t : State} (h : FusesOnward a s) (hf : t.fuses.image = s.fuses.image)
    (ha : t.fuses.array = s.fuses.array) (hp : t.powered = s.powered) : FusesOnward a t := by
  obtain ⟨image, burned, deviceId, calibration⟩ := h
  exact ⟨fun ht => by rw [hf, ha]; exact image (hp ▸ ht), by rwa [ha], by rwa [ha], by rwa [ha]⟩

/-- Every move takes the fuses onward (R116, R120). -/
theorem Move.fuses {p : Prop} {a s t : State} (m : Move p s t) (h : FusesOnward a s) : FusesOnward a t := by
  have whole := h
  obtain ⟨image, burned, deviceId, calibration⟩ := h
  cases m with
  | still e =>
    exact whole.same (congrArg Tracked.image e) (congrArg Tracked.array e) (congrArg Tracked.powered e)
  | @burns f b hi ha =>
    obtain ⟨id, cal⟩ := s.fuses.array.set_fixed b
    refine ⟨fun hp => ?_, fun c hc => ?_, ?_, ?_⟩ <;> simp only [ha]
    · rw [hi, image hp]
    · exact FuseRows.burned_set _ b c (burned c hc)
    · exact id.trans deviceId
    · exact cal.trans calibration
  | losesPower =>
    have kept := FuseArray.powerLost_array s.fuses
    exact ⟨fun hp => (nomatch hp), fun c hc => by
      change s.fuses.powerLost.array.burned c = true
      rw [kept]; exact burned c hc, (congrArg FuseRows.deviceId kept).trans deviceId,
      (congrArg FuseRows.calibration kept).trans calibration⟩
  | sensesUp sensed r =>
    obtain ⟨id, cal⟩ :=
      FuseRows.foldl_set_fixed (s.fuses.doubtful.filter fun b => sensed.contains b) s.fuses.array
    exact ⟨fun _ => rfl, fun c hc => FuseRows.burned_foldl_set _ _ c (burned c hc), id.trans deviceId,
      cal.trans calibration⟩
  | logs | violates | acks | requests | withdraws | counts | dequeues | writes | stores | loads | ports
  | shuts | opens | restarts => exact whole.same rfl rfl rfl

/-! ### The gate (R162, R163) -/

/-- Without leave to open it the gate stays CLOSED (R162). -/
theorem Move.gateShut {p : Prop} (hp : ¬ p) {s t : State} (m : Move p s t) (h : s.cred.gateOpen = false) :
    t.cred.gateOpen = false := by
  cases m with
  | still e => rwa [show t.cred.gateOpen = s.cred.gateOpen from congrArg Tracked.gateOpen e]
  | opens hq => exact absurd hq hp
  | shuts | restarts | losesPower | sensesUp => rfl
  | logs | violates | acks | requests | withdraws | counts | dequeues | writes | stores | loads | ports
  | burns => exact h

end Sys2Proof.Machine

/-! What every step keeps: what the command in progress awaits, for every command by the law of its operation,
and the statements (R108, R111, R124, R135, R167). -/

namespace Sys2Proof.Machine

/-! ### What the command in progress awaits (R124, R135) -/

/-- PROGRAM's judgement (R21, R40, R60). -/
theorem program_awaits {s : State} (h : AwaitsMatch s) (p : Snapshot) (a : Nat) (data : List Byte) :
    AwaitsMatch (s.programUnit p a data) := by
  unfold State.programUnit
  dsimp only
  split
  · split
    · exact frameProgram_awaits h _ _
    · exact h.of_eq rfl rfl
  · exact judgeUnit_awaits h _ _ _ _ _ _ _

/-- ERASE_4K's judgement (R40, R60). -/
theorem erase4k_awaits {s : State} (h : AwaitsMatch s) (p : Snapshot) (a : Nat) :
    AwaitsMatch (s.erase4kUnit p a) := by
  unfold State.erase4kUnit
  dsimp only
  split
  · split
    · exact abort_awaits h
    · exact h
  · exact judgeUnit_awaits h _ _ _ _ _ _ _

/-- ERASE_64K's judgement (R40, R60). -/
theorem erase64k_awaits {s : State} (h : AwaitsMatch s) (p : Snapshot) (a : Nat) :
    AwaitsMatch (s.erase64kUnit p a) := by
  unfold State.erase64kUnit
  dsimp only
  split
  · exact abort_awaits h
  · exact judgeUnit_awaits h _ _ _ _ _ _ _

/-- The port's own answers leave the Record Store and the engine (R24 to R29). -/
theorem transact_leaves_awaits {s : State} (h : AwaitsMatch s) (cls : TxClass) (a : Nat)
    {early : State → State} {act : Snapshot → State → State}
    (he : ∀ u, (early u).records = u.records ∧ (early u).engine = u.engine)
    (ha : ∀ p u, (act p u).records = u.records ∧ (act p u).engine = u.engine) :
    AwaitsMatch (s.transact cls a early act) :=
  transact_awaits h cls a early act (fun u hu => hu.of_eq (he u).1 (congrArg Engine.state (he u).2))
    fun p u hu => hu.of_eq (ha p u).1 (congrArg Engine.state (ha p u).2)

/-- A READ leaves the Record Store and the engine (R39). -/
theorem readBytes_records (n : Nat) : ∀ (s : State) (r : OpenRead) (flash : List Byte),
    (readBytes n s r flash).1.records = s.records ∧ (readBytes n s r flash).1.engine = s.engine := by
  induction n with
  | zero => exact fun _ _ _ => ⟨rfl, rfl⟩
  | succ n ih =>
    intro s r flash
    obtain ⟨e, g⟩ := ih (s.readByte r flash).1 (s.readByte r flash).2.1 (s.readByte r flash).2.2
    obtain ⟨e', g'⟩ := readByte_records s r flash
    exact ⟨e.trans e', g.trans g'⟩

/-- READ (R39). -/
theorem read_awaits {s : State} (h : AwaitsMatch s) (part : ReadPart) (count : Nat) (flash : List Byte) :
    AwaitsMatch (s.read part count flash) := by
  have clock : ∀ {u : State} (others : List OpenRead) (r : OpenRead), AwaitsMatch u →
      AwaitsMatch (u.clockRead others r count flash) := fun {u} others r hu =>
    hu.of_eq (readBytes_records count u r flash).1 (congrArg Engine.state (readBytes_records count u r flash).2)
  unfold State.read
  split
  · exact clock _ _ (h.of_eq rfl rfl)
  · split
    · exact clock _ _ h
    · exact h

/-- The port freed (R30, R32). -/
theorem freePort_awaits {s : State} (h : AwaitsMatch s) : AwaitsMatch s.freePort := by
  rw [State.freePort_eq]
  split <;> exact h.of_eq rfl rfl

/-- READ_END (R30, R33). -/
theorem endRead_awaits {s : State} (h : AwaitsMatch s) : AwaitsMatch s.endRead := by
  unfold State.endRead
  split
  · exact h
  · dsimp only
    split
    · exact freePort_awaits (h.of_eq rfl rfl)
    · exact h.of_eq rfl rfl

/-- The events of a tick, the arbiter between them (R68). -/
theorem tickEvents_awaits (a b c : Bool) (l : List TickEvent) : ∀ {s : State}, AwaitsMatch s →
    AwaitsMatch (l.foldl (fun u e => (u.tickEvent a b c e).settled) s) := by
  induction l with
  | nil => exact fun h => h
  | cons e l ih => exact fun h => ih (settled_awaits (tickEvent_awaits h a b c e))

/-- PROGRAM (R21). -/
theorem execProgram_awaits (addr : Address) (data : List Byte) (n : Nat) {s t : State}
    (e : execProgram addr data n s = .next t) (h : AwaitsMatch s) : AwaitsMatch t := by
  refine perform_awaits h (fun u hu => transact_awaits hu _ _ _ _ (fun v hv => hv) fun p v hv => ?_) e
  split
  · exact (program_awaits hv p _ _).of_eq rfl rfl
  · exact hv

/-- ERASE_4K (R21, R40). -/
theorem execErase4k_awaits (addr : Address) {s t : State} (e : execErase4k addr s = .next t)
    (h : AwaitsMatch s) : AwaitsMatch t := by
  refine perform_awaits h (fun u hu => transact_awaits hu _ _ _ _ (fun v hv => hv) fun p v hv => ?_) e
  split
  · exact (erase4k_awaits hv p _).of_eq rfl rfl
  · exact hv

/-- ERASE_64K (R21, R40). -/
theorem execErase64k_awaits (addr : Address) {s t : State} (e : execErase64k addr s = .next t)
    (h : AwaitsMatch s) : AwaitsMatch t := by
  refine perform_awaits h (fun u hu => transact_awaits hu _ _ _ _ (fun v hv => hv) fun p v hv => ?_) e
  split
  · exact (erase64k_awaits hv p _).of_eq rfl rfl
  · exact hv

/-- ERASE_CHIP (R27). -/
theorem execEraseChip_awaits {s t : State} (e : execEraseChip s = .next t) (h : AwaitsMatch s) :
    AwaitsMatch t := by
  refine perform_awaits h (fun u hu => transact_leaves_awaits hu _ _ (fun _ => ⟨rfl, rfl⟩) fun p v => ?_) e
  split
  · split <;> exact ⟨rfl, rfl⟩
  · exact ⟨rfl, rfl⟩

/-- WREN (R20, R22). -/
theorem execWren_awaits {s t : State} (e : execWren s = .next t) (h : AwaitsMatch s) : AwaitsMatch t := by
  refine perform_awaits h (fun u hu => transact_leaves_awaits hu _ _ (fun _ => ⟨rfl, rfl⟩) fun p v => ?_) e
  split <;> exact ⟨rfl, rfl⟩

/-- WRDI (R20). -/
theorem execWrdi_awaits {s t : State} (e : execWrdi s = .next t) (h : AwaitsMatch s) : AwaitsMatch t := by
  refine perform_awaits h (fun u hu => transact_leaves_awaits hu _ _ (fun _ => ⟨rfl, rfl⟩) fun p v => ?_) e
  exact ⟨rfl, rfl⟩

/-- STATUS_READ (R24). -/
theorem execStatusRead_awaits (sel : StatusByte) (count : Nat) {s t : State}
    (e : execStatusRead sel count s = .next t) (h : AwaitsMatch s) : AwaitsMatch t := by
  refine perform_awaits h (fun u hu => transact_leaves_awaits hu _ _ (fun v => ?_) fun p v => ?_) e
  all_goals exact ⟨rfl, rfl⟩

/-- STATUS_WRITE (R26). -/
theorem execStatusWrite_awaits (data : List Byte) {s t : State} (e : execStatusWrite data s = .next t)
    (h : AwaitsMatch s) : AwaitsMatch t := by
  refine perform_awaits h (fun u hu => transact_leaves_awaits hu _ _ (fun _ => ⟨rfl, rfl⟩) fun p v => ?_) e
  split
  · split <;> exact ⟨rfl, rfl⟩
  · exact ⟨rfl, rfl⟩

/-- IDENT (R25). -/
theorem execIdent_awaits (count : Nat) {s t : State} (e : execIdent count s = .next t)
    (h : AwaitsMatch s) : AwaitsMatch t := by
  refine perform_awaits h (fun u hu => transact_leaves_awaits hu _ _ (fun v => ?_) fun p v => ?_) e
  all_goals exact ⟨rfl, rfl⟩

/-- FLASH_RESET (R28). -/
theorem execFlashReset_awaits {s t : State} (e : execFlashReset s = .next t) (h : AwaitsMatch s) :
    AwaitsMatch t := by
  refine perform_awaits h (fun u hu => transact_leaves_awaits hu _ _ (fun _ => ⟨rfl, rfl⟩) fun p v => ?_) e
  exact ⟨rfl, rfl⟩

/-- OTHER (R29). -/
theorem execOther_awaits (cmd : Byte) (data : List Byte) (count : Nat) {s t : State}
    (e : execOther cmd data count s = .next t) (h : AwaitsMatch s) : AwaitsMatch t := by
  refine perform_awaits h (fun u hu => transact_leaves_awaits hu _ _ (fun v => ?_) fun p v => ?_) e
  all_goals exact ⟨rfl, rfl⟩

/-- FLASH_FINISHED (R30). -/
theorem execFlashFinished_awaits {s t : State} (e : execFlashFinished s = .next t)
    (h : AwaitsMatch s) : AwaitsMatch t := by
  refine perform_awaits (e := e) h fun u hu => ?_
  split
  · exact freePort_awaits (hu.of_eq rfl rfl)
  · exact hu

/-- FUSE_ATTEMPT_DONE (R119). -/
theorem execFuseAttemptDone_awaits (back : Bool) {s t : State} (e : execFuseAttemptDone back s = .next t)
    (h : AwaitsMatch s) : AwaitsMatch t := by
  refine perform_awaits (e := e) h fun u hu => ?_
  split
  · exact hu
  · exact fuseAttempt_awaits hu _ _

/-- ENTRY_INTO_LOW (R131). -/
theorem execEntryIntoLow_awaits {s t : State} (e : execEntryIntoLow s = .next t)
    (h : AwaitsMatch s) : AwaitsMatch t := by
  refine perform_awaits (e := e) h fun u hu => ?_
  split
  · exact enterLow_awaits hu
  · exact hu

/-- ENTRY_INTO_NORMAL (R131). -/
theorem execEntryIntoNormal_awaits {s t : State} (e : execEntryIntoNormal s = .next t)
    (h : AwaitsMatch s) : AwaitsMatch t := by
  refine perform_awaits (e := e) h fun u hu => ?_
  split
  · exact hu
  · exact enterNormal_awaits hu

/-- PRESS (R174). -/
theorem execPress_awaits {s t : State} (e : execPress s = .next t)
    (h : AwaitsMatch s) : AwaitsMatch t := by
  refine perform_awaits (e := e) h fun u hu => ?_
  split
  · exact hu
  · exact (press_awaits hu).1

/-- RELEASE (R174). -/
theorem execRelease_awaits {s t : State} (e : execRelease s = .next t)
    (h : AwaitsMatch s) : AwaitsMatch t := by
  refine perform_awaits (e := e) h fun u hu => ?_
  split
  · exact (press_awaits hu).2
  · exact hu

/-- PLATFORM_RESTART (R97, R146). -/
theorem execPlatformRestart_awaits {s t : State} (e : execPlatformRestart s = .next t)
    (h : AwaitsMatch s) : AwaitsMatch t := by
  refine perform_awaits (e := e) h fun u hu => ?_
  split
  · exact startFlow_awaits hu _
  · exact hu

/-- BOOT_FLOW_RESUME (R89). -/
theorem execBootFlowResume_awaits (i j k : Byte) {s t : State} (e : execBootFlowResume i j k s = .next t)
    (h : AwaitsMatch s) : AwaitsMatch t := by
  refine perform_awaits (e := e) h fun u hu => ?_
  split
  · exact resumeFlow_awaits hu i j k
  · exact hu

/-- OWNER_RESET (R176). -/
theorem execOwnerReset_awaits {s t : State} (e : execOwnerReset s = .next t)
    (h : AwaitsMatch s) : AwaitsMatch t := by
  refine perform_awaits (e := e) h fun u hu => ?_
  split <;> exact hu.of_eq rfl rfl

/-- FLOOR_BURN (R113). -/
theorem execFloorBurn_awaits {s t : State} (e : execFloorBurn s = .next t)
    (h : AwaitsMatch s) : AwaitsMatch t := by
  refine perform_awaits (e := e) h fun u hu => ?_
  split <;> exact hu.of_eq rfl rfl

/-- TRIAL_EXPIRY (R107). -/
theorem execTrialExpiry_awaits {s t : State} (e : execTrialExpiry s = .next t)
    (h : AwaitsMatch s) : AwaitsMatch t := by
  exact perform_awaits (e := e) h fun _ hu => tickEvent_awaits hu false false false .trial

/-- GATE_EXPIRY (R163). -/
theorem execGateExpiry_awaits {s t : State} (e : execGateExpiry s = .next t)
    (h : AwaitsMatch s) : AwaitsMatch t := by
  exact perform_awaits (e := e) h fun _ hu => tickEvent_awaits hu false false false .gate

/-- PENALTY_EXPIRY (R164). -/
theorem execPenaltyExpiry_awaits {s t : State} (e : execPenaltyExpiry s = .next t)
    (h : AwaitsMatch s) : AwaitsMatch t := by
  exact perform_awaits (e := e) h fun _ hu => tickEvent_awaits hu false false false .penalty

/-- PRESENCE_EXPIRY (R174). -/
theorem execPresenceExpiry_awaits {s t : State} (e : execPresenceExpiry s = .next t)
    (h : AwaitsMatch s) : AwaitsMatch t := by
  exact perform_awaits (e := e) h fun _ hu => tickEvent_awaits hu false false false .presence

/-- RESET_IN (R88). -/
theorem execResetIn_awaits {s t : State} (e : execResetIn s = .next t)
    (h : AwaitsMatch s) : AwaitsMatch t := by
  refine perform_awaits (e := e) h fun u hu => ?_
  exact startFlow_awaits (AwaitsMatch.of_eq (t := u.setResetIn true) hu rfl rfl) _

/-- BASE_TICK (R11, R129, R174). -/
theorem execBaseTick_awaits (code : BitVec 12) (pressed : Bool) (order : List TickEvent) {s t : State} (e : execBaseTick code pressed order s = .next t)
    (h : AwaitsMatch s) : AwaitsMatch t := by
  refine perform_awaits (e := e) h fun u hu => ?_
  exact tickEvents_awaits _ _ _ _ (AwaitsMatch.of_eq (t := u.tickCounts code pressed) hu rfl rfl)

/-- RESET_IN_RELEASE (R88). -/
theorem execResetInRelease_awaits {s t : State} (e : execResetInRelease s = .next t)
    (h : AwaitsMatch s) : AwaitsMatch t := by
  refine perform_awaits (e := e) h fun u hu => ?_
  exact hu.of_eq rfl rfl

/-- ARRIVAL (R17). -/
theorem execArrival_awaits (cmd : Byte) (addr : BitVec 32) {s t : State} (e : execArrival cmd addr s = .next t)
    (h : AwaitsMatch s) : AwaitsMatch t := by
  refine perform_awaits (e := e) h fun u hu => ?_
  exact hu.of_eq rfl rfl

/-- Every command keeps what the command in progress awaits (R108, R111, R124, R135, R167). -/
theorem exec_awaits {c : Instr} {s t : State} (e : exec c s = .next t) (h : AwaitsMatch s) :
    AwaitsMatch t := by
  cases hrow : serviceRow c with
  | some row =>
    rw [exec_service_row hrow] at e
    exact perform_awaits h (fun u hu => submit_awaits hu _ _) e
  | none =>
    cases c
    all_goals try (simp only [serviceRow, reduceCtorEq] at hrow; done)
    case read part count flash => exact perform_awaits h (fun u hu => read_awaits hu _ _ _) e
    case readEnd => exact perform_awaits h (fun u hu => endRead_awaits hu) e
    case program addr data n => exact execProgram_awaits addr data n e h
    case erase4k addr => exact execErase4k_awaits addr e h
    case erase64k addr => exact execErase64k_awaits addr e h
    case eraseChip => exact execEraseChip_awaits e h
    case wren => exact execWren_awaits e h
    case wrdi => exact execWrdi_awaits e h
    case statusRead sel count => exact execStatusRead_awaits sel count e h
    case statusWrite data => exact execStatusWrite_awaits data e h
    case ident count => exact execIdent_awaits count e h
    case flashReset => exact execFlashReset_awaits e h
    case other cmd data count => exact execOther_awaits cmd data count e h
    case flashFinished => exact execFlashFinished_awaits e h
    case chunkComplete data => exact perform_awaits h (fun u hu => chunkBytes_awaits hu _) e
    case signatureComplete => exact perform_awaits h (fun u hu => finishSignature_awaits hu) e
    case generationComplete =>
      exact perform_awaits h (fun u hu => observeAbort_awaits (finishGeneration_awaits hu)) e
    case recordWriteBegin => exact perform_awaits h (fun u hu => recordBegin_awaits hu) e
    case recordWriteComplete => exact perform_awaits h (fun u hu => recordComplete_awaits hu) e
    case fuseAttemptDone back => exact execFuseAttemptDone_awaits back e h
    case entryIntoLow => exact execEntryIntoLow_awaits e h
    case entryIntoNormal => exact execEntryIntoNormal_awaits e h
    case press => exact execPress_awaits e h
    case release => exact execRelease_awaits e h
    case trialExpiry => exact execTrialExpiry_awaits e h
    case gateExpiry => exact execGateExpiry_awaits e h
    case penaltyExpiry => exact execPenaltyExpiry_awaits e h
    case presenceExpiry => exact execPresenceExpiry_awaits e h
    case powerOn sensed r =>
      obtain rfl := Host.Outcome.next.inj e
      exact applyPower_awaits _ sensed r
    case powerLoss => exact perform_awaits h (fun u _ => poweredOff_awaits rfl rfl rfl) e
    case resetIn => exact execResetIn_awaits e h
    case resetInRelease => exact execResetInRelease_awaits e h
    case platformRestart => exact execPlatformRestart_awaits e h
    case bootFlowResume i j k => exact execBootFlowResume_awaits i j k e h
    case ownerReset => exact execOwnerReset_awaits e h
    case floorBurn => exact execFloorBurn_awaits e h
    case arrival cmd addr => exact execArrival_awaits cmd addr e h
    case baseTick code pressed order => exact execBaseTick_awaits code pressed order e h

/-! ### The statements -/

/-- Settles O56, by one look at each move for the log, the list and the counts, and by each command's own
lemma for what the command in progress awaits. -/
theorem stepKeepsLogListAndCounts : Obligations.StepKeepsLogListAndCounts := by
  refine ⟨fun s t e h => ?_, fun s t e h => ?_, fun s t e h => ?_, fun s t e h => ?_⟩
  · exact (step_moves e).keep (P := fun u => LogWellFormed u.log) Move.log h
  · exact (step_moves e).keep (P := fun u => WaitingWellFormed u.records.waiting) Move.waiting h
  · exact (step_moves e).keep Move.countsInBounds h
  · obtain rfl | ⟨c, _, he⟩ := step_cases e
    · exact h
    · exact exec_awaits he (h.of_eq rfl rfl)

/-- Settles O58, by one look at each move. -/
theorem stepKeepsTheTablesWithin : Obligations.StepKeepsTheTablesWithin :=
  fun _ _ e h => (step_moves e).keep Move.tablesWithin h

/-- Settles O59, by one look at each move: an image that is the array, before and after, follows the array. -/
theorem stepNeverUnburns : Obligations.StepNeverUnburns := by
  intro s t e h
  obtain ⟨image, burned, deviceId, calibration⟩ :=
    (step_moves e).keep (P := FusesOnward s) Move.fuses ⟨h, fun _ hb => hb, rfl, rfl⟩
  refine ⟨image, burned, deviceId, calibration, fun hs ht => ?_⟩
  rwa [h hs, image ht]

/-- Settles O60: the gate opens by one move alone, and what the command awaits names the write that makes it. -/
theorem gateOpensOnlyAfterCredCheck : Obligations.GateOpensOnlyAfterCredCheck := by
  intro s t e h shut opened
  obtain rfl | ⟨c, front, he⟩ := step_cases e
  · exact absurd opened (by simp [shut])
  · by_cases hp : c = .recordWriteComplete ∧ s.engine.state = .command (.credClear 0) ∧
        ∃ w, s.records.writing = some w ∧ involves w.requesters .command = true
    · obtain ⟨rfl, matched, w, writing, told⟩ := hp
      obtain ⟨asked, _, _, _, clears⟩ := h
      obtain ⟨q, hq, own⟩ : ∃ q ∈ w.requesters, q.who = .command := by simpa [involves] using told
      have begun : (w.record, q.change) ∈ s.commandAsks ++ s.commandBegun := by
        refine List.mem_append_right _ ?_
        rw [State.commandBegun, writing]
        exact mem_commandsOf hq own
      have counters : w.record ∈ s.engine.state.awaits :=
        asked.mem_iff.1 (List.mem_map_of_mem (f := Prod.fst) begun)
      rw [matched] at counters
      exact ⟨matched, front, w, writing, List.mem_singleton.1 counters, q, hq, own,
        clears 0 matched _ begun⟩
    · have still := (exec_moves he).keep (P := fun u => u.cred.gateOpen = false) (Move.gateShut hp) shut
      exact absurd opened (by simp [still])

end Sys2Proof.Machine

/-! S0, the flow, the gate and GATE through every command: an operation outside S0 keeps the gate's clock and
never lowers the stage, one in S0 leaves the part at rest until the flow releases it (R2, R3, R68, R89, R113,
R162, R163, R174). -/

namespace Sys2Proof.Machine

/-! ### What the invariant looks at -/

/-- The stage, the flow's phase, the gate and GATE. -/
structure Clock where
  stage : Stage
  phase : FlowPhase
  gateOpen : Bool
  gate : Channel

/-- The engine, its jobs and frame, the Presence Unit, the deferral flag and the ARRIVAL. -/
structure Rest where
  engine : EngineState
  ownerReset : Bool
  floorBurn : Bool
  held : Option Frame
  presence : PresenceState
  deferral : Bool
  arrived : Option Arrived

/-- A state's clock. -/
def State.clock (s : State) : Clock := ⟨s.stage, s.flow.phase, s.cred.gateOpen, s.timers.gate⟩

/-- A state's rest. -/
def State.rest (s : State) : Rest :=
  ⟨s.engine.state, s.engine.ownerResetPending, s.engine.floorBurnPending, s.aperture.held,
    s.presence.state, s.slots.deferral, s.up.arrived⟩

/-- Both. -/
def State.posture (s : State) : Clock × Rest := (s.clock, s.rest)

/-- What the flow's invariant asks within a step: in S0 the engine is idle with nothing waiting for it (R68). -/
structure FlowBody (s : State) : Prop where
  stage : StageMatchesFlow s
  gate : s.cred.gateOpen = true ↔ GateTimed s
  still : s.stage = .s0 → s.engine.state = .idle ∧ s.NoWork ∧ s.presence.state = .idle ∧
    s.slots.deferral = false ∧ ∀ a ∈ s.up.arrived, a.snap.stage = .s0

/-- It looks at nothing else. -/
theorem FlowBody.of_posture {s t : State} (h : FlowBody s) (e : t.posture = s.posture) : FlowBody t := by
  obtain ⟨stage, gate, still⟩ := h
  have ec : t.clock = s.clock := congrArg Prod.fst e
  have er : t.rest = s.rest := congrArg Prod.snd e
  have e1 : t.stage = s.stage := congrArg Clock.stage ec
  have e2 : t.flow.phase = s.flow.phase := congrArg Clock.phase ec
  have e3 : t.cred.gateOpen = s.cred.gateOpen := congrArg Clock.gateOpen ec
  have e4 : t.timers.gate = s.timers.gate := congrArg Clock.gate ec
  have e5 : t.engine.state = s.engine.state := congrArg Rest.engine er
  have e6 : t.engine.ownerResetPending = s.engine.ownerResetPending := congrArg Rest.ownerReset er
  have e7 : t.engine.floorBurnPending = s.engine.floorBurnPending := congrArg Rest.floorBurn er
  have e8 : t.aperture.held = s.aperture.held := congrArg Rest.held er
  have e9 : t.presence.state = s.presence.state := congrArg Rest.presence er
  have e10 : t.slots.deferral = s.slots.deferral := congrArg Rest.deferral er
  have e11 : t.up.arrived = s.up.arrived := congrArg Rest.arrived er
  refine ⟨?_, ?_, ?_⟩
  · unfold StageMatchesFlow at *
    rwa [e1, e2]
  · unfold GateTimed at *
    rwa [e3, e4]
  · unfold State.NoWork at *
    rwa [e1, e5, e6, e7, e8, e9, e10, e11]

/-! ### Stages that follow one another -/

theorem Stage.Follows.refl (st : Stage) : Stage.Follows st st := by
  cases st with
  | num n => exact le_refl n
  | unset => trivial

theorem Stage.Follows.trans {a b c : Stage} (h : Stage.Follows a b) (k : Stage.Follows b c) :
    Stage.Follows a c := by
  cases a <;> cases b <;> cases c <;> simp only [Stage.Follows] at *
  exact h.trans k

/-- A stage above S0 is followed by none but such (R3). -/
theorem Stage.Follows.ne_s0 {a b : Stage} (h : Stage.Follows a b) (ha : a ≠ .s0) : b ≠ .s0 := by
  rintro rfl
  cases a with
  | num n => exact ha (congrArg Stage.num (Fin.le_zero_iff.1 h))
  | unset => exact h

/-! ### Outside S0 -/

/-- An operation of a part outside S0: the flow is left at rest, the stage does not fall, and the gate stays
OPEN exactly while GATE runs or its expiry waits (R3, R162, R163). -/
structure Awake (s t : State) : Prop where
  phase : t.flow.phase = s.flow.phase
  stage : Stage.Follows s.stage t.stage
  gate : (s.cred.gateOpen = true ↔ GateTimed s) → (t.cred.gateOpen = true ↔ GateTimed t)

/-- An operation that leaves the clock. -/
theorem Awake.same {s t : State} (e : t.clock = s.clock := by rfl) : Awake s t := by
  have e3 : t.cred.gateOpen = s.cred.gateOpen := congrArg Clock.gateOpen e
  have e4 : t.timers.gate = s.timers.gate := congrArg Clock.gate e
  refine ⟨congrArg Clock.phase e, ?_, ?_⟩
  · rw [show t.stage = s.stage from congrArg Clock.stage e]
    exact .refl _
  · unfold GateTimed
    rw [e3, e4]
    exact id

theorem Awake.refl (s : State) : Awake s s := .same

/-- One operation after another. -/
theorem Awake.also {s t u : State} (h : Awake s t) (k : Awake t u) : Awake s u :=
  ⟨k.phase.trans h.phase, h.stage.trans k.stage, fun g => k.gate (h.gate g)⟩

/-- Then one that leaves the clock. -/
theorem Awake.upto {s a t : State} (h : Awake s a) (e : t.clock = a.clock := by rfl) : Awake s t := h.also (.same e)

/-- First one that leaves the clock. -/
theorem Awake.after {s b t : State} (h : Awake b t) (e : b.clock = s.clock := by rfl) : Awake s t :=
  (Awake.same e).also h

/-- The gate opens with GATE started (R162). -/
theorem openGate_awake (s : State) : Awake s s.openGate :=
  ⟨rfl, .refl _, fun _ => ⟨fun _ => .inl rfl, fun _ => rfl⟩⟩

/-- GATE restarted while the gate is OPEN (R162). -/
theorem startGate_awake {s : State} (h : s.cred.gateOpen = true) : Awake s s.startGate :=
  ⟨rfl, .refl _, fun _ => ⟨fun _ => .inl rfl, fun _ => h⟩⟩

/-- A channel stopped runs no more and has no expiry (R14, R15). -/
theorem Channel.stop_untimed (c : Channel) : c.stop.state = .stopped := by
  unfold Channel.stop
  split
  · rfl
  · rfl
  · next h => exact h

/-- The gate CLOSED with GATE stopped (R163). -/
theorem shutGate_awake (s : State) : Awake s s.shutGate := by
  refine ⟨rfl, .refl _, fun _ => ⟨fun h => (nomatch h), fun h => ?_⟩⟩
  have stopped : s.shutGate.timers.gate.state = .stopped := Channel.stop_untimed _
  rcases h with h | ⟨h, _⟩ <;> rw [stopped] at h <;> cases h

/-- The same with GATE_CLOSED raised where it was OPEN (R163). -/
theorem closeGate_awake (s : State) : Awake s s.closeGate := by
  unfold State.closeGate
  split
  · exact (shutGate_awake s).upto
  · exact shutGate_awake s

/-! ### The engine and its jobs -/

/-- Writes asked for (R124). -/
theorem requestAll_posture (who : Who) (ws : List (RecordId × Change)) (s : State) :
    (s.requestAll who ws).posture = s.posture := by
  induction ws generalizing s with
  | nil => rfl
  | cons w ws ih => exact ih _

/-- The wipe goes on (R176). -/
theorem wipeNext_clock (s : State) (l : List RecordId) : (s.wipeNext l).clock = s.clock := by
  cases l with
  | cons r rs => rfl
  | nil =>
    change s.wipeCounters.clock = s.clock
    unfold State.wipeCounters
    split <;> rfl

/-- OWNER_RESET's start (R176). -/
theorem startOwnerReset_awake (s : State) : Awake s s.startOwnerReset := by
  have closed : Awake s (State.closeGate { s with engine := { s.engine with ownerResetPending := false } }) :=
    (closeGate_awake _).after
  exact closed.upto ((wipeNext_clock _ _).trans (congrArg Prod.fst (requestAll_posture .job _ _)))

/-- A bit burn asked for (R119). -/
theorem requestBurn_posture (s : State) (b : FuseBit) (o : BurnOwner) :
    (s.requestBurn b o).1.posture = s.posture := by
  unfold State.requestBurn State.takeBurn
  (repeat' split) <;> rfl

/-- The burns that go on (R111, R114). -/
theorem goOnBurns_posture (s : State) (o : BurnOwner) (q : BurnSeq) :
    (s.goOnBurns o q).1.posture = s.posture := by
  unfold State.goOnBurns
  split
  · rfl
  · split
    · exact requestBurn_posture s _ o
    · rfl

/-- A bit of the burns has ended (R111, R114). -/
theorem afterBurn_posture (s : State) (o : BurnOwner) (q : BurnSeq) (row : FuseRow) (r : BurnOutcome) :
    (s.afterBurn o q row r).1.posture = s.posture := by
  cases r with
  | burned => exact goOnBurns_posture s o q
  | failed => exact goOnBurns_posture s o _
  | supplyStop => rfl

/-- FUSE_FAULT (R111). -/
theorem faultIf_posture (s : State) (q : BurnSeq) : (s.faultIf q).posture = s.posture := by
  unfold State.faultIf
  split <;> rfl

/-- UPDATE_CONFIRM after its burns (R111). -/
theorem onCommandBurns_clock (r : State × BurnStatus) : (State.onCommandBurns r).clock = r.1.clock := by
  rcases r with ⟨s, q | q | q⟩ <;> exact congrArg Prod.fst (faultIf_posture s q)

/-- FLOOR_BURN after its burns (R114). -/
theorem onJobBurns_clock (r : State × BurnStatus) : (State.onJobBurns r).clock = r.1.clock := by
  rcases r with ⟨s, q | q | q⟩
  · exact congrArg Prod.fst (faultIf_posture s q)
  · exact congrArg Prod.fst (faultIf_posture s q)
  · simp only [State.onJobBurns]
    split <;> rfl

/-- FLOOR_BURN's start (R114). -/
theorem startFloorBurn_clock (s : State) : s.startFloorBurn.clock = s.clock :=
  (onJobBurns_clock _).trans (congrArg Prod.fst (goOnBurns_posture _ _ _))

/-! ### The commands -/

/-- A gated command does as its act does (R72). -/
theorem gated_awake {s : State} {f : Frame} {only : Option Lifecycle} {cond : Cond} {ok : Bool}
    {params state : List Check} {supply : Bool} {act : State → State}
    (h : (∀ c ∈ params ++ state, c.1 = true) → Awake s (act s)) :
    Awake s (s.gated f only cond ok params state supply act) := by
  rcases s.gated_acts f only cond ok params state supply act with ⟨a, e⟩ | ⟨e, hc⟩
  · exact e ▸ .same
  · exact e ▸ h hc

/-- One whose act leaves the clock. -/
theorem gated_clock {s : State} {f : Frame} {only : Option Lifecycle} {cond : Cond} {ok : Bool}
    {params state : List Check} {supply : Bool} {act : State → State} (h : (act s).clock = s.clock) :
    Awake s (s.gated f only cond ok params state supply act) := gated_awake fun _ => .same h

/-- STAGE_ADVANCE raises the stage (R4). -/
theorem advanceStage_awake {s : State} {n : Nat} (hn : n ≤ 7) (hb : s.stage.below n = true) :
    Awake s (s.advanceStage n) := by
  obtain ⟨phase, _, gate⟩ := closeGate_awake { s with stage := .num (Fin.ofNat 8 n) }
  have kept : (State.closeGate { s with stage := .num (Fin.ofNat 8 n) }).stage = .num (Fin.ofNat 8 n) := by
    unfold State.closeGate
    split <;> rfl
  refine ⟨phase, ?_, gate⟩
  change Stage.Follows s.stage (State.closeGate { s with stage := .num (Fin.ofNat 8 n) }).stage
  rw [kept]
  cases hs : s.stage with
  | unset => rw [hs] at hb; exact nomatch hb
  | num k =>
    rw [hs] at hb
    have lower : k.val < n := of_decide_eq_true hb
    change k.val ≤ n % 8
    omega

/-- STAGE_ADVANCE (R4). -/
theorem cmdStageAdvance_awake (f : Frame) (s : State) : Awake s (cmdStageAdvance f s) := by
  refine gated_awake fun passed => ?_
  simp only [List.cons_append, List.nil_append, List.forall_mem_cons, Bool.and_eq_true,
    decide_eq_true_eq] at passed
  obtain ⟨_, ⟨_, most⟩, below, _⟩ := passed
  exact advanceStage_awake most below

/-- POLICY_TIGHTEN (R53). -/
theorem cmdPolicyTighten_awake (f : Frame) (s : State) : Awake s (cmdPolicyTighten f s) := by
  unfold cmdPolicyTighten
  split
  · unfold cmdTightenA
    exact gated_clock rfl
  · split
    · unfold cmdTightenB
      refine gated_awake fun _ => ?_
      dsimp only
      split <;> exact .same
    · exact gated_clock rfl

/-- A chunk asked for (R31). -/
theorem requestChunk_posture (s : State) (a n : Nat) : (s.requestChunk a n).posture = s.posture := by
  unfold State.requestChunk
  split <;> rfl

/-- A use that the gate allows (R137, R162, R171). -/
theorem gateUse_awake {s : State} {b : Bool} (h : (!b || s.cred.gateOpen) = true) : Awake s (s.gateUse b) := by
  cases b with
  | false => exact .same
  | true => exact startGate_awake h

/-- KEY_SIGN (R137, R138). -/
theorem cmdKeySign_awake (f : Frame) (s : State) : Awake s (cmdKeySign f s) := by
  unfold cmdKeySign
  refine gated_awake fun passed => ?_
  simp only [List.cons_append, List.nil_append, List.forall_mem_cons] at passed
  obtain ⟨_, _, _, _, open_, _⟩ := passed
  exact (gateUse_awake open_).upto

/-- KEY_GENERATE (R139). -/
theorem cmdKeyGenerate_awake (f : Frame) (s : State) : Awake s (cmdKeyGenerate f s) := by
  unfold cmdKeyGenerate
  refine gated_awake fun passed => ?_
  obtain ⟨_, passed⟩ := List.forall_mem_append.1 passed
  exact (startGate_awake (passed _ List.mem_cons_self)).upto

/-- KEY_ERASE (R140). -/
theorem cmdKeyErase_awake (f : Frame) (s : State) : Awake s (cmdKeyErase f s) := by
  unfold cmdKeyErase
  refine gated_awake fun passed => ?_
  obtain ⟨_, passed⟩ := List.forall_mem_append.1 passed
  exact (startGate_awake (passed _ List.mem_cons_self)).upto

/-- CRED_DELETE (R172). -/
theorem cmdCredDelete_awake (f : Frame) (s : State) : Awake s (cmdCredDelete f s) := by
  unfold cmdCredDelete
  refine gated_awake fun passed => ?_
  obtain ⟨_, passed⟩ := List.forall_mem_append.1 passed
  exact (startGate_awake (passed _ List.mem_cons_self)).upto

/-- CRED_GET (R171). -/
theorem cmdCredGet_awake (f : Frame) (s : State) : Awake s (cmdCredGet f s) := by
  unfold cmdCredGet
  refine gated_awake fun passed => ?_
  simp only [List.cons_append, List.nil_append, List.forall_mem_cons] at passed
  obtain ⟨_, _, _, _, _, open_, _⟩ := passed
  exact (gateUse_awake open_).upto

/-- CRED_SET: where it is not the presence proof's case the gate is OPEN (R169, R170). -/
theorem setCred_awake {s : State} {id : Fin 24} (label : List Byte)
    (rest : List Byte ⊕ (Cond × Bool × List Byte)) (h : s.proofCase id = false → s.cred.gateOpen = true) :
    Awake s (s.setCred id label rest) := by
  have built : ∀ t : State, (t.buildCred label rest).1.clock = t.clock := by
    intro t
    rcases rest with pass | ⟨cond, gate, value⟩ <;> rfl
  unfold State.setCred
  split
  · exact .same (built s.consumeProof)
  · next hp => exact (startGate_awake (h (by simpa using hp))).upto (built s.startGate)

/-- The credential that CRED_SET's parameters name (R169). -/
theorem parseCredSet_id {b : List Byte} {id : Fin 24} {label : List Byte}
    {rest : List Byte ⊕ (Cond × Bool × List Byte)} (h : parseCredSet b = some (id, label, rest)) :
    id = Fin.ofNat 24 (byteAt b 0).toNat := by
  simp only [parseCredSet] at h
  split at h
  · next hid =>
    have named : (⟨(byteAt b 0).toNat, hid⟩ : Fin 24) = Fin.ofNat 24 (byteAt b 0).toNat :=
      Fin.ext (Nat.mod_eq_of_lt hid).symm
    rw [← named]
    (repeat' split at h) <;> cases h <;> rfl
  · cases h

/-- CRED_SET (R169). -/
theorem cmdCredSet_awake (f : Frame) (s : State) : Awake s (cmdCredSet f s) := by
  refine gated_awake fun passed => ?_
  split
  · next id label rest parsed =>
    refine setCred_awake label rest fun hp => ?_
    obtain ⟨_, passed⟩ := List.forall_mem_append.1 passed
    have gate := passed _ List.mem_cons_self
    have same : credId f = id := (parseCredSet_id parsed).symm
    rw [same, hp] at gate
    exact gate
  · exact .same

/-- A slot's change asked for and told (R79, R109, R146). -/
theorem changeSlotTold_posture (s : State) (x : SlotId) (r : SlotRec) :
    (s.changeSlotTold x r).posture = s.posture := by
  cases x <;> rfl

/-- So its clock stays. -/
theorem changeSlotTold_clock (s : State) (x : SlotId) (r : SlotRec) : (s.changeSlotTold x r).clock = s.clock :=
  congrArg Prod.fst (changeSlotTold_posture s x r)

/-- PROV_DEPLOY's second phase (R146). -/
theorem deployBurned_clock (s : State) (bit : Nat) : (s.deployBurned bit).clock = s.clock :=
  (changeSlotTold_clock (s.changeSlotTold .a SlotRec.staged) .b SlotRec.staged).trans
    (changeSlotTold_clock s .a SlotRec.staged)

/-- PROV_DEPLOY's first phase (R146). -/
theorem deployTry_clock (s : State) (bit : Nat) : (s.deployTry bit).clock = s.clock := by
  have asked : (s.requestBurn ⟨.lifecycle, bit⟩ .command).1.clock = s.clock :=
    congrArg Prod.fst (requestBurn_posture s _ _)
  unfold State.deployTry
  generalize s.requestBurn ⟨.lifecycle, bit⟩ .command = r at asked
  rcases r with ⟨t, _ | o⟩
  · exact asked
  · cases o with
    | burned => exact (deployBurned_clock t bit).trans asked
    | supplyStop => exact asked
    | failed => exact asked

/-- A command taken by the engine, whatever its code (R66). -/
theorem dispatch_awake (f : Frame) (s : State) : Awake s (dispatch f s) := by
  unfold dispatch
  split
  · exact gated_clock rfl
  · exact gated_clock rfl
  · exact gated_clock rfl
  · exact gated_clock rfl
  · exact gated_clock rfl
  · exact gated_clock rfl
  · exact gated_clock rfl
  · exact gated_clock rfl
  · exact cmdStageAdvance_awake f s
  · exact gated_clock rfl
  · exact cmdPolicyTighten_awake f s
  · exact gated_clock rfl
  · exact gated_clock (congrArg Prod.fst (requestChunk_posture _ _ _))
  · exact gated_clock rfl
  · exact gated_clock rfl
  · exact gated_clock rfl
  · exact gated_clock rfl
  · exact cmdKeySign_awake f s
  · exact cmdKeyGenerate_awake f s
  · exact cmdKeyErase_awake f s
  · unfold cmdCredCheck
    exact gated_clock rfl
  · exact cmdCredSet_awake f s
  · exact cmdCredGet_awake f s
  · exact cmdCredDelete_awake f s
  · exact gated_awake fun _ => (shutGate_awake s).upto
  · exact gated_clock rfl
  · exact gated_clock rfl
  · exact gated_clock rfl
  · exact gated_clock rfl
  · unfold cmdProvAuthority
    exact gated_clock rfl
  · exact gated_clock rfl
  · unfold cmdProvDeploy
    exact gated_clock (deployTry_clock s 0)
  · exact .same

end Sys2Proof.Machine

/-! The events in S0 and outside it, and the boot flow: every command keeps what the flow's invariant asks within
a step, and the arbiter gives the rest (R2, R68, R89, R113, R162, R163, R174). -/

namespace Sys2Proof.Machine

/-! ### What an operation keeps within a step -/

/-- From one state to the next no numeric stage falls, unless a flow has begun (R3, R89). -/
def Onward (s t : State) : Prop :=
  s.stage ≠ .s0 → t.flow.phase = .wait ∨ Stage.Follows s.stage t.stage

/-- An operation within a step: it keeps the flow's invariant, and a flow that waits goes on waiting. -/
def Flows (s t : State) : Prop :=
  FlowBody s → FlowBody t ∧ Onward s t ∧ (s.flow.phase = .wait → t.flow.phase = .wait)

/-- An operation that leaves what the invariant looks at. -/
theorem Flows.same {s t : State} (e : t.posture = s.posture := by rfl) : Flows s t := fun h =>
  ⟨h.of_posture e, fun _ => .inr ((Awake.same (congrArg Prod.fst e)).stage),
    fun w => (congrArg (fun q => q.1.phase) e).trans w⟩

theorem Flows.refl (s : State) : Flows s s := .same

/-- One operation after another. -/
theorem Flows.also {s t u : State} (h : Flows s t) (k : Flows t u) : Flows s u := by
  intro hs
  obtain ⟨ht, o, w⟩ := h hs
  obtain ⟨hu, o', w'⟩ := k ht
  refine ⟨hu, fun up => ?_, fun p => w' (w p)⟩
  rcases o up with wait | follows
  · exact .inl (w' wait)
  · exact (o' (follows.ne_s0 up)).imp_right follows.trans

/-- Then one that leaves what the invariant looks at. -/
theorem Flows.upto {s a t : State} (h : Flows s a) (e : t.posture = a.posture := by rfl) : Flows s t :=
  h.also (.same e)

/-- First one that leaves what the invariant looks at. -/
theorem Flows.after {s b t : State} (h : Flows b t) (e : b.posture = s.posture := by rfl) : Flows s t :=
  (Flows.same e).also h

/-- Outside S0 an operation is free to work the engine and the Presence Unit. -/
theorem Awake.flows {s t : State} (h : s.stage ≠ .s0 → Awake s t) (k : s.stage = .s0 → Flows s t) :
    Flows s t := by
  by_cases up : s.stage = .s0
  · exact k up
  · intro hs
    obtain ⟨phase, stage, gate⟩ := h up
    have up' : t.stage ≠ .s0 := stage.ne_s0 up
    have none : s.flow.phase = .none := by
      by_contra hp
      exact up (hs.stage.2 hp)
    refine ⟨⟨⟨fun e => absurd e up', fun hp => absurd (phase.trans none) hp⟩, gate hs.gate,
      fun e => absurd e up'⟩, fun _ => .inr stage, fun w => ?_⟩
    rw [none] at w
    cases w

/-- The same where it changes nothing in S0. -/
theorem Awake.flows_of {s t : State} (h : Awake s t) (k : s.stage = .s0 → FlowBody s → t.posture = s.posture) :
    Flows s t :=
  Awake.flows (fun _ => h) fun st hs => Flows.same (k st hs) hs

/-- An operation of the engine: in S0 it is idle. -/
theorem Awake.flows_busy {s t : State} (h : Awake s t) (k : s.engine.state = .idle → t.posture = s.posture) :
    Flows s t := h.flows_of fun st hs => k (hs.still st).1

/-! ### The flow goes on (R89 to R96) -/

/-- What a flow that goes on leaves: it is still in S0 with the part at rest, or has released the SoC. -/
structure Resumes (s t : State) : Prop where
  gate : t.cred.gateOpen = s.cred.gateOpen ∧ t.timers.gate = s.timers.gate
  out : (t.stage = s.stage ∧ t.flow.phase ≠ .none ∧ t.rest = s.rest) ∨
    (t.stage ≠ .s0 ∧ t.flow.phase = .none)

/-- After operations that leave what the invariant looks at. -/
theorem Resumes.after {s b t : State} (h : Resumes b t) (e : b.posture = s.posture := by rfl) : Resumes s t := by
  have ec : b.clock = s.clock := congrArg Prod.fst e
  have er : b.rest = s.rest := congrArg Prod.snd e
  obtain ⟨⟨open_, gate⟩, out⟩ := h
  refine ⟨⟨open_.trans (congrArg Clock.gateOpen ec), gate.trans (congrArg Clock.gate ec)⟩, ?_⟩
  rcases out with ⟨st, ph, re⟩ | out
  · exact .inl ⟨st.trans (congrArg Clock.stage ec), ph, re.trans er⟩
  · exact .inr out

/-- The flow's invariant through it (R2, R89). -/
theorem FlowBody.resumes {s t : State} (h : FlowBody s) (hs : s.stage = .s0) (r : Resumes s t) : FlowBody t := by
  obtain ⟨⟨open_, gate⟩, out⟩ := r
  have timed : t.cred.gateOpen = true ↔ GateTimed t := by
    unfold GateTimed
    rw [open_, gate]
    exact h.gate
  rcases out with ⟨st, ph, re⟩ | ⟨st, ph⟩
  · refine ⟨⟨fun _ => ph, fun _ => st.trans hs⟩, timed, fun _ => ?_⟩
    obtain ⟨e5, ⟨e6, e7, e8⟩, e9, e10, e11⟩ := h.still hs
    refine ⟨(congrArg Rest.engine re).trans e5, ⟨(congrArg Rest.ownerReset re).trans e6,
      (congrArg Rest.floorBurn re).trans e7, (congrArg Rest.held re).trans e8⟩,
      (congrArg Rest.presence re).trans e9, (congrArg Rest.deferral re).trans e10, ?_⟩
    rw [show t.up.arrived = s.up.arrived from congrArg Rest.arrived re]
    exact e11
  · exact ⟨⟨fun e => absurd e st, fun e => absurd ph e⟩, timed, fun e => absurd e st⟩

/-- The same as an operation of a step, for a flow that does not wait. -/
theorem Resumes.flows {s t : State} (hp : s.flow.phase ≠ .none) (hw : s.flow.phase ≠ .wait)
    (r : Resumes s t) : Flows s t := by
  intro h
  have st : s.stage = .s0 := h.stage.2 hp
  exact ⟨h.resumes st r, fun up => absurd st up, fun w => absurd w hw⟩

/-- The release step (R3, R96). -/
theorem release_resumes (s : State) : Resumes s s.release := by
  have stage : s.release.stage = s.filter.mode.handedStage ∧ s.release.flow.phase = .none ∧
      s.release.cred.gateOpen = s.cred.gateOpen ∧ s.release.timers.gate = s.timers.gate := by
    unfold State.release State.startPenalty State.requestJob
    dsimp only
    (repeat' split) <;> exact ⟨rfl, rfl, rfl, rfl⟩
  obtain ⟨handed, ended, gate⟩ := stage
  refine ⟨gate, .inr ⟨?_, ended⟩⟩
  rw [handed]
  cases s.filter.mode <;> decide

/-- The loader's digest (R95). -/
theorem onLoader_resumes (r : State × Option (List Byte)) : Resumes r.1 (State.onLoader r) := by
  rcases r with ⟨s, _ | digest⟩
  · exact ⟨⟨rfl, rfl⟩, .inl ⟨rfl, by simp [State.onLoader], rfl⟩⟩
  · exact (release_resumes _).after

/-- The loader goes on (R95). -/
theorem goOnLoader_posture (s : State) (g : Geometry) : (s.goOnLoader g).1.posture = s.posture := by
  unfold State.goOnLoader
  split
  · exact requestChunk_posture s _ _
  · rfl

/-- RECOVERY entered (R95). -/
theorem enterRecovery_resumes (s : State) : Resumes s s.enterRecovery :=
  (onLoader_resumes _).after (goOnLoader_posture _ _)

/-- The next candidate (R93). -/
theorem tryCandidates_resumes (s : State) (first : Bool) (l : List SlotId) :
    Resumes s (s.tryCandidates first l) := by
  cases l with
  | nil => exact enterRecovery_resumes s
  | cons x rest =>
    have asked : (s.startVerify s.configOrDefault.geo x).posture = s.posture := requestChunk_posture _ _ _
    refine Resumes.after (b := s.startVerify s.configOrDefault.geo x) ?_ asked
    exact ⟨⟨rfl, rfl⟩, .inl ⟨rfl, by simp [State.tryCandidates], rfl⟩⟩

/-- A slot's change (R79). -/
theorem changeSlot_posture (s : State) (x : SlotId) (r : SlotRec) : (s.changeSlot x r).posture = s.posture := by
  cases x <;> rfl

/-- Steps 6 to 8 (R92, R93). -/
theorem selectSlot_resumes (s : State) : Resumes s s.selectSlot := by
  have failed : ∀ (t : State) (x : SlotId), (t.failTrial x).posture = t.posture := by
    intro t x
    unfold State.failTrial
    split
    · exact changeSlot_posture t x _
    · rfl
  exact (tryCandidates_resumes _ _ _).after ((failed _ .b).trans (failed s .a))

/-- The load step (R94, R96). -/
theorem bootVerified_resumes (s : State) (x : SlotId) (m : Summary) (first : Bool) :
    Resumes s (s.bootVerified x m first) := by
  have booted : (s.bootSlot x m).posture = s.posture := by
    unfold State.bootSlot
    split
    · dsimp only
      split
      · rfl
      · exact changeSlot_posture s x _
    · exact changeSlot_posture s x ⟨.trial, .trial, .none, some m⟩
  refine (release_resumes _).after (Eq.trans ?_ booted)
  split <;> rfl

/-- A candidate's verification has ended (R87, R93). -/
theorem candidateEnded_resumes (s : State) (x : SlotId) (rest : List SlotId) (first : Bool)
    (o : VerifyOutcome) : Resumes s (s.candidateEnded x rest first o) := by
  cases o with
  | pass m => exact bootVerified_resumes s x m first
  | fail why => exact (tryCandidates_resumes _ false rest).after (changeSlot_posture s x _)

/-- Step 5's burns (R91). -/
theorem onFlowBurns_resumes (r : State × BurnStatus) : Resumes r.1 (State.onFlowBurns r) := by
  rcases r with ⟨s, q | q | q⟩
  · exact ⟨⟨rfl, rfl⟩, .inl ⟨rfl, by simp [State.onFlowBurns], rfl⟩⟩
  · exact ⟨⟨rfl, rfl⟩, .inl ⟨rfl, by simp [State.onFlowBurns], rfl⟩⟩
  · exact (selectSlot_resumes _).after (faultIf_posture s q)

/-- The flow resumed (R89 to R93). -/
theorem resumeFlow_resumes (s : State) (i j k : Byte) : Resumes s (s.resumeFlow i j k) := by
  have counted : (s.capture i j k).countBoot.posture = s.posture := rfl
  simp only [State.resumeFlow]
  generalize (s.capture i j k).countBoot = t at counted ⊢
  refine Resumes.after ?_ counted
  split
  · exact (release_resumes _).after
  · exact (onFlowBurns_resumes _).after (goOnBurns_posture t _ _)

/-- The procedure takes a chunk (R81, R85). -/
theorem feedVerify_posture (s : State) (g : Geometry) (bytes : List Byte) :
    (s.feedVerify g bytes).1.posture = s.posture := by
  have on : ∀ (t : State) (x : SlotId), (t.goOnImage g x).1.posture = t.posture := by
    intro t x
    simp only [State.goOnImage]
    split
    · exact requestChunk_posture t _ _
    · rfl
  unfold State.feedVerify
  split
  · split
    · rfl
    · exact on _ _
  · exact on _ _
  · rfl
  · rfl

/-- A chunk of the flow (R31, R85, R95). -/
theorem flowChunk_flows (s : State) (bytes : List Byte) : Flows s (s.flowChunk bytes) := by
  have fed := feedVerify_posture s s.configOrDefault.geo bytes
  unfold State.flowChunk
  dsimp only
  split
  · next x rest first hp =>
    generalize s.feedVerify s.configOrDefault.geo bytes = r at fed
    rcases r with ⟨t, _ | o⟩
    · exact .same fed
    · exact Resumes.flows (by simp [hp]) (by simp [hp]) ((candidateEnded_resumes t _ _ _ o).after fed)
  · next hp =>
    exact Resumes.flows (by simp [hp]) (by simp [hp]) ((onLoader_resumes _).after (goOnLoader_posture _ _))
  · exact .refl s
  · exact .refl s
  · exact .refl s

/-- Step 5 goes on at NORMAL (R91). -/
theorem resumeFlowBurns_flows (s : State) : Flows s s.resumeFlowBurns := by
  unfold State.resumeFlowBurns
  split
  · next hp =>
    exact Resumes.flows (by simp [hp]) (by simp [hp])
      ((onFlowBurns_resumes _).after (goOnBurns_posture s _ _))
  · exact .refl s

/-! ### A flow begins (R89) -/

/-- The first step of a flow (R89). -/
theorem startFlow_flows (s : State) (why : BootReason) : Flows s (s.startFlow why) := by
  intro _
  have arrived : ∀ a ∈ (s.startFlow why).up.arrived, a.snap.stage = .s0 := by
    intro a ha
    obtain ⟨b, _, rfl⟩ := Option.map_eq_some_iff.1 (Option.mem_def.1 ha)
    rfl
  have untimed : ¬ GateTimed (s.startFlow why) := by
    rintro (h | ⟨h, _⟩) <;> cases h
  exact ⟨⟨⟨fun _ => by simp [State.startFlow], fun _ => rfl⟩, ⟨fun h => (nomatch h), fun h => absurd h untimed⟩,
    fun _ => ⟨rfl, ⟨rfl, rfl, rfl⟩, rfl, rfl, arrived⟩⟩, fun _ => .inl rfl, fun _ => rfl⟩

/-- A part whose supply is lost, or applied afresh, is at the first step of a flow (R2, R89, R116). -/
theorem fresh_flowBody {s : State} (h : s.posture = State.reset.posture) : FlowBody s := by
  have untimed : ¬ GateTimed State.reset := by
    rintro (h | ⟨h, _⟩) <;> cases h
  refine FlowBody.of_posture (s := State.reset) ⟨⟨fun _ => by decide, fun _ => rfl⟩,
    ⟨fun h => (nomatch h), fun h => absurd h untimed⟩, fun _ => ⟨rfl, ⟨rfl, rfl, rfl⟩, rfl, rfl, ?_⟩⟩ h
  exact fun a ha => nomatch ha

end Sys2Proof.Machine

/-! The commands of the block: each keeps the flow's invariant, and the arbiter leaves the engine quiet (R2, R3,
R68, R162, R163). -/

namespace Sys2Proof.Machine

/-! ### The arbiter (R68) -/

/-- One look of the arbiter: in S0 nothing waits for it (R68). -/
theorem arbitrate_flows (s : State) : Flows s s.arbitrate := by
  refine Awake.flows_of ?_ fun st hs => ?_
  · unfold State.arbitrate
    split
    · split
      · exact startOwnerReset_awake s
      · split
        · exact .same (startFloorBurn_clock s)
        · split
          · exact (dispatch_awake _ _).after
          · exact .refl s
    · exact .refl s
    · exact .refl s
  · rw [State.arbitrate_quiet fun _ => (hs.still st).2.1]

/-- The arbiter until it rests (R68). -/
theorem settled_flows (s : State) : Flows s s.settled :=
  (arbitrate_flows s).also <| (arbitrate_flows _).also <| (arbitrate_flows _).also (arbitrate_flows _)

/-- The invariant asks of a step's ends what it asks within, with the engine quiet (R68). -/
theorem flowInvariant_iff (s : State) : FlowInvariant s ↔ FlowBody s ∧ s.Quiet := by
  constructor
  · rintro ⟨stage, quiet, gate, still⟩
    refine ⟨⟨stage, gate, fun st => ?_⟩, quiet⟩
    obtain ⟨idle, rest⟩ := still st
    exact ⟨idle, quiet idle, rest⟩
  · rintro ⟨⟨stage, gate, still⟩, quiet⟩
    refine ⟨stage, quiet, gate, fun st => ?_⟩
    obtain ⟨idle, _, rest⟩ := still st
    exact ⟨idle, rest⟩

/-- What is proved of a step: the invariant, and a stage that does not fall (R3). -/
def StepKeeps (s t : State) : Prop :=
  FlowInvariant t ∧ (s.stage ≠ .s0 → t.stage ≠ .s0 → Stage.Follows s.stage t.stage)

/-- A command of the block whose body keeps the invariant (R68, assumption 1). -/
theorem perform_keeps {s t : State} {body : State → State} (e : s.perform body = .next t)
    (h : FlowInvariant s) (hb : ∀ u, FlowBody u → FlowBody (body u) ∧ Onward u (body u)) : StepKeeps s t := by
  obtain ⟨hs, quiet⟩ := (flowInvariant_iff s).1 h
  unfold State.perform at e
  obtain rfl := Host.Outcome.next.inj e
  split
  · obtain ⟨body_, onward⟩ := hb s.clearOut (hs.of_posture rfl)
    obtain ⟨after, onward', waits⟩ := settled_flows _ body_
    refine ⟨(flowInvariant_iff _).2 ⟨after, settled_isQuiet _⟩, fun up up' => ?_⟩
    have done : (body s.clearOut).settled.flow.phase ≠ .wait := fun w =>
      up' (after.stage.2 (by rw [w]; simp))
    rcases onward up with w | follows
    · exact absurd (waits w) done
    · rcases onward' (follows.ne_s0 up) with w | follows'
      · exact absurd w done
      · exact follows.trans follows'
  · exact ⟨(flowInvariant_iff _).2 ⟨hs.of_posture rfl, quiet⟩, fun _ _ => .refl _⟩

/-- The same from an operation of a step. -/
theorem perform_flows {s t : State} {body : State → State} (e : s.perform body = .next t)
    (h : FlowInvariant s) (hb : ∀ u, Flows u (body u)) : StepKeeps s t :=
  perform_keeps e h fun u hu => ⟨(hb u hu).1, (hb u hu).2.1⟩

/-! ### Frames and aborts -/

/-- A completed frame (R66). -/
theorem dispose_awake (s : State) (f : Frame) : Awake s (s.dispose f) := by
  unfold State.dispose
  split
  · exact (dispatch_awake f _).after
  · split <;> exact .same
  · exact .same

/-- A bad frame (R63). -/
theorem frameBad_clock (s : State) (d c g : Byte) : (s.frameBad d c g).clock = s.clock := by
  unfold State.frameBad
  split <;> rfl

/-- A service command's frame (R61, R66). -/
theorem submit_flows (s : State) (code : Byte) (r : Request) : Flows s (s.submit code r) := by
  refine Awake.flows_of ?_ fun st _ => ?_
  · unfold State.submit
    split
    · exact .refl s
    · split
      · exact (dispose_awake s.dropReception _).after
      · exact .same (frameBad_clock s.dropReception _ _ _)
  · rw [State.submit, if_pos st]

/-- Bytes for the frame in reception (R61, R62). -/
theorem receive_awake (s : State) (before data : List Byte) : Awake s (s.receive before data) := by
  simp only [State.receive]
  split
  · exact .same
  · split
    · exact .same (frameBad_clock s.dropReception _ _ _)
    · split
      · exact .same
      · exact (dispose_awake s.dropReception _).after

/-- A PROGRAM in the request area (R61, R63). -/
theorem frameProgram_awake (s : State) (off : Nat) (data : List Byte) : Awake s (s.frameProgram off data) := by
  unfold State.frameProgram
  split
  · exact receive_awake s _ _
  · split
    · split
      · exact receive_awake s _ _
      · exact .same (frameBad_clock s.dropReception _ _ _)
    · exact .same (frameBad_clock s.dropReception _ _ _)

/-- A command aborted (R71). -/
theorem abortCommand_clock (s : State) (w : CmdWork) : (s.abortCommand w).clock = s.clock := by
  cases w <;> rfl

/-- The abort request observed (R71). -/
theorem observeAbort_clock (s : State) : s.observeAbort.clock = s.clock := by
  unfold State.observeAbort
  split
  · split
    · exact abortCommand_clock s _
    · rfl
  · rfl
  · rfl

/-- In S0 there is no command to abort (R71). -/
theorem observeAbort_flows (s : State) : Flows s s.observeAbort :=
  (Awake.same (observeAbort_clock s)).flows_busy fun idle => by rw [State.observeAbort_of_idle idle]

/-- The abort (R70). -/
theorem abort_clock (s : State) : s.abort.clock = s.clock := by
  simp only [State.abort]
  split
  · rfl
  · rfl
  · exact observeAbort_clock _
  · rfl

/-! ### The upstream bus -/

/-- The bus released: no ARRIVAL stands (R17). -/
theorem released_flows (s : State) : Flows s s.released := by
  intro h
  obtain ⟨stage, gate, still⟩ := h
  refine ⟨⟨stage, gate, fun st => ?_⟩, fun _ => .inr (.refl _), id⟩
  obtain ⟨idle, work, presence, deferral, _⟩ := still st
  exact ⟨idle, work, presence, deferral, fun a ha => nomatch ha⟩

/-- A transaction that arrived outside S0 is handled outside S0 (R17, R34). -/
theorem snapFor_up {s : State} (h : FlowBody s) {cls : TxClass} {a : Nat}
    (up : (s.snapFor cls a).stage ≠ .s0) : s.stage ≠ .s0 := by
  intro st
  obtain ⟨_, _, _, _, arrived⟩ := h.still st
  refine up ?_
  unfold State.snapFor
  split
  · next b hb =>
    split
    · exact arrived b hb
    · exact st
  · exact st

/-- A transaction that is over (R17, R19). -/
theorem transact_flows {s : State} {cls : TxClass} {a : Nat} {early : State → State}
    {act : Snapshot → State → State} (he : ∀ u, (early u).posture = u.posture)
    (ha : ∀ q u, Awake u (act q u)) : Flows s (s.transact cls a early act) := by
  intro h
  simp only [State.transact]
  split
  · exact (released_flows s).upto (he _) h
  · next up =>
    exact (released_flows s).also (Awake.flows (fun _ => ha _ _) fun st => absurd st (snapFor_up (s := s) h up)) h

/-- A slot staged by a write (R51). -/
theorem stageSlot_posture (s : State) (m : Mode) (g : Geometry) (phys : Nat) :
    (s.stageSlot m g phys).posture = s.posture := by
  unfold State.stageSlot
  split
  · rfl
  · split
    · split
      all_goals first | rfl | exact changeSlot_posture s _ _
    · rfl

/-- A write unit (R40, R47, R49). -/
theorem judgeUnit_posture (s : State) (q : Snapshot) (cls : TxClass) (base size first : Nat)
    (covers : Nat → Bool) (op : Nat → DownOp) :
    (s.judgeUnit q cls base size first covers op).posture = s.posture := by
  unfold State.judgeUnit
  split
  · rfl
  · split
    · rfl
    · split
      · rfl
      · split
        · rfl
        · exact stageSlot_posture (s.forward _) _ _ _

/-- PROGRAM's judgement (R21, R40, R60). -/
theorem programUnit_awake (s : State) (q : Snapshot) (a : Nat) (data : List Byte) :
    Awake s (s.programUnit q a data) := by
  simp only [State.programUnit]
  split
  · split
    · exact frameProgram_awake s _ _
    · exact .same
  · exact .same (congrArg Prod.fst (judgeUnit_posture s q _ _ _ _ _ _))

/-- ERASE_4K's judgement (R40, R60, R70). -/
theorem erase4kUnit_clock (s : State) (q : Snapshot) (a : Nat) : (s.erase4kUnit q a).clock = s.clock := by
  simp only [State.erase4kUnit]
  split
  · split
    · exact abort_clock s
    · rfl
  · exact congrArg Prod.fst (judgeUnit_posture s q _ _ _ _ _ _)

/-- ERASE_64K's judgement (R40, R60, R70). -/
theorem erase64kUnit_clock (s : State) (q : Snapshot) (a : Nat) : (s.erase64kUnit q a).clock = s.clock := by
  simp only [State.erase64kUnit]
  split
  · exact abort_clock s
  · exact congrArg Prod.fst (judgeUnit_posture s q _ _ _ _ _ _)

/-- A byte of a READ (R39). -/
theorem readByte_posture (s : State) (r : OpenRead) (flash : List Byte) :
    (s.readByte r flash).1.posture = s.posture := by
  have taken : s.takePort.posture = s.posture := by
    unfold State.takePort
    split <;> rfl
  have header : ∀ off, (s.readHeader off).posture = s.posture := by
    intro off
    unfold State.readHeader
    split <;> rfl
  simp only [State.readByte]
  split
  · rfl
  · split
    · exact header _
    · split
      · rfl
      · split
        · rfl
        · next phys _ =>
          have read : (if r.nextPhys = some phys then s.takePort
              else s.takePort.toFlash [.readFrom phys]).posture = s.posture := by
            split <;> exact taken
          generalize (if r.nextPhys = some phys then s.takePort
              else s.takePort.toFlash [.readFrom phys]) = t at read ⊢
          split
          · exact read
          · split <;> exact read

/-- The bytes of a READ (R39). -/
theorem readBytes_posture (n : Nat) : ∀ (s : State) (r : OpenRead) (flash : List Byte),
    (readBytes n s r flash).1.posture = s.posture := by
  induction n with
  | zero => exact fun _ _ _ => rfl
  | succ n ih => exact fun s r flash => (ih _ _ _).trans (readByte_posture s r flash)

/-- READ (R39). -/
theorem read_flows (s : State) (part : ReadPart) (count : Nat) (flash : List Byte) :
    Flows s (s.read part count flash) := by
  have clocked : ∀ (u : State) (others : List OpenRead) (r : OpenRead),
      (u.clockRead others r count flash).posture = u.posture := fun u others r =>
    readBytes_posture count u r flash
  unfold State.read
  split
  · exact (released_flows s).upto (clocked _ _ _)
  · split
    · exact .same (clocked _ _ _)
    · exact .refl s

/-- The port freed (R30). -/
theorem freePort_posture (s : State) : s.freePort.posture = s.posture := by
  unfold State.freePort
  split <;> rfl

/-- READ_END (R30). -/
theorem endRead_posture (s : State) : s.endRead.posture = s.posture := by
  unfold State.endRead
  split
  · rfl
  · dsimp only
    split
    · exact freePort_posture _
    · rfl

/-- ARRIVAL: in S0 its snapshot is one of S0 (R17, R50). -/
theorem arrival_flows (s : State) (cmd : Byte) (addr : BitVec 32) :
    Flows s { s with up := { s.up with
      arrived := some ⟨upstreamClass cmd, carriedAddress cmd addr, s.snapshot⟩ } } := by
  intro h
  obtain ⟨stage, gate, still⟩ := h
  refine ⟨⟨stage, gate, fun st => ?_⟩, fun _ => .inr (.refl _), id⟩
  obtain ⟨idle, work, presence, deferral, _⟩ := still st
  refine ⟨idle, work, presence, deferral, fun a ha => ?_⟩
  obtain rfl := Option.mem_some.1 ha
  exact st

/-! ### Chunks, signatures and pairs -/

/-- UPDATE_VERIFY after a chunk (R102 to R104). -/
theorem commandChunk_clock (s : State) (x : SlotId) (bytes : List Byte) :
    (s.commandChunk x bytes).clock = s.clock := by
  have fed := feedVerify_posture s s.filter.geo bytes
  unfold State.commandChunk
  split
  · exact abortCommand_clock s _
  · generalize s.feedVerify s.filter.geo bytes = r at fed
    rcases r with ⟨t, _ | o⟩
    · exact congrArg Prod.fst fed
    · exact (observeAbort_clock _).trans (congrArg Prod.fst fed)

/-- A completed chunk (R31). -/
theorem chunkDone_flows (s : State) (bytes : List Byte) : Flows s (s.chunkDone bytes) := by
  unfold State.chunkDone
  split
  · next x he =>
    exact (Awake.same (commandChunk_clock s x bytes)).flows_busy fun idle => by rw [idle] at he; cases he
  · exact flowChunk_flows s bytes

/-- Bytes of a chunk (R31, R32). -/
theorem chunkBytes_flows (s : State) (data : List Byte) : Flows s (s.chunkBytes data) := by
  unfold State.chunkBytes
  split
  · exact .refl s
  · exact .refl s
  · dsimp only
    split
    · exact .same
    · exact (chunkDone_flows _ _).after

/-- A finished signature (R134). -/
theorem finishSignature_flows (s : State) : Flows s s.finishSignature := by
  refine Awake.flows_busy (.same ?_) fun idle => ?_
  · unfold State.finishSignature
    split <;> rfl
  · rw [State.finishSignature, idle]

/-- Records asked for behind drawn values (R135, R142). -/
theorem asksAll_clock (s : State) (n : Nat) (ws : List (RecordId × Change)) (w : CmdWork) :
    ((State.requestAll { s with draws := n } .command ws).work w).clock = s.clock :=
  congrArg Prod.fst (requestAll_posture .command ws { s with draws := n })

/-- One record asked for behind a drawn value (R135, R139). -/
theorem asksOne_clock (s : State) (n : Nat) (rec : RecordId) (c : Change) (w : CmdWork) :
    ((State.request { s with draws := n } rec .command c).work w).clock = s.clock := rfl

/-- A finished pair (R134). -/
theorem finishGeneration_flows (s : State) : Flows s s.finishGeneration := by
  refine Awake.flows_busy (.same ?_) fun idle => ?_
  · unfold State.finishGeneration
    split
    · exact asksOne_clock s _ _ _ _
    · exact asksAll_clock s _ _ _
    · rfl
  · rw [State.finishGeneration, idle]

/-! ### Record writes -/

/-- The slots settled (R109). -/
theorem settleSlots_posture (s : State) (floor : Nat) : (s.settleSlots floor).1.posture = s.posture := by
  unfold State.settleSlots
  split
  · dsimp only
    split
    · dsimp only
      split
      · exact (changeSlotTold_posture _ _ _).trans (changeSlotTold_posture s _ _)
      · exact changeSlotTold_posture s _ _
    · dsimp only
      split
      · exact changeSlotTold_posture s _ _
      · rfl
  · rfl

/-- UPDATE_CONFIRM settles; with an idle engine no command awaits the writes (R109, R111). -/
theorem applyConfirm_flows (s : State) (floor : Nat) : Flows s (s.applyConfirm floor) := by
  have settled := settleSlots_posture s floor
  unfold State.applyConfirm
  generalize s.settleSlots floor = r at settled
  rcases r with ⟨t, awaited⟩
  dsimp only
  split
  · next he =>
    refine (Awake.same (t := t.work _) (congrArg Prod.fst settled)).flows_busy fun idle => ?_
    rw [show t.engine.state = s.engine.state from congrArg (fun q => q.2.engine) settled, idle] at he
    cases he
  · exact .same settled

/-- A requester's change (R125, R164). -/
theorem applyChange_flows (s : State) (rec : RecordId) (c : Change) : Flows s (s.applyChange rec c) := by
  have slot : ∀ (x : SlotId) (r : SlotRec), (s.setSlot x r).posture = s.posture := by
    intro x r
    cases x <;> rfl
  unfold State.applyChange
  split
  · exact .refl s
  · split
    · exact .same (slot _ _)
    · exact .refl s
  · exact applyConfirm_flows s _
  · exact .same
  · exact .same
  · exact .same
  · split <;> exact .same
  · split <;> exact .same
  · exact .same
  · exact .same

/-- The changes of a set of requesters, in order (R125). -/
theorem applyAll_flows (rec : RecordId) (rs : List Requester) : ∀ s : State,
    Flows s (rs.foldl (fun v r => v.applyChange rec r.change) s) := by
  induction rs with
  | nil => exact fun s => .refl s
  | cons r rs ih => exact fun s => (applyChange_flows s rec r.change).also (ih _)

/-- RECORD_WRITE_BEGIN (R125). -/
theorem recordBegin_flows (s : State) : Flows s s.recordBegin := by
  unfold State.recordBegin
  split
  · next e rest _ _ _ =>
    exact ((applyAll_flows e.record e.requesters { s with records := { s.records with
      waiting := rest } }).after).upto
  · exact .refl s

/-- UPDATE_CONFIRM goes on (R111). -/
theorem confirmNext_clock (s : State) (l : List RecordId) : (s.confirmNext l).clock = s.clock := by
  cases l with
  | nil => exact (onCommandBurns_clock _).trans (congrArg Prod.fst (goOnBurns_posture s _ _))
  | cons r rs => rfl

/-- CRED_CHECK's comparison (R166, R167). -/
theorem credCompare_clock (s : State) (id : Fin 24) (candidate : List Byte) :
    (s.credCompare id candidate).clock = s.clock := by
  unfold State.credCompare State.credMismatch State.startPenalty
  dsimp only
  (repeat' split) <;> rfl

/-- The command told of its write (R125). -/
theorem tellCommand_awake (s : State) (rec : RecordId) (w : CmdWork) : Awake s (s.tellCommand rec w) := by
  unfold State.tellCommand
  split
  · exact .same
  · exact .same (confirmNext_clock s _)
  · exact .same (confirmNext_clock s _)
  · split <;> exact .same
  · exact .same (credCompare_clock s _ _)
  · unfold State.credMatched
    split
    · exact (openGate_awake s).upto
    · exact .same
  · split <;> exact .same
  · exact .refl s
  · exact .refl s
  · exact .refl s
  · exact .refl s
  · exact .refl s

/-- The job told of its write (R176). -/
theorem tellJob_clock (s : State) (rec : RecordId) (w : JobWork) : (s.tellJob rec w).clock = s.clock := by
  unfold State.tellJob
  split
  · exact wipeNext_clock s _
  · rfl
  · rfl

/-- Everybody told of a write (R125). -/
theorem tell_flows (s : State) (rec : RecordId) (rs : List Requester) : Flows s (s.tell rec rs) := by
  refine Awake.flows_busy ?_ fun idle => ?_
  · unfold State.tell
    split
    · exact .refl s
    · split
      · exact tellCommand_awake s rec _
      · exact .refl s
    · split
      · exact .same (tellJob_clock s rec _)
      · exact .refl s
  · rw [State.tell, idle]

/-- RECORD_WRITE_COMPLETE (R125). -/
theorem recordComplete_flows (s : State) : Flows s s.recordComplete := by
  unfold State.recordComplete
  split
  · exact .refl s
  · next w _ =>
    exact ((tell_flows (State.takePending { s with records := { s.records with
      store := s.records.store.put w.record w.content, writing := none } } w.requesters) w.record
      w.requesters).after).also (observeAbort_flows _)

/-! ### Fuses -/

/-- PROV_DEPLOY after a bit (R122, R146). -/
theorem onDeployBurn_clock (s : State) (bit : Nat) (o : BurnOutcome) :
    (s.onDeployBurn bit o).clock = s.clock := by
  cases o with
  | burned => exact deployBurned_clock s bit
  | supplyStop => rfl
  | failed =>
    simp only [State.onDeployBurn]
    split
    · exact deployTry_clock s _
    · rfl

/-- A bit burn's outcome handed over (R119). -/
theorem burnEnded_flows (s : State) (owner : BurnOwner) (target : FuseBit) (o : BurnOutcome) :
    Flows s (s.burnEnded owner target o) := by
  unfold State.burnEnded
  split
  · exact .refl s
  · refine Awake.flows_busy ?_ fun idle => by rw [idle]
    split
    · exact .same ((onCommandBurns_clock _).trans (congrArg Prod.fst (afterBurn_posture s _ _ _ _)))
    · exact .same (onDeployBurn_clock s _ o)
    · exact .refl s
  · refine Awake.flows_busy ?_ fun idle => by rw [idle]
    split
    · exact .same ((onJobBurns_clock _).trans (congrArg Prod.fst (afterBurn_posture s _ _ _ _)))
    · exact .refl s
  · split
    · next hp =>
      exact Resumes.flows (by simp [hp]) (by simp [hp])
        ((onFlowBurns_resumes _).after (afterBurn_posture s _ _ _ _))
    · exact .refl s

/-- Outcomes handed over one after another (R119). -/
theorem queueEnded_flows (l : List (BurnRequest × BurnOutcome)) : ∀ s : State, Flows s (s.queueEnded l) := by
  induction l with
  | nil => exact fun s => .refl s
  | cons e l ih => exact fun s => (burnEnded_flows s _ _ _).also (ih _)

/-- A request taken (R119). -/
theorem takeBurn_posture (s : State) (b : FuseBit) (o : BurnOwner) :
    (s.takeBurn b o).1.posture = s.posture := by
  unfold State.takeBurn
  (repeat' split) <;> rfl

/-- The waiting requests taken (R119). -/
theorem takeQueue_posture (l : List BurnRequest) : ∀ s : State, (takeQueue l s).1.posture = s.posture := by
  induction l with
  | nil => exact fun _ => rfl
  | cons r rs ih =>
    intro s
    have taken := takeBurn_posture s r.target r.owner
    unfold takeQueue
    split
    · rfl
    · generalize s.takeBurn r.target r.owner = u at taken
      rcases u with ⟨t, _ | o⟩
      · exact (ih t).trans taken
      · exact (ih t).trans taken

/-- An attempt read back (R116, R119). -/
theorem readBack_posture (s : State) (b : BitBurn) (back : Bool) :
    (s.readBack b back).1.posture = s.posture := by
  unfold State.readBack
  split
  · rfl
  · dsimp only
    (repeat' split) <;> rfl

/-- FUSE_ATTEMPT_DONE (R119). -/
theorem fuseAttempt_flows (s : State) (b : BitBurn) (back : Bool) : Flows s (s.fuseAttempt b back) := by
  have read := readBack_posture s b back
  unfold State.fuseAttempt
  generalize s.readBack b back = r at read
  rcases r with ⟨t, _ | o⟩
  · exact .same read
  · exact (Flows.same ((takeQueue_posture _ t).trans read)).also
      ((burnEnded_flows _ _ _ _).also (queueEnded_flows _ _))

/-! ### Supply, button, expiries -/

/-- A cause of the supply (R131). -/
theorem raiseOutsideS0_posture (s : State) (c : Cause) : (s.raiseOutsideS0 c).posture = s.posture := by
  unfold State.raiseOutsideS0
  split <;> rfl

/-- The entry into LOW (R131). -/
theorem enterLow_flows (s : State) : Flows s s.enterLow :=
  (observeAbort_flows _).after (raiseOutsideS0_posture (s.setSupply false) _)

/-- The entry into NORMAL (R113, R131). -/
theorem enterNormal_flows (s : State) : Flows s s.enterNormal := by
  have raised : Flows s ((s.setSupply true).raiseOutsideS0 .supplyOk) :=
    .same (raiseOutsideS0_posture (s.setSupply true) _)
  have deploy : ∀ t : State, Flows t t.resumeDeploy := by
    intro t
    refine Awake.flows_busy (.same ?_) fun idle => ?_
    · unfold State.resumeDeploy
      split
      · exact deployTry_clock t _
      · rfl
    · rw [State.resumeDeploy, idle]
  have deferred : ∀ t : State, Flows t t.requestDeferred := by
    intro t
    refine Awake.flows_of (.same ?_) fun st h => ?_
    · unfold State.requestDeferred
      split <;> rfl
    · obtain ⟨_, _, _, deferral, _⟩ := h.still st
      rw [State.requestDeferred, deferral]
      rfl
  exact ((raised.also (resumeFlowBurns_flows _)).also (deploy _)).also (deferred _)

/-- A press and a release; in S0 neither changes the Presence Unit's state (R174, R175). -/
theorem button_flows (s : State) : Flows s s.press ∧ Flows s s.letGo := by
  constructor
  · refine Awake.flows_of (.same ?_) fun st _ => ?_
    · simp only [State.press]
      (repeat' split) <;> rfl
    · simp only [State.press]
      rw [if_pos (show (s.setLevel true).stage = .s0 from st)]
      rfl
  · refine Awake.flows_of (.same ?_) fun st _ => ?_
    · simp only [State.letGo]
      (repeat' split) <;> rfl
    · simp only [State.letGo]
      rw [if_pos (show (s.setLevel false).stage = .s0 from st)]
      rfl

/-- An operation that leaves all but the gate and GATE. -/
theorem Flows.gate {s t : State} (er : t.rest = s.rest) (es : t.stage = s.stage)
    (ep : t.flow.phase = s.flow.phase)
    (eg : (s.cred.gateOpen = true ↔ GateTimed s) → (t.cred.gateOpen = true ↔ GateTimed t)) : Flows s t := by
  intro h
  refine ⟨⟨?_, eg h.gate, fun st => ?_⟩, fun _ => .inr (es ▸ .refl _), fun w => ep.trans w⟩
  · unfold StageMatchesFlow
    rw [es, ep]
    exact h.stage
  · obtain ⟨e5, ⟨e6, e7, e8⟩, e9, e10, e11⟩ := h.still (es ▸ st)
    refine ⟨(congrArg Rest.engine er).trans e5, ⟨(congrArg Rest.ownerReset er).trans e6,
      (congrArg Rest.floorBurn er).trans e7, (congrArg Rest.held er).trans e8⟩,
      (congrArg Rest.presence er).trans e9, (congrArg Rest.deferral er).trans e10, ?_⟩
    rw [show t.up.arrived = s.up.arrived from congrArg Rest.arrived er]
    exact e11

/-- Closing the gate leaves all else (R163). -/
theorem closeGate_rest (s : State) : s.closeGate.rest = s.rest ∧ s.closeGate.stage = s.stage := by
  unfold State.closeGate
  split <;> exact ⟨rfl, rfl⟩

/-- GATE's expiry closes the gate whatever GATE was (R163). -/
theorem gateExpires_flows (s : State) : Flows s s.gateExpires := by
  have closed := closeGate_awake { s with timers := { s.timers with gate := Channel.expired } }
  obtain ⟨rest, stage⟩ := closeGate_rest { s with timers := { s.timers with gate := Channel.expired } }
  have shut : s.gateExpires.cred.gateOpen = false ∧ s.gateExpires.timers.gate.state = .stopped := by
    unfold State.gateExpires State.closeGate
    split <;> exact ⟨rfl, rfl⟩
  refine Flows.gate rest stage closed.phase fun _ => ?_
  unfold GateTimed
  rw [shut.1, shut.2]
  simp

/-- PRESENCE's expiry: in S0 the Presence Unit is idle (R174). -/
theorem presenceExpires_flows (s : State) : Flows s s.presenceExpires := by
  refine Awake.flows_of (.same ?_) fun st h => ?_
  · simp only [State.presenceExpires]
    (repeat' split) <;> rfl
  · obtain ⟨_, _, presence, _⟩ := h.still st
    simp only [State.presenceExpires, presence]
    rfl

/-- An event of a tick (R13, R129, R174). -/
theorem tickEvent_flows (s : State) (a b c : Bool) (e : TickEvent) : Flows s (s.tickEvent a b c e) := by
  unfold State.tickEvent
  split
  · split
    · split
      · exact enterLow_flows s
      · exact enterNormal_flows s
    · exact .refl s
  · split
    · exact startFlow_flows s _
    · exact .refl s
  · split
    · exact gateExpires_flows s
    · exact .refl s
  · split <;> exact .same
  · split
    · exact presenceExpires_flows s
    · exact .refl s
  · split
    · split
      · exact (button_flows s).1
      · exact (button_flows s).2
    · exact .refl s

/-- The events of a tick, the arbiter between them (R68). -/
theorem tickEvents_flows (a b c : Bool) (l : List TickEvent) : ∀ s : State,
    Flows s (l.foldl (fun u e => (u.tickEvent a b c e).settled) s) := by
  induction l with
  | nil => exact fun s => .refl s
  | cons e l ih => exact fun s => ((tickEvent_flows s a b c e).also (settled_flows _)).also (ih _)

/-- A tick leaves a channel running, or its expiry due, exactly where it was so before (R11, R13). -/
theorem Channel.tick_timed (period : Nat) (c : Channel) :
    ((c.tick period).state = .running ∨ ((c.tick period).state = .expired ∧ (c.tick period).due = true)) ↔
      (c.state = .running ∨ (c.state = .expired ∧ c.due = true)) := by
  rcases c with ⟨count, phase, st, due⟩
  cases st with
  | running =>
    simp only [Channel.tick]
    (repeat' split) <;> simp
  | expired => exact Iff.rfl
  | stopped => exact Iff.rfl

/-- The counts of a tick: GATE runs on, or its expiry is due (R11, R13). -/
theorem tickCounts_flows (s : State) (code : BitVec 12) (pressed : Bool) :
    Flows s (s.tickCounts code pressed) := by
  refine Flows.gate rfl rfl rfl fun h => ?_
  unfold GateTimed at *
  exact h.trans (Channel.tick_timed secondTicks s.timers.gate).symm

end Sys2Proof.Machine

/-! Every command keeps S0 and the flow together, and the gate with GATE; outside S0 none lowers the stage (R2,
R3, R68, R162, R163). -/

namespace Sys2Proof.Machine

section
variable {s t : State}

/-! ### The transactions -/

/-- PROGRAM (R21). -/
theorem execProgram_keeps (addr : Address) (data : List Byte) (n : Nat)
    (e : execProgram addr data n s = .next t) (h : FlowInvariant s) : StepKeeps s t := by
  refine perform_flows e h fun u => transact_flows (fun v => rfl) fun q v => ?_
  split
  · exact (programUnit_awake v q _ _).upto
  · exact .refl v

/-- ERASE_4K (R21, R40). -/
theorem execErase4k_keeps (addr : Address) (e : execErase4k addr s = .next t) (h : FlowInvariant s) :
    StepKeeps s t := by
  refine perform_flows e h fun u => transact_flows (fun v => rfl) fun q v => ?_
  split
  · exact .same (erase4kUnit_clock v q _)
  · exact .refl v

/-- ERASE_64K (R21, R40). -/
theorem execErase64k_keeps (addr : Address) (e : execErase64k addr s = .next t) (h : FlowInvariant s) :
    StepKeeps s t := by
  refine perform_flows e h fun u => transact_flows (fun v => rfl) fun q v => ?_
  split
  · exact .same (erase64kUnit_clock v q _)
  · exact .refl v

/-- ERASE_CHIP (R27). -/
theorem execEraseChip_keeps (e : execEraseChip s = .next t) (h : FlowInvariant s) : StepKeeps s t := by
  refine perform_flows e h fun u => transact_flows (fun v => rfl) fun q v => ?_
  split
  · split <;> exact .same
  · exact .refl v

/-- WREN (R20, R22). -/
theorem execWren_keeps (e : execWren s = .next t) (h : FlowInvariant s) : StepKeeps s t := by
  refine perform_flows e h fun u => transact_flows (fun v => rfl) fun q v => ?_
  split <;> exact .same

/-- WRDI (R20). -/
theorem execWrdi_keeps (e : execWrdi s = .next t) (h : FlowInvariant s) : StepKeeps s t :=
  perform_flows e h fun _ => transact_flows (fun _ => rfl) fun _ _ => .same

/-- STATUS_READ (R24). -/
theorem execStatusRead_keeps (sel : StatusByte) (count : Nat) (e : execStatusRead sel count s = .next t)
    (h : FlowInvariant s) : StepKeeps s t :=
  perform_flows e h fun _ => transact_flows (fun _ => rfl) fun _ _ => .same

/-- STATUS_WRITE (R26). -/
theorem execStatusWrite_keeps (data : List Byte) (e : execStatusWrite data s = .next t)
    (h : FlowInvariant s) : StepKeeps s t := by
  refine perform_flows e h fun u => transact_flows (fun v => rfl) fun q v => ?_
  split
  · split <;> exact .same
  · exact .same

/-- IDENT (R25). -/
theorem execIdent_keeps (count : Nat) (e : execIdent count s = .next t) (h : FlowInvariant s) :
    StepKeeps s t :=
  perform_flows e h fun _ => transact_flows (fun _ => rfl) fun _ _ => .same

/-- FLASH_RESET (R28). -/
theorem execFlashReset_keeps (e : execFlashReset s = .next t) (h : FlowInvariant s) : StepKeeps s t :=
  perform_flows e h fun _ => transact_flows (fun _ => rfl) fun _ _ => .same

/-- OTHER (R29). -/
theorem execOther_keeps (cmd : Byte) (data : List Byte) (count : Nat)
    (e : execOther cmd data count s = .next t) (h : FlowInvariant s) : StepKeeps s t :=
  perform_flows e h fun _ => transact_flows (fun _ => rfl) fun _ _ => .same

/-! ### The other rows -/

/-- READ (R39). -/
theorem execRead_keeps (part : ReadPart) (count : Nat) (flash : List Byte)
    (e : execRead part count flash s = .next t) (h : FlowInvariant s) :
    StepKeeps s t :=
  perform_flows e h fun u => read_flows u part count flash

/-- READ_END (R30, R33). -/
theorem execReadEnd_keeps (e : execReadEnd s = .next t) (h : FlowInvariant s) :
    StepKeeps s t :=
  perform_flows e h fun u => .same (endRead_posture u)

/-- FLASH_FINISHED (R30). -/
theorem execFlashFinished_keeps (e : execFlashFinished s = .next t) (h : FlowInvariant s) :
    StepKeeps s t := by
  refine perform_flows e h fun u => ?_
  split
  · exact .same (freePort_posture (u.toFlash [.statusPoll]))
  · exact .refl u

/-- CHUNK_COMPLETE (R31). -/
theorem execChunkComplete_keeps (data : List Byte) (e : execChunkComplete data s = .next t) (h : FlowInvariant s) :
    StepKeeps s t :=
  perform_flows e h fun u => chunkBytes_flows u data

/-- SIGNATURE_COMPLETE (R134). -/
theorem execSignatureComplete_keeps (e : execSignatureComplete s = .next t) (h : FlowInvariant s) :
    StepKeeps s t :=
  perform_flows e h fun u => finishSignature_flows u

/-- GENERATION_COMPLETE (R134). -/
theorem execGenerationComplete_keeps (e : execGenerationComplete s = .next t) (h : FlowInvariant s) :
    StepKeeps s t :=
  perform_flows e h fun u => (finishGeneration_flows u).also (observeAbort_flows _)

/-- RECORD_WRITE_BEGIN (R125). -/
theorem execRecordWriteBegin_keeps (e : execRecordWriteBegin s = .next t) (h : FlowInvariant s) :
    StepKeeps s t :=
  perform_flows e h fun u => recordBegin_flows u

/-- RECORD_WRITE_COMPLETE (R125). -/
theorem execRecordWriteComplete_keeps (e : execRecordWriteComplete s = .next t) (h : FlowInvariant s) :
    StepKeeps s t :=
  perform_flows e h fun u => recordComplete_flows u

/-- FUSE_ATTEMPT_DONE (R119). -/
theorem execFuseAttemptDone_keeps (back : Bool) (e : execFuseAttemptDone back s = .next t)
    (h : FlowInvariant s) : StepKeeps s t := by
  refine perform_flows e h fun u => ?_
  split
  · exact .refl u
  · exact fuseAttempt_flows u _ _

/-- ENTRY_INTO_LOW (R131). -/
theorem execEntryIntoLow_keeps (e : execEntryIntoLow s = .next t) (h : FlowInvariant s) : StepKeeps s t := by
  refine perform_flows e h fun u => ?_
  split
  · exact enterLow_flows u
  · exact .refl u

/-- ENTRY_INTO_NORMAL (R131). -/
theorem execEntryIntoNormal_keeps (e : execEntryIntoNormal s = .next t) (h : FlowInvariant s) :
    StepKeeps s t := by
  refine perform_flows e h fun u => ?_
  split
  · exact .refl u
  · exact enterNormal_flows u

/-- PRESS (R174). -/
theorem execPress_keeps (e : execPress s = .next t) (h : FlowInvariant s) : StepKeeps s t := by
  refine perform_flows e h fun u => ?_
  split
  · exact .refl u
  · exact (button_flows u).1

/-- RELEASE (R174). -/
theorem execRelease_keeps (e : execRelease s = .next t) (h : FlowInvariant s) : StepKeeps s t := by
  refine perform_flows e h fun u => ?_
  split
  · exact (button_flows u).2
  · exact .refl u

/-- TRIAL_EXPIRY (R107). -/
theorem execTrialExpiry_keeps (e : execTrialExpiry s = .next t) (h : FlowInvariant s) : StepKeeps s t :=
  perform_flows e h fun u => tickEvent_flows u false false false .trial

/-- GATE_EXPIRY (R163). -/
theorem execGateExpiry_keeps (e : execGateExpiry s = .next t) (h : FlowInvariant s) : StepKeeps s t :=
  perform_flows e h fun u => tickEvent_flows u false false false .gate

/-- PENALTY_EXPIRY (R164). -/
theorem execPenaltyExpiry_keeps (e : execPenaltyExpiry s = .next t) (h : FlowInvariant s) : StepKeeps s t :=
  perform_flows e h fun u => tickEvent_flows u false false false .penalty

/-- PRESENCE_EXPIRY (R174). -/
theorem execPresenceExpiry_keeps (e : execPresenceExpiry s = .next t) (h : FlowInvariant s) :
    StepKeeps s t :=
  perform_flows e h fun u => tickEvent_flows u false false false .presence

/-- A fresh part: at the first step of a flow, its engine quiet (R89, R116). -/
theorem stepKeeps_fresh {s t : State} (h : t.posture = State.reset.posture) : StepKeeps s t := by
  have rest : t.rest = State.reset.rest := congrArg Prod.snd h
  have stage : t.stage = .s0 := congrArg (fun q => q.1.stage) h
  refine ⟨(flowInvariant_iff t).2 ⟨fresh_flowBody h, fun _ => ⟨congrArg Rest.ownerReset rest,
    congrArg Rest.floorBurn rest, congrArg Rest.held rest⟩⟩, fun _ up => absurd stage up⟩

/-- POWER_ON (R116, R123). -/
theorem execPowerOn_keeps (sensed : List FuseBit) (r : Bool) (e : execPowerOn sensed r s = .next t) :
    StepKeeps s t := by
  have back : ∀ (u : State) (x : SlotId), (u.rollBack x).posture = u.posture := by
    intro u x
    unfold State.rollBack
    split
    · exact changeSlot_posture u x _
    · rfl
  obtain rfl := Host.Outcome.next.inj e
  exact stepKeeps_fresh ((back _ .b).trans (back _ .a))

/-- POWER_LOSS (R116, R125). -/
theorem execPowerLoss_keeps (e : execPowerLoss s = .next t) (h : FlowInvariant s) : StepKeeps s t :=
  perform_keeps e h fun _ _ => ⟨fresh_flowBody rfl, fun _ => .inl rfl⟩

/-- RESET_IN (R88). -/
theorem execResetIn_keeps (e : execResetIn s = .next t) (h : FlowInvariant s) : StepKeeps s t :=
  perform_flows e h fun u => (startFlow_flows (u.setResetIn true) .resetIn).after

/-- RESET_IN_RELEASE (R88). -/
theorem execResetInRelease_keeps (e : execResetInRelease s = .next t) (h : FlowInvariant s) :
    StepKeeps s t :=
  perform_flows e h fun _ => .same

/-- PLATFORM_RESTART (R97, R146). -/
theorem execPlatformRestart_keeps (e : execPlatformRestart s = .next t) (h : FlowInvariant s) :
    StepKeeps s t := by
  refine perform_flows e h fun u => ?_
  split
  · exact startFlow_flows u _
  · exact .refl u

/-- BOOT_FLOW_RESUME: the flow that waits in S0 goes on (R89). -/
theorem execBootFlowResume_keeps (i j k : Byte) (e : execBootFlowResume i j k s = .next t)
    (h : FlowInvariant s) : StepKeeps s t := by
  refine perform_keeps e h fun u hu => ?_
  split
  · next waits =>
    obtain ⟨waits, _⟩ := waits
    have st : u.stage = .s0 := hu.stage.2 (by rw [waits]; simp)
    exact ⟨hu.resumes st (resumeFlow_resumes u i j k), fun up => absurd st up⟩
  · exact ⟨hu, fun _ => .inr (.refl _)⟩

/-- A job's request outside S0 (R113, R176). -/
theorem execOwnerReset_keeps (e : execOwnerReset s = .next t) (h : FlowInvariant s) : StepKeeps s t := by
  refine perform_flows e h fun u => ?_
  split
  · next up => exact Awake.flows (fun _ => .same) fun st => absurd st up.2
  · exact .refl u

/-- A job's request outside S0 (R113, R176). -/
theorem execFloorBurn_keeps (e : execFloorBurn s = .next t) (h : FlowInvariant s) : StepKeeps s t := by
  refine perform_flows e h fun u => ?_
  split
  · next up => exact Awake.flows (fun _ => .same) fun st => absurd st up
  · exact .refl u

/-- ARRIVAL (R17). -/
theorem execArrival_keeps (cmd : Byte) (addr : BitVec 32) (e : execArrival cmd addr s = .next t)
    (h : FlowInvariant s) : StepKeeps s t :=
  perform_flows e h fun u => arrival_flows u cmd addr

/-- BASE_TICK (R11, R129, R174). -/
theorem execBaseTick_keeps (code : BitVec 12) (pressed : Bool) (order : List TickEvent)
    (e : execBaseTick code pressed order s = .next t) (h : FlowInvariant s) : StepKeeps s t :=
  perform_flows e h fun u => (tickCounts_flows u code pressed).also (tickEvents_flows _ _ _ _ _)

/-! ### Every command -/

/-- Every command keeps S0 and the flow together, and the stage from falling (R2, R3). -/
theorem exec_keeps {c : Instr} (e : exec c s = .next t) (h : FlowInvariant s) : StepKeeps s t := by
  cases hrow : serviceRow c with
  | some row =>
    rw [exec_service_row hrow] at e
    exact perform_flows e h fun u => submit_flows u _ _
  | none =>
    cases c
    all_goals try (simp only [serviceRow, reduceCtorEq] at hrow; done)
    case read part count flash => exact execRead_keeps part count flash e h
    case readEnd => exact execReadEnd_keeps e h
    case program addr data n => exact execProgram_keeps addr data n e h
    case erase4k addr => exact execErase4k_keeps addr e h
    case erase64k addr => exact execErase64k_keeps addr e h
    case eraseChip => exact execEraseChip_keeps e h
    case wren => exact execWren_keeps e h
    case wrdi => exact execWrdi_keeps e h
    case statusRead sel count => exact execStatusRead_keeps sel count e h
    case statusWrite data => exact execStatusWrite_keeps data e h
    case ident count => exact execIdent_keeps count e h
    case flashReset => exact execFlashReset_keeps e h
    case other cmd data count => exact execOther_keeps cmd data count e h
    case flashFinished => exact execFlashFinished_keeps e h
    case chunkComplete data => exact execChunkComplete_keeps data e h
    case signatureComplete => exact execSignatureComplete_keeps e h
    case generationComplete => exact execGenerationComplete_keeps e h
    case recordWriteBegin => exact execRecordWriteBegin_keeps e h
    case recordWriteComplete => exact execRecordWriteComplete_keeps e h
    case fuseAttemptDone back => exact execFuseAttemptDone_keeps back e h
    case entryIntoLow => exact execEntryIntoLow_keeps e h
    case entryIntoNormal => exact execEntryIntoNormal_keeps e h
    case press => exact execPress_keeps e h
    case release => exact execRelease_keeps e h
    case trialExpiry => exact execTrialExpiry_keeps e h
    case gateExpiry => exact execGateExpiry_keeps e h
    case penaltyExpiry => exact execPenaltyExpiry_keeps e h
    case presenceExpiry => exact execPresenceExpiry_keeps e h
    case powerOn sensed r => exact execPowerOn_keeps sensed r e
    case powerLoss => exact execPowerLoss_keeps e h
    case resetIn => exact execResetIn_keeps e h
    case resetInRelease => exact execResetInRelease_keeps e h
    case platformRestart => exact execPlatformRestart_keeps e h
    case bootFlowResume i j k => exact execBootFlowResume_keeps i j k e h
    case ownerReset => exact execOwnerReset_keeps e h
    case floorBurn => exact execFloorBurn_keeps e h
    case arrival cmd addr => exact execArrival_keeps cmd addr e h
    case baseTick code pressed order => exact execBaseTick_keeps code pressed order e h

end

/-- Settles O57: within a step each operation keeps the flow's invariant, and the arbiter rests behind it. -/
theorem stepKeepsTheFlowInvariant : Obligations.StepKeepsTheFlowInvariant := by
  intro s t e h
  obtain rfl | ⟨c, _, he⟩ := step_cases e
  · exact ⟨h, fun _ _ => .refl _⟩
  · obtain ⟨body, quiet⟩ := (flowInvariant_iff s).1 h
    have kept := exec_keeps he ((flowInvariant_iff _).2 ⟨body.of_posture rfl, quiet⟩)
    exact kept

end Sys2Proof.Machine

/-! Service commands on a ready part, each by one rule: the first refusal answers, else the command acts (R66, R67,
R72). STEP and the reset state with them (assumption 1). -/

namespace Sys2Proof.Machine

/-! ### The rule -/

/-- The supply is the last check of the commands that are checked for it (R72). -/
theorem firstRefusal_supply (before : List Check) (supply normal : Bool) (a : Reply) :
    firstRefusal (before ++ [(!supply || normal, a)]) =
      firstRefusal (before ++ if supply then [(normal, a)] else []) := by
  cases supply with
  | false => rw [Bool.not_false, Bool.true_or, firstRefusal_append_true]; simp
  | true => rfl

/-- The row of a gated command on a ready part: the first refusal of `cs`, which are the checks of R72 that can
fail, answers; else the command leaves `t` (R66, R67, R72). -/
theorem exec_gated {i : Instr} {code : Byte} {r : Request} {s t : State} {only : Option Lifecycle}
    {cond : Cond} {ok : Bool} {params state : List Check} {supply : Bool} {act : State → State}
    {cs : List Check} (hrow : serviceRow i = some (code, r)) (hready : s.Ready) (hfits : r.fits = true)
    (hd : dispatch (requestFrame code r) (s.taken code r) =
      (s.taken code r).gated (requestFrame code r) only cond ok params state supply act)
    (hcs : firstRefusal (lifecycleCheck s only :: (cond.holds s.stage, .detailed .stageDenied 0) ::
      (decide (r.reserved = 0) && ok, Reply.reservedField) :: (params ++ (state ++
      if supply then [(s.supply.normal, Reply.plain .supplyLow)] else []))) = firstRefusal cs)
    (hact : (∀ c ∈ cs, c.1 = true) → act (s.taken code r) = t) (hquiet : t.Quiet) :
    exec i s = .next (match firstRefusal cs with
      | some refusal => s.answered code r refusal
      | none => t) := by
  rw [exec_service_row hrow]
  rw [State.gated_taken, firstRefusal_supply] at hd
  simp only [List.cons_append, List.nil_append, List.append_assoc] at hd
  rw [hcs] at hd
  cases h : firstRefusal cs with
  | some refusal =>
    rw [h] at hd
    exact State.perform_service hready code r hfits hd (State.answered_quiet hready code r refusal)
  | none =>
    rw [h] at hd
    exact State.perform_service hready code r hfits (hd.trans (hact (firstRefusal_eq_none_iff.1 h))) hquiet

/-! ### The step and the reset state -/

/-- Settles O54: by the definition of a step. -/
theorem stepTakesTheFront : Obligations.StepTakesTheFront := by
  refine ⟨fun s c rest h => ?_, fun s h => ?_⟩
  · rw [step, h]
    rfl
  · rw [step, h]

/-- The reset state's Record Store and log are empty, its counts 0. -/
theorem reset_wellFormed : LogWellFormed State.reset.log ∧ WaitingWellFormed State.reset.records.waiting ∧
    CountsInBounds State.reset ∧ TablesWithin State.reset := by
  refine ⟨LogWellFormed.empty, ⟨List.nodup_nil, fun _ he => nomatch he⟩, ?_, ?_⟩
  · exact ⟨Nat.zero_le _, fun _ hc => (nomatch hc), fun _ hw => (nomatch hw), Nat.zero_le _,
      fun _ hv => (nomatch hv), by decide⟩
  · exact ⟨TableWithin.unloaded, fun _ ha => (nomatch ha), fun _ hr => (nomatch hr)⟩

/-- Settles O55: the fields by definition, the invariants by what an empty part satisfies. -/
theorem resetState : Obligations.ResetState := by
  obtain ⟨log, waiting, counts, tables⟩ := reset_wellFormed
  have quiet : State.reset.Quiet := fun _ => ⟨rfl, rfl, rfl⟩
  refine ⟨rfl, rfl, rfl, rfl, rfl, rfl, rfl, rfl, rfl, rfl, rfl, rfl, rfl, rfl, rfl, rfl, rfl, rfl, rfl, rfl,
    rfl, quiet, log, waiting, counts, tables, ?_, fun _ => rfl, ?_⟩
  · exact (flowInvariant_iff _).2 ⟨fresh_flowBody rfl, quiet⟩
  · exact poweredOff_awaits rfl rfl rfl

/-! ### Commands that answer at once -/

/-- Settles O15: REBOOT answers, and the restart is due. -/
theorem rebootEndsThenRestarts : Obligations.RebootEndsThenRestarts := by
  intro s r hready hfits
  refine exec_gated (code := 0x24) (i := .reboot r) rfl hready hfits
    (show dispatch _ _ = cmdReboot _ _ from rfl) ?checks ?acts ?quiet
  case checks =>
    rw [exactParams_zero, Bool.and_true, Cond.always_holds]
    rfl
  case acts => exact fun _ => rfl
  case quiet => exact State.answered_quiet hready 0x24 r (.ok [])

/-- The running slot's byte (Table 12-2). -/
theorem slotByte_running (m : Mode) : slotByte m.running = match m with
    | .runA => 1
    | .runB => 2
    | .recovery => 0
    | .passthrough => 0 := by
  cases m <;> rfl

/-- A slot's part of SLOT_STATUS, its summary's presence and fields together (R98, R187). -/
theorem SlotRec.statusBytes_eq (r : SlotRec) : r.statusBytes =
    [r.state.toByte, (if r.state = .verifying then r.prior else r.state).toByte,
      (if r.state = .failed then r.reason else .none).toByte] ++
    (match r.summary with
      | some m =>
        [1] ++ u8 m.securityVersion ++ u32 m.imageVersion ++ u32 m.imageLength ++ m.imageDigest ++
          m.policyDigest ++ m.manifestDigest ++ u8 m.authority ++ u16 m.trialTime ++ flagByte m.revokeOther
      | none => List.replicate 110 0) := by
  unfold SlotRec.statusBytes
  cases r.summary with
  | none => rfl
  | some m => simp [flagByte, summaryBytes]

/-- Settles O2: both reports are answers of a frame taken at once. -/
theorem slotStatusAndPolicyRead : Obligations.SlotStatusAndPolicyRead := by
  refine ⟨⟨by decide, by decide, by decide, by decide⟩, ?slots, ?policy⟩
  case slots =>
    intro s r hready hfits
    refine exec_answered rfl hready hfits ?_
    change cmdSlotStatus (requestFrame 0x02 r) (s.taken 0x02 r) = _
    rw [cmdSlotStatus, State.gated_report, exactParams_zero]
    simp only [State.slotStatusPayload, SlotRec.statusBytes_eq, slotByte_running, List.flatMap_cons,
      List.flatMap_nil, List.append_assoc, List.append_nil]
    rfl
  case policy =>
    intro s r hready hfits
    refine exec_answered rfl hready hfits ?_
    change cmdPolicyRead (requestFrame 0x03 r) (s.taken 0x03 r) = _
    rw [cmdPolicyRead, State.gated_report, exactParams_zero]
    simp only [State.policyPayload, Geometry.bytes, List.append_assoc]
    rfl

end Sys2Proof.Machine

/-! Stage, policy and update commands on a ready part (R4, R53 to R55, R101, R105, R106, R108, R157, R158, R173). -/

namespace Sys2Proof.Machine

/-! ### CRED_LIST, GATE_CLOSE -/

/-- A record's part of CRED_LIST (R173). -/
theorem Cred.listBytes_eq (c : Cred) (id : Fin 24) : c.listBytes id = match c with
    | .empty => [0, if id = 0 then 1 else 0, 0]
    | .verifier label _ _ => [1, 1] ++ u8 label.length ++ label
    | .secret label _ cond gate =>
      [1, 2] ++ u8 label.length ++ label ++ [cond.toByte] ++ flagByte gate := by
  cases c <;> rfl

/-- A gated command that only reports: it answers its first refusal, else its report (R67, R72). -/
theorem exec_gated_report {i : Instr} {code : Byte} {r : Request} {s : State} {only : Option Lifecycle}
    {cond : Cond} {ok : Bool} {params state : List Check} {supply : Bool} {act : State → State}
    {cs : List Check} {a : Reply} (hrow : serviceRow i = some (code, r)) (hready : s.Ready)
    (hfits : r.fits = true)
    (hd : dispatch (requestFrame code r) (s.taken code r) =
      (s.taken code r).gated (requestFrame code r) only cond ok params state supply act)
    (hcs : firstRefusal (lifecycleCheck s only :: (cond.holds s.stage, .detailed .stageDenied 0) ::
      (decide (r.reserved = 0) && ok, Reply.reservedField) :: (params ++ (state ++
      if supply then [(s.supply.normal, Reply.plain .supplyLow)] else []))) = firstRefusal cs)
    (hact : (∀ c ∈ cs, c.1 = true) → act (s.taken code r) = s.answered code r a) :
    exec i s = .next (s.answered code r ((firstRefusal cs).getD a)) := by
  rw [exec_gated hrow hready hfits hd hcs hact (State.answered_quiet hready code r a)]
  cases firstRefusal cs <;> rfl

/-- Settles O4: CRED_LIST is a report, GATE_CLOSE closes the gate as it answers. -/
theorem credListAndGateClose : Obligations.CredListAndGateClose := by
  refine ⟨by decide, ?list, ?close⟩
  case list =>
    intro s r hready hfits
    refine exec_gated_report (code := 0x07) (i := .credList r) rfl hready hfits
      (show dispatch _ _ = cmdCredList _ _ from rfl) ?_ fun _ => ?_
    · rw [Bool.and_true, exactParams_zero]
      rfl
    · rw [State.taken_endCommand]
      refine congrArg (fun payload => s.answered 0x07 r (.ok payload)) ?_
      simp only [State.credListPayload, Cred.listBytes_eq]
      rfl
  case close =>
    intro s r hready hfits
    refine exec_gated (code := 0x44) (i := .gateClose r) rfl hready hfits
      (show dispatch _ _ = cmdGateClose _ _ from rfl) ?_ (fun _ => rfl) (State.answered_quiet hready 0x44 r _)
    rw [exactParams_zero, Bool.and_true, Cond.always_holds]
    rfl

/-! ### STAGE_ADVANCE -/

/-- The gate's close leaves its event where it was OPEN (R163). -/
theorem State.closeGate_events (s : State) : s.closeGate = { s with
    cred := { s.cred with gateOpen := false }
    timers := { s.timers with gate := s.timers.gate.stop }
    events := { s.events with pending :=
      if s.cred.gateOpen then s.events.pending ||| 64 else s.events.pending } } := by
  unfold State.closeGate
  cases s.cred.gateOpen <;> rfl

/-- Settles O7: past the checks the stage is raised, the gate closed and the record made. -/
theorem stageAdvanceRaisesTheStage : Obligations.StageAdvanceRaisesTheStage := by
  intro s r hready hfits n new
  refine exec_gated (code := 0x10) (i := .stageAdvance r) rfl hready hfits
    (show dispatch _ _ = cmdStageAdvance _ _ from rfl) ?_ (fun _ => ?_) (State.answered_quiet hready 0x10 r _)
  · rw [Bool.and_true, Cond.always_holds, exactParams_request, Bool.decide_and]
    rfl
  · simp only [State.advanceStage, State.closeGate_events]
    rfl

/-! ### POLICY_TIGHTEN -/

/-- The selector of an access (Table 12-5). -/
theorem accessOf_isSome (n : Nat) : (accessOf n).isSome = decide (n ≤ 1) := by
  unfold accessOf
  split
  · next h => simp [h]
  · split
    · next h => simp [h]
    · simp; omega

/-- The access that a selector names, READ where it names none. -/
theorem accessOf_getD (n : Nat) : (accessOf n).getD .read = if n = 1 then .write else .read := by
  unfold accessOf
  split
  · next h => simp [h]
  · split <;> rfl

/-- A condition's validity is its bound's (R7). -/
theorem Cond.valid_eq (c : Cond) : c.valid = decide (c.bound < 8) := by
  unfold Cond.valid
  exact decide_eq_decide.2 Iff.rfl

/-- The table's target as an entry's index, or 32 for DEFAULT (R54). -/
theorem RegionTable.target_eq (t : RegionTable) (target : Nat) (a : Access) : t.target target a =
    if target = 32 then t.dflt.map fun d => d.cond a else t.entries[target]?.map fun e => e.cond a := rfl

/-- A field of reserved zeros inside a slice is one of the whole. -/
theorem zeroBytes_slice {b : List Byte} {i n j k : Nat} (h : j + k ≤ n) :
    zeroBytes (slice b i n) j k = zeroBytes b (i + j) k := by
  unfold zeroBytes slice
  rw [List.drop_take, List.take_take, List.drop_drop, Nat.min_eq_left (by omega)]

/-- POLICY_TIGHTEN's form (a) (R54). -/
theorem exec_tightenA {s : State} {r : Request} (hready : s.Ready) (hfits : r.fits = true)
    (form : byteAt r.params 0 = 1) :
    let target := (byteAt r.params 1).toNat
    let access : Access := if (byteAt r.params 2).toNat = 1 then .write else .read
    let new := Cond.ofByte (byteAt r.params 3)
    let held := s.filter.table.target target access
    exec (.policyTighten r) s = .next (match firstRefusal
        [(decide (s.fuses.image.lifecycle ≠ 0), .plain .lifecycleDenied),
          (decide (r.reserved = 0), Reply.reservedField), (decide (r.params.length = 4), Reply.range),
          (held.isSome, Reply.range), (decide ((byteAt r.params 2).toNat ≤ 1), Reply.range),
          (decide (new.bound < 8), Reply.range), (new.noWider (held.getD new), Reply.widening)] with
      | some refusal => s.answered 0x12 r refusal
      | none => (s.setTable (s.filter.table.tighten target access new)).answered 0x12 r
          (.ok [byteAt r.params 1, byteAt r.params 2, (held.getD new).toByte, new.toByte])) := by
  intro target access new held
  have row : dispatch (requestFrame 0x12 r) (s.taken 0x12 r) =
      cmdTightenA (requestFrame 0x12 r) (s.taken 0x12 r) := by
    change cmdPolicyTighten (requestFrame 0x12 r) (s.taken 0x12 r) = _
    rw [cmdPolicyTighten, requestFrame_params, if_pos form]
  dsimp only [cmdTightenA] at row
  refine exec_gated (code := 0x12) (i := .policyTighten r) rfl hready hfits row ?_ (fun _ => ?_)
    (State.answered_quiet hready 0x12 r _)
  · rw [Bool.and_true, Cond.always_holds, exactParams_request, lifecycleCheck_deployed, Cond.valid_eq,
      accessOf_isSome, accessOf_getD]
    rfl
  · rw [accessOf_getD]
    rfl

/-- POLICY_TIGHTEN's form (b) (R55). -/
theorem exec_tightenB {s : State} {r : Request} (hready : s.Ready) (hfits : r.fits = true)
    (form : byteAt r.params 0 = 2) :
    let entry := (r.params.drop 1).take 16
    let t := s.filter.table
    exec (.policyTighten r) s = .next (match firstRefusal
        [(decide (s.fuses.image.lifecycle ≠ 0), .plain .lifecycleDenied),
          (decide (r.reserved = 0) && zeroBytes r.params 4 1 && zeroBytes r.params 6 1 &&
            zeroBytes r.params 7 2, Reply.reservedField),
          (decide (r.params.length = 17), Reply.range),
          ((parseRegion entry).any fun e => e.valid s.filter.geo, Reply.range),
          (decide (t.tight.length < 4), .plain .full)] with
      | some refusal => s.answered 0x12 r refusal
      | none => (s.setTable { t with tight := t.tight ++ (parseRegion entry).toList }).answered 0x12 r
          (.ok [BitVec.ofNat 8 (28 + t.tight.length)])) := by
  intro entry t
  have row : dispatch (requestFrame 0x12 r) (s.taken 0x12 r) =
      cmdTightenB (requestFrame 0x12 r) (s.taken 0x12 r) := by
    change cmdPolicyTighten (requestFrame 0x12 r) (s.taken 0x12 r) = _
    rw [cmdPolicyTighten, requestFrame_params, form]
    rfl
  dsimp only [cmdTightenB] at row
  have reserved : (decide (r.reserved = 0) && zeroBytes r.params 4 1 && zeroBytes r.params 6 1 &&
      zeroBytes r.params 7 2) = (decide (r.reserved = 0) && (zeroBytes (slice r.params 1 16) 3 1 &&
      zeroBytes (slice r.params 1 16) 5 1 && zeroBytes (slice r.params 1 16) 6 2)) := by
    rw [zeroBytes_slice (by decide), zeroBytes_slice (by decide), zeroBytes_slice (by decide)]
    simp only [Bool.and_assoc]
  have valid : (match parseRegion entry with
      | some e => e.valid s.filter.geo
      | none => false) = (parseRegion entry).any fun e => e.valid s.filter.geo := by
    cases parseRegion entry <;> rfl
  refine exec_gated (code := 0x12) (i := .policyTighten r) rfl hready hfits row ?_ (fun passed => ?_)
    (State.answered_quiet hready 0x12 r _)
  · rw [Cond.always_holds, exactParams_request, lifecycleCheck_deployed, reserved, ← valid]
    rfl
  · simp only [List.forall_mem_cons] at passed
    obtain ⟨_, _, _, parsed, _⟩ := passed
    cases he : parseRegion entry with
    | none => rw [he] at parsed; exact nomatch parsed
    | some e =>
      have here : parseRegion (slice r.params 1 16) = some e := he
      simp only [requestFrame_params, here]
      rfl

/-- Settles O10: the conditions of a target by definition, the forms by their rows. -/
theorem policyTightenNarrows : Obligations.PolicyTightenNarrows := by
  refine ⟨fun _ _ => ⟨rfl, rfl, rfl, rfl⟩, fun _ _ => ⟨rfl, rfl, rfl, rfl⟩, ?_⟩
  intro s r hready hfits byte deployed target access new held entry t put
  split
  · next form =>
    have tightened := exec_tightenA hready hfits form
    exact tightened
  · split
    · next form => exact exec_tightenB hready hfits form
    · next notA notB =>
      have row : dispatch (requestFrame 0x12 r) (s.taken 0x12 r) = (s.taken 0x12 r).gated
          (requestFrame 0x12 r) (some .deployed) Cond.always true [(false, Reply.range)] [] false id := by
        change cmdPolicyTighten (requestFrame 0x12 r) (s.taken 0x12 r) = _
        rw [cmdPolicyTighten, requestFrame_params, if_neg notA, if_neg notB]
      refine exec_gated (code := 0x12) (i := .policyTighten r) rfl hready hfits row ?_ (fun passed => ?_)
        hready.quiet
      · rw [Bool.and_true, Cond.always_holds, lifecycleCheck_deployed]
        rfl
      · simp at passed

end Sys2Proof.Machine

/-! QUOTE and the update commands on a ready part (R101, R105, R106, R108, R157, R158). -/

namespace Sys2Proof.Machine

/-! ### QUOTE -/

/-- The running slot of a mode (R36). -/
theorem Mode.running_eq (m : Mode) : m.running = match m with
    | .runA => some .a
    | .runB => some .b
    | .recovery => none
    | .passthrough => none := by
  cases m <;> rfl

/-- Settles O11: past the checks the part is DEPLOYED, and the body is signed. -/
theorem quoteSignsTheBody : Obligations.QuoteSignsTheBody := by
  intro s r hready hfits running body
  refine exec_gated (code := 0x13) (i := .quote r) rfl hready hfits
    (show dispatch _ _ = cmdQuote _ _ from rfl) ?_ (fun passed => ?_) (State.started_quiet s 0x13 r _)
  · rw [Bool.and_true, Cond.always_holds, lifecycleCheck_deployed, Bool.decide_and]
    rfl
  · simp only [List.forall_mem_cons, decide_eq_true_eq] at passed
    obtain ⟨deployed, _⟩ := passed
    have life : s.life = .deployed := s.life_deployed_iff.2 deployed
    have signed : (s.taken 0x13 r).quoteBody r.params = body := by
      cases hm : s.filter.mode <;>
        simp only [body, running, State.quoteBody, State.taken_life, life, State.runningSummary, quoteImage,
          State.taken_filter, hm, Mode.running, u8, u32, List.append_assoc, List.cons_append, List.nil_append] <;>
        rfl
    change (s.taken 0x13 r).work (.sign (s.keys[(0 : Fin 16)].scalar.getD 0)
      (sha256 ((s.taken 0x13 r).quoteBody r.params)) ((s.taken 0x13 r).quoteBody r.params)) = _
    rw [signed]
    rfl

/-! ### The slots of a running mode -/

/-- The other slot of RUN_A and RUN_B is UPDATE_VERIFY's target, and slot B outside them (R36, R101). -/
theorem State.target_eq (s : State) (h : s.runs = true) : s.target = s.otherOfRun := by
  unfold State.target State.otherOfRun State.runs at *
  cases hm : s.filter.mode <;> simp_all [Mode.running, SlotId.other]

/-- A state of the other slot, where there is one (R101). -/
theorem State.otherState_eq (s : State) :
    s.otherState = if s.runs then some (s.slot s.otherOfRun).state else none := by
  unfold State.otherState State.otherOfRun State.runs
  cases s.filter.mode <;> rfl

/-- A state of the running slot, where there is one (R36). -/
theorem State.runningState_eq (s : State) :
    s.runningState = if s.runs then some (s.slot s.runningOfRun).state else none := by
  unfold State.runningState State.runningOfRun State.runs
  cases s.filter.mode <;> rfl

/-- The running slot's summary, where there is one (R36). -/
theorem State.runningSummary_eq (s : State) (h : s.runs = true) :
    s.runningSummary = (s.slot s.runningOfRun).summary := by
  unfold State.runningSummary State.runningOfRun State.runs at *
  cases hm : s.filter.mode <;> simp_all [Mode.running]

/-! ### UPDATE_VERIFY, UPDATE_ARM, UPDATE_DISARM -/

/-- A slot that UPDATE_VERIFY takes (R101). -/
theorem SlotState.verifiable_eq (x : SlotState) :
    x.verifiable = decide (x = .staged ∨ x = .verified ∨ x = .spare ∨ x = .failed) := by
  cases x <;> rfl

/-- UPDATE_VERIFY's precondition on the other slot (R101). -/
theorem State.otherVerifiable_eq (s : State) : (s.otherState.map SlotState.verifiable).getD false =
    (s.runs && decide ((s.slot s.otherOfRun).state = .staged ∨ (s.slot s.otherOfRun).state = .verified ∨
      (s.slot s.otherOfRun).state = .spare ∨ (s.slot s.otherOfRun).state = .failed)) := by
  rw [State.otherState_eq]
  cases s.runs with
  | false => rfl
  | true => exact SlotState.verifiable_eq _

/-- A chunk asked for: at once over an idle port, else it waits (R31, R32). -/
theorem State.requestChunk_eq (s : State) (start len : Nat) : s.requestChunk start len = { s with
    down := if s.down.port = .idle then
        { s.down with port := .carryingChunk, chunk := ⟨start, len, [], .inFlight⟩ }
      else { s.down with chunk := ⟨start, len, [], .waiting⟩ }
    out := { s.out with toFlash := s.out.toFlash ++ if s.down.port = .idle then [.readFrom start] else [] } } := by
  unfold State.requestChunk
  cases hp : s.down.port <;> simp [State.toFlash]

/-- A slot's base (R36). -/
theorem slotBase_eq (g : Geometry) (x : SlotId) : slotBase g x = if x = .a then 0 else g.slotSize := by
  cases x <;> rfl

/-- Settles O12: past the checks the mode has another slot, which is taken, and its manifest chunk asked for. -/
theorem updateVerifyTakesTheSlot : Obligations.UpdateVerifyTakesTheSlot := by
  intro s r hready hfits x base old
  refine exec_gated (code := 0x20) (i := .updateVerify r) rfl hready hfits
    (show dispatch _ _ = cmdUpdateVerify _ _ from rfl) ?_ (fun passed => ?_)
    (State.started_quiet _ 0x20 r (.verify x))
  · rw [Bool.and_true, lifecycleCheck_deployed, exactParams_zero]
    have other := s.otherVerifiable_eq
    rw [← other]
    rfl
  · simp only [List.forall_mem_cons, Bool.and_eq_true] at passed
    obtain ⟨_, _, _, _, ⟨runs, _⟩, _⟩ := passed
    have target : (s.taken 0x20 r).target = x := s.target_eq runs
    have start : slotBase s.filter.geo x = base := slotBase_eq _ x
    simp only [target, State.startVerify, State.requestChunk_eq]
    rw [show slotBase (s.taken 0x20 r).filter.geo x = base from start]
    rfl

/-- Settles O13: past the checks the other slot changes, with its SLOT write asked for. -/
theorem updateArmAndDisarm : Obligations.UpdateArmAndDisarm := by
  refine ⟨?arm, ?disarm⟩
  case arm =>
    intro s r hready hfits x
    refine exec_gated (code := 0x21) (i := .updateArm r) rfl hready hfits
      (show dispatch _ _ = cmdUpdateArm _ _ from rfl) ?_ (fun passed => ?_)
      (State.answered_quiet hready 0x21 r _)
    · have armed : (decide (s.runningState = some .active) && decide (s.otherState = some .verified)) =
          (s.runs && decide ((s.slot s.runningOfRun).state = .active) &&
            decide ((s.slot x).state = .verified)) := by
        rw [State.runningState_eq, State.otherState_eq]
        cases s.runs <;> simp [x]
      rw [Bool.and_true, exactParams_zero, ← armed]
      rfl
    · simp only [List.forall_mem_cons, Bool.and_eq_true] at passed
      obtain ⟨_, _, _, ⟨⟨runs, _⟩, _⟩, _⟩ := passed
      have target : (s.taken 0x21 r).target = x := s.target_eq runs
      have bytes : (s.slot x).versionBytes = (match (s.slot x).summary with
          | some m => [BitVec.ofNat 8 m.securityVersion] ++ leBytes 4 m.imageVersion
          | none => [0, 0, 0, 0, 0]) := by
        unfold SlotRec.versionBytes
        cases (s.slot x).summary <;> rfl
      simp only [target]
      exact congrArg (fun b => (s.slotBecomes x ⟨.armed, .armed, .none, (s.slot x).summary⟩).answered 0x21 r
        (.ok ([x.toByte] ++ b))) bytes
  case disarm =>
    intro s r hready hfits x
    refine exec_gated (code := 0x22) (i := .updateDisarm r) rfl hready hfits
      (show dispatch _ _ = cmdUpdateDisarm _ _ from rfl) ?_ (fun passed => ?_)
      (State.answered_quiet hready 0x22 r _)
    · have disarmed : decide (s.otherState = some .armed) =
          (s.runs && decide ((s.slot x).state = .armed)) := by
        rw [State.otherState_eq]
        cases s.runs <;> simp [x]
      rw [Bool.and_true, exactParams_zero, ← disarmed]
      rfl
    · simp only [List.forall_mem_cons, Bool.and_eq_true] at passed
      obtain ⟨_, _, _, ⟨runs, _⟩, _⟩ := passed
      have target : (s.taken 0x22 r).target = x := s.target_eq runs
      simp only [target]
      rfl

/-! ### UPDATE_CONFIRM -/

/-- UPDATE_CONFIRM on a ready part: refused, or TRIAL stopped and the COUNTERS write asked for (R108). -/
theorem exec_updateConfirm {s : State} {r : Request} (hready : s.Ready) (hfits : r.fits = true) :
    exec (.updateConfirm r) s = .next (match firstRefusal
        [(Cond.atOrAbove2.holds s.stage, .detailed .stageDenied 0),
          (decide (r.reserved = 0), Reply.reservedField), (r.params.isEmpty, Reply.range),
          (s.runs && decide ((s.slot s.runningOfRun).state = .trial), .plain .wrongState),
          (s.supply.normal, .plain .supplyLow)] with
      | some refusal => s.answered 0x23 r refusal
      | none => (s.stopTrial.asks .counters .command (.confirm s.confirmFloor s.confirmRevoke)).started 0x23 r
          (.confirmCounters s.confirmFloor s.confirmRevoke [])) := by
  refine exec_gated (code := 0x23) (i := .updateConfirm r) rfl hready hfits
    (show dispatch _ _ = cmdUpdateConfirm _ _ from rfl) ?_ (fun _ => rfl) (State.started_quiet _ 0x23 r _)
  have trial : decide (s.runningState = some .trial) =
      (s.runs && decide ((s.slot s.runningOfRun).state = .trial)) := by
    rw [State.runningState_eq]
    cases s.runs <;> simp
  rw [Bool.and_true, exactParams_zero, ← trial]
  rfl

/-- Settles O14: a refusal answers, else the new values are those of the running slot's summary. -/
theorem updateConfirmStarts : Obligations.UpdateConfirmStarts := by
  intro s r hready hfits refused
  have row := exec_updateConfirm hready hfits
  refine ⟨fun refusal h => ?_, ?_⟩
  · rw [row, show firstRefusal _ = some refusal from h]
  · intro m h hm floor revoke
    have passed := firstRefusal_eq_none_iff.1 h
    simp only [List.forall_mem_cons, Bool.and_eq_true] at passed
    obtain ⟨_, _, _, ⟨runs, _⟩, _⟩ := passed
    have summary : s.runningSummary = some m := (s.runningSummary_eq runs).trans hm
    have newFloor : s.confirmFloor = floor := by rw [State.confirmFloor, summary]
    have newRevoke : s.confirmRevoke = revoke := by rw [State.confirmRevoke, summary]; rfl
    rw [row, show firstRefusal _ = none from h, newFloor, newRevoke]
    rfl

end Sys2Proof.Machine

/-! Key, credential and provisioning commands on a ready part (R137 to R144, R171, R172). -/

namespace Sys2Proof.Machine

/-! ### KEY_SIGN, KEY_GENERATE, KEY_ERASE -/

/-- GATE restarted where the item requires the gate (R162). -/
theorem State.gateUse_eq (s : State) (b : Bool) :
    s.gateUse b = if b = true then s.gateRestarted else s := rfl

/-- Settles O17: past the checks the digest is signed, GATE restarted where the slot asks for it. -/
theorem keySignGatesAndStarts : Obligations.KeySignGatesAndStarts := by
  intro s r i hready hfits named p k
  obtain rfl : keySlot (requestFrame 0x30 r) 0 = i := keySlot_request 0x30 named
  have row : dispatch (requestFrame 0x30 r) (s.taken 0x30 r) =
      cmdKeySign (requestFrame 0x30 r) (s.taken 0x30 r) := rfl
  dsimp only [cmdKeySign] at row
  refine exec_gated (code := 0x30) (i := .keySign r) rfl hready hfits row ?_ (fun _ => ?_)
    (State.started_quiet _ 0x30 r _)
  · rw [Bool.and_true, Cond.always_holds, exactParams_request, ← Bool.decide_and]
    rfl
  · rw [State.gateUse_eq, State.taken_keys]
    change State.work (if k.gateRequired = true then _ else _) _ =
      State.started (if k.gateRequired = true then _ else _) 0x30 r _
    cases k.gateRequired <;> rfl

/-- A flag parameter is 0 or 1 (R139). -/
theorem flagOf_isSome (n : Nat) : (flagOf n).isSome = decide (n ≤ 1) := by
  match n with
  | 0 => rfl
  | 1 => rfl
  | n + 2 => simp [flagOf]

/-- The flag that a parameter sets (R139). -/
theorem flagOf_getD (n : Nat) : (flagOf n).getD false = decide (n = 1) := by
  match n with
  | 0 => rfl
  | 1 => rfl
  | n + 2 => simp [flagOf]

/-- Settles O18: past the checks GATE is restarted, and the pair generated or the slot's write asked for. -/
theorem keyGenerateAndErase : Obligations.KeyGenerateAndErase := by
  intro s r i hready hfits named p cond
  obtain rfl : keySlot (requestFrame 0x31 r) 0 = i := keySlot_request 0x31 named
  refine ⟨?generate, ?erase⟩
  case generate =>
    have row : dispatch (requestFrame 0x31 r) (s.taken 0x31 r) =
        cmdKeyGenerate (requestFrame 0x31 r) (s.taken 0x31 r) := rfl
    dsimp only [cmdKeyGenerate] at row
    refine exec_gated (code := 0x31) (i := .keyGenerate r) rfl hready hfits row ?_ (fun _ => ?_)
      (State.started_quiet _ 0x31 r _)
    · rw [exactParams_request, Cond.valid_eq, flagOf_isSome, ← Bool.decide_and]
      rfl
    · rw [flagOf_getD]
      rfl
  case erase =>
    have row : dispatch (requestFrame 0x32 r) (s.taken 0x32 r) =
        cmdKeyErase (requestFrame 0x32 r) (s.taken 0x32 r) := rfl
    dsimp only [cmdKeyErase] at row
    refine exec_gated (code := 0x32) (i := .keyErase r) rfl hready hfits row ?_ (fun _ => rfl)
      (State.started_quiet _ 0x32 r _)
    rw [Bool.and_true, exactParams_request, ← Bool.decide_and]
    rfl

/-! ### CRED_GET, CRED_DELETE -/

/-- Checks after one that fails do not matter (R72). -/
theorem firstRefusal_stops (before : List Check) (a : Reply) (after : List Check) :
    firstRefusal (before ++ (false, a) :: after) = some ((firstRefusal before).getD a) := by
  induction before with
  | nil => rfl
  | cons c cs ih =>
    obtain ⟨passes, b⟩ := c
    cases passes with
    | true => exact ih
    | false => rfl

/-- A check that passes is no refusal (R72). -/
theorem firstRefusal_passes (before : List Check) (a : Reply) (after : List Check) :
    firstRefusal (before ++ (true, a) :: after) = firstRefusal (before ++ after) := by
  induction before with
  | nil => rfl
  | cons c cs ih =>
    obtain ⟨passes, b⟩ := c
    cases passes with
    | true => exact ih
    | false => rfl

/-- CRED_GET and CRED_DELETE check a request of id 1 to 23 alike (R171, R172). -/
def credChecks (s : State) (r : Request) : List Check :=
  [(Cond.atOrAbove2.holds s.stage, .detailed .stageDenied 0), (decide (r.reserved = 0), Reply.reservedField),
    (decide (r.params.length = 1), Reply.range),
    (decide (1 ≤ (byteAt r.params 0).toNat ∧ (byteAt r.params 0).toNat ≤ 23), Reply.range)]

/-- The checks that CRED_GET and CRED_DELETE begin with, as the model makes them. -/
theorem credChecks_eq (s : State) (r : Request) (code : Byte) (after : List Check) :
    firstRefusal (lifecycleCheck s none :: (Cond.atOrAbove2.holds s.stage, .detailed .stageDenied 0) ::
      (decide (r.reserved = 0) && true, Reply.reservedField) ::
        exactParams (requestFrame code r) 1 ::
          (decide (1 ≤ (requestFrame code r).p 0) && decide ((requestFrame code r).p 0 ≤ 23), Reply.range) ::
            after) = firstRefusal (credChecks s r ++ after) := by
  rw [Bool.and_true, exactParams_request, ← Bool.decide_and]
  rfl

/-- CRED_GET on a ready part (R171). -/
theorem exec_credGet {s : State} {r : Request} {c : Cred} (hready : s.Ready) (hfits : r.fits = true)
    (hc : s.cred.creds[credId (requestFrame 0x42 r)] = c) :
    exec (.credGet r) s = .next (match firstRefusal (credChecks s r ++ [(!c.isVerifier, Reply.range),
          (c.isSet, .plain .emptyItem), (c.release.holds s.stage, Reply.itemStage),
          (!c.gated || s.cred.gateOpen, .plain .gateClosed)]) with
      | some refusal => s.answered 0x42 r refusal
      | none => (if c.gated = true then s.gateRestarted else s).answered 0x42 r
          (.ok ([byteAt r.params 0] ++ u8 c.value.length ++ c.value))) := by
  subst hc
  have row : dispatch (requestFrame 0x42 r) (s.taken 0x42 r) =
      cmdCredGet (requestFrame 0x42 r) (s.taken 0x42 r) := rfl
  dsimp only [cmdCredGet] at row
  refine exec_gated (code := 0x42) (i := .credGet r) rfl hready hfits row ?_ (fun _ => ?_) ?_
  · exact credChecks_eq s r 0x42 _
  · rw [State.gateUse_eq, State.taken_cred]
    cases Cred.gated _ <;> rfl
  · cases Cred.gated _
    · exact State.answered_quiet hready 0x42 r _
    · exact State.answered_quiet hready 0x42 r _

/-- Settles O24: of the kinds of record only a SECRET gets past CRED_GET's checks. -/
theorem credGetAndDelete : Obligations.CredGetAndDelete := by
  intro s r id hready hfits named p common
  obtain rfl : credId (requestFrame 0x42 r) = id := credId_request 0x42 named
  refine ⟨?get, ?delete⟩
  case get =>
    cases hc : s.cred.creds[credId (requestFrame 0x42 r)] with
    | empty =>
      rw [exec_credGet hready hfits hc]
      simp only [Cred.isVerifier, Cred.isSet, Bool.not_false]
      rw [firstRefusal_passes, firstRefusal_stops]
      rfl
    | verifier label salt digest =>
      rw [exec_credGet hready hfits hc]
      simp only [Cred.isVerifier, Bool.not_true]
      rw [firstRefusal_stops]
      rfl
    | secret label value cond gate =>
      rw [exec_credGet hready hfits hc]
      simp only [Cred.isVerifier, Bool.not_false, Cred.isSet, Cred.release, Cred.gated, Cred.value]
      rw [firstRefusal_passes, firstRefusal_passes, ← u8_toNat (byteAt r.params 0)]
      rfl
  case delete =>
    have row : dispatch (requestFrame 0x43 r) (s.taken 0x43 r) =
        cmdCredDelete (requestFrame 0x43 r) (s.taken 0x43 r) := rfl
    dsimp only [cmdCredDelete] at row
    refine exec_gated (code := 0x43) (i := .credDelete r) rfl hready hfits row ?_ (fun _ => rfl)
      (State.started_quiet _ 0x43 r _)
    rw [Cred.isSet_eq]
    exact credChecks_eq s r 0x43 _

/-! ### PROV_CONFIG, PROV_IDENTITY -/

/-- The ranges of R141, each field's bounds together. -/
theorem ConfigRec.valid_eq (c : ConfigRec) : c.valid = decide (
    (c.geo.flashSize = 16777216 ∨ c.geo.flashSize = 33554432 ∨ c.geo.flashSize = 67108864) ∧
    (65536 ∣ c.geo.slotSize ∧ 1048576 ≤ c.geo.slotSize ∧ 2 * c.geo.slotSize + 65536 ≤ c.geo.flashSize) ∧
    (65536 ∣ c.geo.apBase ∧ 2 * c.geo.slotSize ≤ c.geo.apBase ∧ c.geo.apBase + 65536 ≤ c.geo.flashSize) ∧
    (65536 ∣ c.geo.recSize ∧ 65536 ≤ c.geo.recSize ∧ c.geo.recSize ≤ c.geo.slotSize) ∧
    (65536 ∣ c.geo.recBase ∧ 2 * c.geo.slotSize ≤ c.geo.recBase ∧
      c.geo.recBase + c.geo.recSize ≤ c.geo.flashSize) ∧
    (c.geo.recBase + c.geo.recSize ≤ c.geo.apBase ∨ c.geo.apBase + 65536 ≤ c.geo.recBase) ∧
    (2600 ≤ c.threshold ∧ c.threshold ≤ 3400) ∧ (50 ≤ c.hysteresis ∧ c.hysteresis ≤ 300) ∧
    (1 ≤ c.samples ∧ c.samples ≤ 16) ∧ (60 ≤ c.gateIdle ∧ c.gateIdle ≤ 3600) ∧
    3 ≤ c.holdTime ∧ c.holdTime ≤ 30) := by
  unfold ConfigRec.valid
  simp only [← Bool.decide_and, ← Bool.decide_or, ← Nat.dvd_iff_mod_eq_zero, and_assoc, or_assoc]

/-- The check of a command of FACTORY (R72). -/
theorem lifecycleCheck_factory (s : State) : lifecycleCheck s (some .factory) =
    (decide (s.fuses.image.lifecycle = 0), .plain .lifecycleDenied) := by
  rw [lifecycleCheck, decide_eq_decide.2 s.life_factory_iff]

/-- Settles O25: the fields are the offsets of Table 12-5; past the checks the write is asked for, or the pairs
generated. -/
theorem provConfigAndIdentity : Obligations.ProvConfigAndIdentity := by
  refine ⟨fun ps => ?fields, ?config, ?identity⟩
  case fields =>
    simp only [parseConfig, leAt_succ ps 24, leAt_succ ps 27, leAt_zero, Nat.mul_zero, Nat.add_zero]
  case config =>
    intro s r hready hfits c g
    refine exec_gated (code := 0x60) (i := .provConfig r) rfl hready hfits
      (show dispatch _ _ = cmdProvConfig _ _ from rfl) ?_ (fun _ => rfl) (State.started_quiet _ 0x60 r _)
    rw [lifecycleCheck_factory, Cond.always_holds, exactParams_request, ConfigRec.valid_eq]
    rfl
  case identity =>
    intro s r hready hfits
    refine exec_gated (code := 0x61) (i := .provIdentity r) rfl hready hfits
      (show dispatch _ _ = cmdProvIdentity _ _ from rfl) ?_ (fun _ => rfl) (State.started_quiet _ 0x61 r _)
    rw [lifecycleCheck_factory, Cond.always_holds, exactParams_zero, Bool.and_true]
    rfl

/-! ### PROV_AUTHORITY, PROV_CERT -/

/-- The curve equation over reduced coordinates (R143). -/
theorem onCurve_eq (x y : Nat) : P256.onCurve x y = decide (x < P256.p ∧ y < P256.p ∧
    y * y % P256.p = (x * x * x + (P256.p - 3) * x + P256.b) % P256.p) := by
  rw [Bool.decide_and, Bool.decide_and, ← Bool.and_assoc]
  rfl

/-- Settles O26: past the checks one write is asked for. -/
theorem provAuthorityAndCert : Obligations.ProvAuthorityAndCert := by
  refine ⟨?authority, ?cert⟩
  case authority =>
    intro s r hready hfits index pub x y i
    have row : dispatch (requestFrame 0x62 r) (s.taken 0x62 r) =
        cmdProvAuthority (requestFrame 0x62 r) (s.taken 0x62 r) := rfl
    dsimp only [cmdProvAuthority] at row
    rw [P256.validKey, onCurve_eq] at row
    refine exec_gated (code := 0x62) (i := .provAuthority r) rfl hready hfits row ?_ (fun _ => rfl)
      (State.started_quiet _ 0x62 r _)
    rw [lifecycleCheck_factory, Cond.always_holds, exactParams_request]
    rfl
  case cert =>
    intro s r hready hfits
    refine exec_gated (code := 0x63) (i := .provCert r) rfl hready hfits
      (show dispatch _ _ = cmdProvCert _ _ from rfl) ?_ (fun _ => rfl) (State.started_quiet _ 0x63 r _)
    rw [lifecycleCheck_factory, Cond.always_holds, Bool.and_true, ← Bool.decide_and]
    rfl

end Sys2Proof.Machine

/-! CRED_SET on a ready part: its two forms of parameters, the proof or the gate, and the record (R169, R170). -/

namespace Sys2Proof.Machine

/-! ### The two forms of parameters -/

/-- A number below 256 is its byte's. -/
theorem byte_toNat {n : Nat} (h : n < 256) : (BitVec.ofNat 8 n).toNat = n := by
  rw [BitVec.toNat_ofNat, Nat.mod_eq_of_lt h]

/-- A byte from its number. -/
theorem ofNat_of_toNat {b : Byte} {n : Nat} (h : b.toNat = n) : BitVec.ofNat 8 n = b := by
  rw [← h, BitVec.ofNat_toNat, BitVec.setWidth_eq]

/-- CRED_SET's parameters with a passphrase (R169, Table 12-5). -/
def IsVerifierSet (ps : List Byte) (id : Fin 24) (label pass : List Byte) : Prop :=
  (1 ≤ label.length ∧ label.length ≤ 16) ∧ 1 ≤ pass.length ∧ pass.length ≤ 64 ∧
    ps = [BitVec.ofNat 8 id.val, 1, 0, BitVec.ofNat 8 label.length] ++ label ++
      [BitVec.ofNat 8 pass.length] ++ pass

/-- CRED_SET's parameters with a secret value (R169, Table 12-5). -/
def IsSecretSet (ps : List Byte) (id : Fin 24) (label value : List Byte) (cond : Cond) (gate : Bool) : Prop :=
  id ≠ 0 ∧ (1 ≤ label.length ∧ label.length ≤ 16) ∧ cond.bound < 8 ∧ 1 ≤ value.length ∧ value.length ≤ 128 ∧
    ps = [BitVec.ofNat 8 id.val, 2, 0, BitVec.ofNat 8 label.length] ++ label ++
      [cond.toByte, if gate = true then 1 else 0, BitVec.ofNat 8 value.length] ++ value

/-- When a parse names a passphrase (R169, Table 12-5). -/
theorem parseCredSet_inl_iff {bs label pass : List Byte} {id : Fin 24} :
    parseCredSet bs = some (id, label, .inl pass) ↔
      let k := (byteAt bs 3).toNat
      let rest := bs.drop (4 + k)
      let n := (byteAt rest 0).toNat
      (byteAt bs 0).toNat = id.val ∧ (1 ≤ k ∧ k ≤ 16) ∧ (byteAt bs 1).toNat = 1 ∧
        (1 ≤ n ∧ n ≤ 64 ∧ bs.length = 5 + k + n) ∧ slice bs 4 k = label ∧ rest.drop 1 = pass := by
  dsimp only [parseCredSet]
  constructor
  · intro h
    split at h
    · split at h
      · exact nomatch h
      · next inRange =>
        split at h
        · next kind =>
          split at h
          · next lengths =>
            cases h
            exact ⟨rfl, by omega, kind, lengths, rfl, rfl⟩
          · exact nomatch h
        · split at h
          · split at h
            · split at h
              · cases h
              · exact nomatch h
            · exact nomatch h
          · exact nomatch h
    · exact nomatch h
  · rintro ⟨hid, hk, kind, lengths, rfl, rfl⟩
    rw [dif_pos (by omega), if_neg (by omega), if_pos kind, if_pos lengths]
    exact congrArg (fun i => some (i, _, _)) (Fin.ext hid)

/-- When a parse names a secret value (R169, Table 12-5). -/
theorem parseCredSet_inr_iff {bs label value : List Byte} {id : Fin 24} {cond : Cond} {gate : Bool} :
    parseCredSet bs = some (id, label, .inr (cond, gate, value)) ↔
      let k := (byteAt bs 3).toNat
      let rest := bs.drop (4 + k)
      let n := (byteAt rest 2).toNat
      (byteAt bs 0).toNat = id.val ∧ (1 ≤ k ∧ k ≤ 16) ∧ (byteAt bs 1).toNat = 2 ∧
        flagOf (byteAt rest 1).toNat = some gate ∧ Cond.ofByte (byteAt rest 0) = cond ∧
        (id ≠ 0 ∧ cond.bound < 8 ∧ 1 ≤ n ∧ n ≤ 128 ∧ bs.length = 7 + k + n) ∧ slice bs 4 k = label ∧
        rest.drop 3 = value := by
  dsimp only [parseCredSet]
  have nonzero : ∀ {n : Nat} (h : n < 24), n ≠ 0 ↔ (⟨n, h⟩ : Fin 24) ≠ 0 := by
    intro n h
    rw [Ne, Ne, Fin.ext_iff]
    rfl
  constructor
  · intro h
    split at h
    · next hid =>
      split at h
      · exact nomatch h
      · next inRange =>
        split at h
        · split at h
          · cases h
          · exact nomatch h
        · split at h
          · next kind =>
            split at h
            · next flag =>
              split at h
              · next lengths =>
                cases h
                obtain ⟨some_id, valid, bounds⟩ := lengths
                rw [Cond.valid_eq, decide_eq_true_eq] at valid
                exact ⟨rfl, by omega, kind, flag, rfl, ⟨(nonzero hid).1 some_id, valid, bounds⟩, rfl, rfl⟩
              · exact nomatch h
            · exact nomatch h
          · exact nomatch h
    · exact nomatch h
  · rintro ⟨hid, hk, kind, flag, rfl, ⟨some_id, valid, bounds⟩, rfl, rfl⟩
    have in_range : (byteAt bs 0).toNat < 24 := by omega
    have same : (⟨(byteAt bs 0).toNat, in_range⟩ : Fin 24) = id := Fin.ext hid
    rw [dif_pos in_range, if_neg (by omega), if_neg (by omega), if_pos kind, flag]
    dsimp only
    rw [if_pos ⟨(nonzero in_range).2 (same ▸ some_id), by rwa [Cond.valid_eq, decide_eq_true_eq], bounds⟩, same]

/-! ### The parameters' bytes -/

/-- A byte is its condition's (R7). -/
theorem Cond.toByte_ofByte (b : Byte) : (Cond.ofByte b).toByte = b := by
  have joined : b.extractLsb' 4 4 ++ b.extractLsb' 0 4 = b.extractLsb' 0 8 :=
    BitVec.extractLsb'_append_extractLsb'_eq_extractLsb' rfl
  exact joined.trans BitVec.extractLsb'_eq_self

/-- A flag parameter's byte is the flag's (R139). -/
theorem flagOf_byte {b : Byte} {gate : Bool} (h : flagOf b.toNat = some gate) :
    (if gate = true then 1 else 0) = b := by
  unfold flagOf at h
  split at h
  · next zero =>
    cases h
    exact ofNat_of_toNat zero
  · split at h
    · next one =>
      cases h
      exact ofNat_of_toNat one
    · exact nomatch h

/-- A string of four bytes and more, its head and label apart. -/
theorem bytes_split {bs : List Byte} {k : Nat} (h : 4 + k ≤ bs.length) :
    bs = [byteAt bs 0, byteAt bs 1, byteAt bs 2, byteAt bs 3] ++ slice bs 4 k ++ bs.drop (4 + k) := by
  match bs, h with
  | b0 :: b1 :: b2 :: b3 :: tail, _ =>
    simp [byteAt, slice, Nat.add_comm 4 k]
  | [], h => simp at h
  | [_], h => simp at h; omega
  | [_, _], h => simp at h; omega
  | [_, _, _], h => simp at h; omega

/-- A string's first byte apart. -/
theorem bytes_cons {bs : List Byte} (h : 1 ≤ bs.length) : [byteAt bs 0] ++ bs.drop 1 = bs := by
  match bs, h with
  | b :: tail, _ => rfl

/-- A string's first three bytes apart. -/
theorem bytes_cons_three {bs : List Byte} (h : 3 ≤ bs.length) :
    [byteAt bs 0, byteAt bs 1, byteAt bs 2] ++ bs.drop 3 = bs := by
  match bs, h with
  | b0 :: b1 :: b2 :: tail, _ => rfl

/-- The length of a slice that the string holds. -/
theorem slice_length {bs : List Byte} {i n : Nat} (h : i + n ≤ bs.length) : (slice bs i n).length = n := by
  rw [slice, List.length_take, List.length_drop]
  omega

/-- A string read back from its head, its label and what follows. -/
theorem bytes_joined (b0 b1 b2 b3 : Byte) {label rest : List Byte} (h : b3.toNat = label.length) :
    let bs := [b0, b1, b2, b3] ++ label ++ rest
    byteAt bs 0 = b0 ∧ byteAt bs 1 = b1 ∧ byteAt bs 2 = b2 ∧ byteAt bs 3 = b3 ∧
      slice bs 4 b3.toNat = label ∧ bs.drop (4 + b3.toNat) = rest := by
  refine ⟨rfl, rfl, rfl, rfl, ?_, ?_⟩
  · simp [slice, h]
  · simp [h, Nat.add_comm 4]

/-- Parameters that give a passphrase are read as one, and its reserved byte is 0; and conversely (R169). -/
theorem isVerifierSet_iff {ps label pass : List Byte} {id : Fin 24} : IsVerifierSet ps id label pass ↔
    parseCredSet ps = some (id, label, .inl pass) ∧ byteAt ps 2 = 0 := by
  rw [parseCredSet_inl_iff]
  constructor
  · rintro ⟨⟨someLabel, shortLabel⟩, somePass, shortPass, rfl⟩
    have labelLen : (BitVec.ofNat 8 label.length).toNat = label.length := byte_toNat (by omega)
    have passLen : (BitVec.ofNat 8 pass.length).toNat = pass.length := byte_toNat (by omega)
    rw [List.append_assoc]
    obtain ⟨b0, b1, b2, b3, labelIs, restIs⟩ :=
      bytes_joined (BitVec.ofNat 8 id.val) 1 0 _ (rest := [BitVec.ofNat 8 pass.length] ++ pass) labelLen
    refine ⟨?_, b2⟩
    dsimp only
    rw [b0, b1, b3, labelIs, restIs]
    have first : byteAt ([BitVec.ofNat 8 pass.length] ++ pass) 0 = BitVec.ofNat 8 pass.length := rfl
    rw [first, passLen, labelLen]
    refine ⟨byte_toNat (by omega), ⟨someLabel, shortLabel⟩, rfl, ⟨somePass, shortPass, ?_⟩, rfl, rfl⟩
    simp only [List.length_append, List.length_cons, List.length_nil]
    omega
  · rintro ⟨⟨hid, hk, kind, ⟨some_n, short, len⟩, rfl, rfl⟩, reserved⟩
    have labelLen : (slice ps 4 (byteAt ps 3).toNat).length = (byteAt ps 3).toNat := slice_length (by omega)
    have passLen : ((ps.drop (4 + (byteAt ps 3).toNat)).drop 1).length =
        (byteAt (ps.drop (4 + (byteAt ps 3).toNat)) 0).toNat := by
      rw [List.length_drop, List.length_drop]
      omega
    refine ⟨by omega, by omega, by omega, ?_⟩
    rw [labelLen, passLen, ofNat_of_toNat hid, ofNat_of_toNat rfl, ofNat_of_toNat rfl, List.append_assoc,
      bytes_cons (by rw [List.length_drop]; omega), ← reserved]
    have split := bytes_split (bs := ps) (k := (byteAt ps 3).toNat) (by omega)
    rwa [← ofNat_of_toNat kind] at split

/-- A condition is its byte's (R7). -/
theorem Cond.ofByte_toByte (c : Cond) : Cond.ofByte c.toByte = c := by
  obtain ⟨code, bound⟩ := c
  rw [Cond.ofByte, Cond.toByte, BitVec.extractLsb'_append_eq_left, BitVec.extractLsb'_append_eq_right]

/-- Parameters that give a secret value are read as one, and its reserved byte is 0; and conversely (R169). -/
theorem isSecretSet_iff {ps label value : List Byte} {id : Fin 24} {cond : Cond} {gate : Bool} :
    IsSecretSet ps id label value cond gate ↔
      parseCredSet ps = some (id, label, .inr (cond, gate, value)) ∧ byteAt ps 2 = 0 := by
  rw [parseCredSet_inr_iff]
  constructor
  · rintro ⟨some_id, ⟨someLabel, shortLabel⟩, valid, someValue, shortValue, rfl⟩
    have labelLen : (BitVec.ofNat 8 label.length).toNat = label.length := byte_toNat (by omega)
    have valueLen : (BitVec.ofNat 8 value.length).toNat = value.length := byte_toNat (by omega)
    rw [List.append_assoc]
    obtain ⟨b0, b1, b2, b3, labelIs, restIs⟩ := bytes_joined (BitVec.ofNat 8 id.val) 2 0 _
      (rest := [cond.toByte, if gate = true then 1 else 0, BitVec.ofNat 8 value.length] ++ value) labelLen
    refine ⟨?_, b2⟩
    dsimp only
    rw [b0, b1, b3, labelIs, restIs]
    have third : byteAt ([cond.toByte, if gate = true then 1 else 0, BitVec.ofNat 8 value.length] ++ value) 2 =
      BitVec.ofNat 8 value.length := rfl
    rw [third, valueLen, labelLen]
    refine ⟨byte_toNat (by omega), ⟨someLabel, shortLabel⟩, rfl, ?_, cond.ofByte_toByte,
      ⟨some_id, valid, someValue, shortValue, ?_⟩, rfl, rfl⟩
    · cases gate <;> rfl
    · simp only [List.length_append, List.length_cons, List.length_nil]
      omega
  · rintro ⟨⟨hid, hk, kind, flag, rfl, ⟨some_id, valid, some_n, short, len⟩, rfl, rfl⟩, reserved⟩
    have labelLen : (slice ps 4 (byteAt ps 3).toNat).length = (byteAt ps 3).toNat := slice_length (by omega)
    have valueLen : ((ps.drop (4 + (byteAt ps 3).toNat)).drop 3).length =
        (byteAt (ps.drop (4 + (byteAt ps 3).toNat)) 2).toNat := by
      rw [List.length_drop, List.length_drop]
      omega
    refine ⟨some_id, by omega, valid, by omega, by omega, ?_⟩
    rw [labelLen, valueLen, ofNat_of_toNat hid, ofNat_of_toNat rfl, ofNat_of_toNat rfl, List.append_assoc,
      Cond.toByte_ofByte, flagOf_byte flag,
      bytes_cons_three (by rw [List.length_drop]; omega), ← reserved]
    have split := bytes_split (bs := ps) (k := (byteAt ps 3).toNat) (by omega)
    rwa [← ofNat_of_toNat kind] at split

/-! ### The command -/

/-- A record that is not SET is EMPTY (R161). -/
theorem State.proofCase_eq (s : State) (id : Fin 24) :
    s.proofCase id = decide (id = 0 ∧ s.cred.creds[id] = .empty) := by
  rw [State.proofCase, Cred.isSet_eq, Bool.decide_and]
  simp

/-- CRED_SET on a ready part (R169). -/
theorem exec_credSet {s : State} {r : Request} {cs : List Check} {t : State} (hready : s.Ready)
    (hfits : r.fits = true) (hcs : firstRefusal [(Cond.atOrAbove2.holds s.stage, .detailed .stageDenied 0),
        (decide (r.reserved = 0) && zeroBytes r.params 2 1, Reply.reservedField),
        ((parseCredSet r.params).isSome, Reply.range),
        (if s.proofCase (credId (requestFrame 0x41 r)) then decide (s.presence.state = .proven)
          else s.cred.gateOpen, .plain .gateClosed),
        (s.supply.normal, .plain .supplyLow)] = firstRefusal cs)
    (hact : (∀ c ∈ cs, c.1 = true) → (match parseCredSet r.params with
      | some (id, label, rest) => (s.taken 0x41 r).setCred id label rest
      | none => s.taken 0x41 r) = t) (hquiet : t.Quiet) :
    exec (.credSet r) s = .next (match firstRefusal cs with
      | some refusal => s.answered 0x41 r refusal
      | none => t) :=
  exec_gated (code := 0x41) (i := .credSet r) rfl hready hfits (show dispatch _ _ = cmdCredSet _ _ from rfl)
    hcs hact hquiet

/-- What an accepted CRED_SET leaves: the proof consumed or GATE restarted, the draw of a verifier taken, the
CRED write asked for (R170). -/
theorem State.setCred_taken (s : State) (r : Request) (id : Fin 24) (label : List Byte)
    (rest : List Byte ⊕ (Cond × Bool × List Byte)) : (s.taken 0x41 r).setCred id label rest =
    (State.asks { (if s.proofCase id = true then s.consumeProof else s.gateRestarted) with
        draws := (s.buildCred label rest).1.draws }
      (.cred id) .command (.cred (s.buildCred label rest).2)).started 0x41 r
      (.store [.cred id] [BitVec.ofNat 8 id.val]) := by
  have same : (s.taken 0x41 r).proofCase id = s.proofCase id := rfl
  unfold State.setCred
  rw [same]
  cases rest <;> cases s.proofCase id <;> rfl

/-- One reserved byte (R67). -/
theorem zeroBytes_one (bs : List Byte) (i : Nat) : zeroBytes bs i 1 = decide (byteAt bs i = 0) := by
  unfold zeroBytes slice byteAt
  rw [List.getD_eq_getElem?_getD, ← List.head?_drop]
  cases bs.drop i with
  | nil => rfl
  | cons b tail => exact Bool.and_true _

/-- CRED_SET on a ready part, where a check fails (R169). -/
theorem exec_credSet_refused {s : State} {r : Request} {before : List Check} {a : Reply} (hready : s.Ready)
    (hfits : r.fits = true) (hcs : firstRefusal [(Cond.atOrAbove2.holds s.stage, .detailed .stageDenied 0),
        (decide (r.reserved = 0) && zeroBytes r.params 2 1, Reply.reservedField),
        ((parseCredSet r.params).isSome, Reply.range),
        (if s.proofCase (credId (requestFrame 0x41 r)) then decide (s.presence.state = .proven)
          else s.cred.gateOpen, .plain .gateClosed),
        (s.supply.normal, .plain .supplyLow)] = firstRefusal (before ++ [(false, a)])) :
    exec (.credSet r) s = .next (s.answered 0x41 r ((firstRefusal before).getD a)) := by
  have passed_not : ¬ ∀ c ∈ before ++ [(false, a)], c.1 = true := fun passed =>
    nomatch passed (false, a) (List.mem_append_right before (List.mem_singleton_self _))
  rw [exec_credSet (t := s.answered 0x41 r a) hready hfits hcs (fun passed => absurd passed passed_not)
    (State.answered_quiet hready 0x41 r a), firstRefusal_stops]

/-- CRED_SET of parameters in one of the two forms, the reserved field 0 (R169, R170). -/
theorem exec_credSet_parsed {s : State} {r : Request} {id : Fin 24} {label : List Byte}
    {rest : List Byte ⊕ (Cond × Bool × List Byte)} (hready : s.Ready) (hfits : r.fits = true)
    (hreserved : r.reserved = 0)
    (hparsed : parseCredSet r.params = some (id, label, rest) ∧ byteAt r.params 2 = 0) :
    exec (.credSet r) s = .next (match firstRefusal [(Cond.atOrAbove2.holds s.stage, .detailed .stageDenied 0),
        (if id = 0 ∧ s.cred.creds[id] = .empty then decide (s.presence.state = .proven) else s.cred.gateOpen,
          .plain .gateClosed),
        (s.supply.normal, .plain .supplyLow)] with
      | some refusal => s.answered 0x41 r refusal
      | none => (State.asks { (if id = 0 ∧ s.cred.creds[id] = .empty then s.consumeProof
            else s.gateRestarted) with draws := (s.buildCred label rest).1.draws }
          (.cred id) .command (.cred (s.buildCred label rest).2)).started 0x41 r
          (.store [.cred id] [BitVec.ofNat 8 id.val])) := by
  obtain ⟨parsed, reserved⟩ := hparsed
  have named : credId (requestFrame 0x41 r) = id := (parseCredSet_id parsed).symm
  refine exec_credSet hready hfits ?_ (fun _ => ?_) (State.started_quiet _ 0x41 r _)
  · rw [zeroBytes_one, hreserved, reserved, parsed, named, s.proofCase_eq]
    by_cases proof : id = 0 ∧ s.cred.creds[id] = .empty
    · rw [if_pos proof, decide_eq_true proof]
      exact firstRefusal_passes [_] _ _
    · rw [if_neg proof, decide_eq_false proof]
      exact firstRefusal_passes [_] _ _
  · rw [parsed]
    dsimp only
    rw [s.setCred_taken, s.proofCase_eq]
    simp only [decide_eq_true_eq]

/-- Settles O23: either form is read as what it gives, and nothing else is. -/
theorem credSetBuildsTheRecord : Obligations.CredSetBuildsTheRecord := by
  unfold Obligations.CredSetBuildsTheRecord
  intro asked labelOf verifier secret
  refine ⟨?passphrase, ?value, ?reserved, ?neither⟩
  case passphrase =>
    intro s r id label pass hready hfits hreserved form salt
    rw [exec_credSet_parsed hready hfits hreserved (isVerifierSet_iff.1 form)]
    rfl
  case value =>
    intro s r id label value cond gate hready hfits hreserved form
    rw [exec_credSet_parsed hready hfits hreserved (isSecretSet_iff.1 form)]
    rfl
  case reserved =>
    intro s r hready hfits hreserved form
    refine exec_credSet_refused hready hfits ?_
    rw [decide_eq_false hreserved, Bool.false_and]
    exact (firstRefusal_stops [_] _ _).trans (firstRefusal_stops [_] _ []).symm
  case neither =>
    intro s r hready hfits notVerifier notSecret
    have unread : byteAt r.params 2 = 0 → parseCredSet r.params = none := by
      intro reserved
      match parsed : parseCredSet r.params with
      | none => rfl
      | some (id, label, .inl pass) =>
        exact absurd ⟨id, label, pass, isVerifierSet_iff.2 ⟨parsed, reserved⟩⟩ notVerifier
      | some (id, label, .inr (cond, gate, value)) =>
        exact absurd ⟨id, label, value, cond, gate, isSecretSet_iff.2 ⟨parsed, reserved⟩⟩ notSecret
    refine exec_credSet_refused hready hfits ?_
    rw [zeroBytes_one]
    by_cases reserved : byteAt r.params 2 = 0
    · rw [unread reserved]
      exact (firstRefusal_stops [_, _] _ _).trans (firstRefusal_stops [_, _] _ []).symm
    · rw [decide_eq_false reserved, Bool.and_false]
      exact (firstRefusal_stops [_] _ _).trans (firstRefusal_stops [_] _ [_]).symm

end Sys2Proof.Machine

/-! The platform restarts (R88, R97, R107, R146), the end of a signature and of a pair (R134), and CRED_CHECK past
its increment (R166, R167). -/

namespace Sys2Proof.Machine

/-! ### States with no work waiting -/

/-- No job and no frame waits: an idle engine leaves no work waiting (R68). -/
theorem State.NoWork.quiet {s : State} (h : s.NoWork) : s.Quiet := fun _ => h

/-- The end of a command leaves what waits as it was (R67, R68). -/
theorem State.finished_quiet {s : State} (h : s.NoWork) (a : Reply) : (s.finished a).Quiet :=
  State.NoWork.quiet h

/-- A command at work keeps the engine from what waits (R68). -/
theorem State.goesOn_quiet (s : State) (w : CmdWork) : (s.goesOn w).Quiet :=
  State.quiet_of_busy (fun h => nomatch h)

/-! ### The platform restarts -/

/-- The first step of a boot flow, its buses quiet (R89). -/
theorem State.startFlow_clear (s : State) (why : BootReason) : s.clearOut.startFlow why = s.restarted why := by
  unfold State.startFlow State.restarted
  rw [State.clearOut_records, RecordStore.abandon_eq]
  rfl

/-- A boot flow begins with nothing waiting (R89). -/
theorem State.restarted_quiet (s : State) (why : BootReason) : (s.restarted why).Quiet :=
  fun _ => ⟨rfl, rfl, rfl⟩

/-- Settles O16: each row makes the first step with its reason, or has nothing to take. -/
theorem platformRestarts : Obligations.PlatformRestarts := by
  refine ⟨?due, ?notDue, ?resetIn, ?expiry, ?noExpiry, ?release⟩
  case due =>
    intro s why hp due
    change execPlatformRestart s = _
    refine State.perform_event hp ?_ (s.restarted_quiet why)
    rw [State.clearOut_engine, due]
    exact s.startFlow_clear why
  case notDue =>
    intro s hp quiet notDue
    change execPlatformRestart s = _
    refine State.perform_event hp ?_ quiet
    rw [State.clearOut_engine, notDue]
    rfl
  case resetIn =>
    intro s hp
    change execResetIn s = _
    refine State.perform_event hp ?_ (s.restarted_quiet .resetIn)
    exact congrArg (fun t => State.setResetIn t true) (s.startFlow_clear .resetIn)
  case expiry =>
    intro s hp due
    change execTrialExpiry s = _
    refine State.perform_event hp ?_ (s.restarted_quiet .trialExpiry)
    rw [State.clearOut_timers, Channel.canExpire, due, if_pos rfl]
    exact s.startFlow_clear .trialExpiry
  case noExpiry =>
    intro s hp quiet notDue
    change execTrialExpiry s = _
    refine State.perform_event hp ?_ quiet
    rw [State.clearOut_timers, Channel.canExpire, notDue, if_neg Bool.false_ne_true]
    rfl
  case release =>
    intro s hp quiet
    change execResetInRelease s = _
    exact State.perform_event hp rfl quiet

/-! ### A signature -/

/-- The signature is what the draws give, and the command ends (R134). -/
theorem exec_signatureComplete {s : State} {scalar : Nat} {digest before : List Byte} (hp : s.powered = true)
    (hw : s.NoWork) (he : s.engine.state = .command (.sign scalar digest before)) :
    exec .signatureComplete s = .next
      { s.finished (.ok (before ++ (P256.signDraws scalar digest 64 s.draws).1)) with
        draws := (P256.signDraws scalar digest 64 s.draws).2 } := by
  change execSignatureComplete s = _
  refine State.perform_event hp ?_ ?_
  · unfold State.finishSignature
    rw [State.clearOut_engine, he]
    rfl
  · exact State.NoWork.quiet hw

/-! ### A pair -/

/-- A requester stands in the waiting list it has joined (R124). -/
theorem requestIn_holds (l : List Entry) (rec : RecordId) (r : Requester) :
    ∃ e ∈ requestIn l rec r, ∃ q ∈ e.requesters, q.who = r.who := by
  induction l with
  | nil => exact ⟨⟨rec, [r]⟩, List.mem_singleton_self _, r, List.mem_singleton_self _, rfl⟩
  | cons e es ih =>
    unfold requestIn
    split
    · refine ⟨e.join r, List.mem_cons_self, ?_⟩
      unfold Entry.join
      split
      · exact ⟨⟨r.who, .asIs⟩, by simp, rfl⟩
      · split
        · next there => exact ⟨r, there.2, rfl⟩
        · exact ⟨r, by simp, rfl⟩
    · obtain ⟨e', held, q, asked, who⟩ := ih
      exact ⟨e', List.mem_cons_of_mem _ held, q, asked, who⟩

/-- A pair's writes asked for: the command waits for them, or observes its abort request there (R71, R135). -/
theorem exec_generationComplete {s t : State} {awaited : List RecordId} {payload : List Byte}
    (hp : s.powered = true) (hfin : s.clearOut.finishGeneration = t.goesOn (.store awaited payload))
    (hengine : t.engine = s.engine) (hsupply : t.supply = s.supply) (hwork : s.NoWork → t.NoWork)
    (hasked : ∃ e ∈ t.records.waiting, ∃ q ∈ e.requesters, q.who = .command)
    (hwriting : t.records.writing = s.records.writing) :
    let stops := s.engine.abortRequest = true ∧ s.supply.normal = false
    (¬ stops → exec .generationComplete s = .next (t.goesOn (.store awaited payload))) ∧
      (stops → s.NoWork → (∀ v, s.records.writing = some v → ∀ q ∈ v.requesters, q.who ≠ .command) →
        exec .generationComplete s = .next (t.abortedAt (.store awaited payload))) := by
  intro stops
  refine ⟨fun going => ?_, fun stopped work others => ?_⟩
  · change execGenerationComplete s = _
    refine State.perform_event hp ?_ (t.goesOn_quiet _)
    rw [hfin]
    refine State.observeAbort_keeps fun w _ requested low _ _ => going ⟨?_, ?_⟩
    · rw [← hengine]; exact requested
    · rw [← hsupply]; exact low
  · change execGenerationComplete s = _
    refine State.perform_event hp ?_ (State.finished_quiet (hwork work) _)
    rw [hfin]
    have requested : t.engine.abortRequest = true := hengine ▸ stopped.1
    have low : t.supply.normal = false := hsupply ▸ stopped.2
    have observed := State.observeAbort_stops (s := t.goesOn (.store awaited payload))
      (w := .store awaited payload) rfl rfl requested low
      (.inl ⟨awaited, payload, rfl⟩) ⟨hasked, hwriting ▸ others⟩
    rw [observed]
    rfl

/-- Settles O19: the draws are taken as the command ends, or as its writes are asked for. -/
theorem signatureAndGenerationComplete : Obligations.SignatureAndGenerationComplete := by
  refine ⟨fun s scalar digest before hp hw he => exec_signatureComplete hp hw he, ?_⟩
  intro s hp stops answers pair
  refine ⟨?owner, ?device⟩
  case owner =>
    intro i cond gate label he k
    refine exec_generationComplete (t := State.asks { s with draws := s.draws + 1 } (.key i) .command (.key k))
      hp ?_ rfl rfl id (requestIn_holds _ _ _) rfl
    unfold State.finishGeneration
    rw [State.clearOut_engine, he]
    rfl
  case device =>
    intro he k0 k3
    refine exec_generationComplete (t := (State.asks { s with draws := s.draws + 2 } (.key 0)
      .command (.key k0)).asks (.key 3) .command (.key k3)) hp ?_ rfl rfl id (requestIn_holds _ _ _) rfl
    unfold State.finishGeneration
    rw [State.clearOut_engine, he]
    rfl

/-! ### CRED_CHECK past its increment -/

/-- The write in progress stored, and over (R125). -/
def State.storedWrite (s : State) (w : Writing) : State :=
  { s with records := { s.records with store := s.records.store.put w.record w.content, writing := none } }

/-- A write of the command at work completes: the store takes it, and the command is told (R125). -/
theorem exec_recordWriteComplete_told {s t : State} {w : Writing} {work : CmdWork} (hp : s.powered = true)
    (he : s.engine.state = .command work) (hw : s.records.writing = some w)
    (hq : ∃ q ∈ w.requesters, q.who = .command)
    (hno : ∀ q ∈ w.requesters, ∀ f v, q.change ≠ .confirm f v)
    (htold : ((s.clearOut.storedWrite w).tellCommand w.record work).observeAbort = t) (ht : t.Quiet) :
    exec .recordWriteComplete s = .next t := by
  change execRecordWriteComplete s = _
  refine State.perform_event hp ?_ ht
  exact (State.recordComplete_tells_command (s := s.clearOut) hw hno hq he).trans htold

/-- What a mismatch reports and starts (R164, R167). -/
theorem State.credMismatch_clear (s : State) (hf : s.cred.failCount ≤ 20) :
    let n := s.cred.failCount
    let pen := if n < 5 ∨ n = 20 then 0 else min (30 * 2 ^ (n - 5)) 3600
    s.clearOut.credMismatch = State.finished
      (if n = 20 then { s with events := { s.events with pending := s.events.pending ||| 128 } }
        else if pen = 0 then s
        else { s with timers := { s.timers with penalty := ⟨pen, 0, .running, false⟩ } })
      ⟨.mismatch, 0, [BitVec.ofNat 8 (20 - n)] ++ leBytes 2 pen, false⟩ := by
  intro n pen
  have started : penalty n = pen := by
    rw [penalty_eq]
    simp only [pen]
    split <;> split <;> first | rfl | omega
  dsimp only [State.credMismatch, State.startPenalty]
  rw [State.clearOut_cred, show s.cred.failCount = n from rfl, started]
  by_cases locked : n = 20
  · rw [if_pos locked, if_pos (show n = Config.lockCount from locked)]
    rfl
  · rw [if_neg locked, if_neg (show ¬ n = Config.lockCount from locked)]
    by_cases free : pen = 0
    · rw [if_pos free, if_pos free]
      rfl
    · rw [if_neg free, if_neg free]
      rfl

/-- Settles O21: the candidate's digest decides between the return of f and the mismatch. -/
theorem credCheckCompares : Obligations.CredCheckCompares := by
  intro s id candidate label salt digest w hp work bounded he record hw counters asked noConfirm n pen t
  have stored : s.clearOut.storedWrite w = t.clearOut := by
    rw [State.storedWrite, counters]
    rfl
  refine exec_recordWriteComplete_told hp he hw asked noConfirm ?_ ?_
  · rw [stored, State.tellCommand, State.credCompare]
    have accepts : t.clearOut.cred.creds[id].accepts candidate =
        decide (sha256 (salt ++ candidate) = digest) := by
      rw [show t.clearOut.cred.creds[id] = _ from record, Cred.accepts]
    rw [accepts]
    simp only [decide_eq_true_eq]
    split
    · refine State.observeAbort_keeps fun w' he' _ _ stops => ?_
      cases he'
      rcases stops with ⟨_, _, same⟩ | ⟨_, _, same⟩ | ⟨_, _, same⟩ <;> exact nomatch same
    · rw [State.observeAbort_of_idle (by rfl)]
      exact t.credMismatch_clear bounded
  · split
    · exact State.goesOn_quiet _ _
    · refine State.finished_quiet ?_ _
      split
      · exact work
      · split <;> exact work

/-- Settles O22: with the return of f stored the command ends, for id 0 with the gate open. -/
theorem credCheckOpensTheGate : Obligations.CredCheckOpensTheGate := by
  intro s id w hp work he hw counters asked noConfirm t
  have stored : s.clearOut.storedWrite w = t.clearOut := by
    rw [State.storedWrite, counters]
    rfl
  refine exec_recordWriteComplete_told hp he hw asked noConfirm ?_ ?_
  · rw [stored, State.tellCommand, State.credMatched, State.observeAbort_of_idle rfl]
    split <;> rfl
  · refine State.finished_quiet ?_ _
    split <;> exact work

end Sys2Proof.Machine

/-! The Upstream Port's own answers and the transactions that carry no unit of the flash (R17, R20, R24 to R29,
R181). -/

namespace Sys2Proof.Machine

/-! ### A transaction's snapshot and its end -/

/-- A transaction finds its snapshot and uses up its ARRIVAL; in S0 it does no more (R17, R19). -/
theorem State.transact_clear (s : State) (cls : TxClass) (addr : Nat) (inS0 : State → State)
    (act : Snapshot → State → State) : s.clearOut.transact cls addr inS0 act =
      if (s.snapFor cls addr).stage = .s0 then inS0 s.clearOut.released
      else act (s.snapFor cls addr) s.clearOut.released := rfl

/-- A row that is a transaction's, on a quiet part (R17, R19). -/
theorem State.perform_transact {s t : State} {cls : TxClass} {addr : Nat} {inS0 : State → State}
    {act : Snapshot → State → State} (hp : s.powered = true)
    (h : (if (s.snapFor cls addr).stage = .s0 then inS0 s.clearOut.released
      else act (s.snapFor cls addr) s.clearOut.released) = t) (ht : t.Quiet) :
    (s.perform fun u => u.transact cls addr inS0 act) = .next t :=
  State.perform_event hp ((s.transact_clear cls addr inS0 act).trans h) ht

/-- The snapshot of a transaction whose ARRIVAL stands (R17). -/
theorem State.snapFor_arrived {s : State} {a : Arrived} (h : s.up.arrived = some a) :
    s.snapFor a.cls a.addr = a.snap := by
  rw [State.snapFor, h]
  exact if_pos ⟨rfl, rfl⟩

/-- The snapshot of a transaction without an ARRIVAL of its own is taken now (R17). -/
theorem State.snapFor_now {s : State} {cls : TxClass} {addr : Nat}
    (h : ∀ a, s.up.arrived = some a → a.cls ≠ cls ∨ a.addr ≠ addr) : s.snapFor cls addr = s.snapshot := by
  unfold State.snapFor
  cases ha : s.up.arrived with
  | none => rfl
  | some a => exact if_neg fun own => (h a ha).elim (fun ne => ne own.1) fun ne => ne own.2

/-! ### ARRIVAL, WREN, WRDI, FLASH_RESET -/

/-- Settles O29: ARRIVAL keeps the state it finds, the others change the two flags. -/
theorem arrivalsAndControlTransactions : Obligations.ArrivalsAndControlTransactions := by
  intro s hp quiet flags snap
  refine ⟨?arrival, fun cls addr others => State.snapFor_now others, ?wren, ?wrdi, ?reset⟩
  case arrival =>
    intro cmd addr kept
    refine ⟨?_, fun t standing => State.snapFor_arrived standing⟩
    change execArrival cmd addr s = _
    exact State.perform_event hp rfl quiet
  case wren =>
    change execWren s = _
    refine State.perform_transact hp ?_ ?_
    · by_cases inS0 : (s.snapFor .wren 0).stage = .s0
      · rw [if_pos inS0, if_pos (.inl inS0)]
        rfl
      · rw [if_neg inS0]
        cases busy : (s.snapFor .wren 0).busy with
        | true => rw [if_pos (c := _ ∨ _) (.inr rfl)]; rfl
        | false => rw [if_neg (c := _ ∨ _) (not_or.2 ⟨inS0, Bool.false_ne_true⟩)]; rfl
    · split <;> exact quiet
  case wrdi =>
    change execWrdi s = _
    refine State.perform_transact hp ?_ ?_
    · split <;> rfl
    · split <;> exact quiet
  case reset =>
    change execFlashReset s = _
    refine State.perform_transact hp ?_ ?_
    · split <;> rfl
    · split <;> exact quiet

/-! ### STATUS_READ, IDENT -/

/-- Two bits of a status byte apart: their sum is their disjunction. -/
theorem statusByte1_eq (a b c : Bool) : bitIf a 0x01 ||| bitIf b 0x02 ||| bitIf c 0x20 =
    (if a = true then (0x01 : Byte) else 0) + (if b = true then 0x02 else 0) + (if c = true then 0x20 else 0) := by
  cases a <;> cases b <;> cases c <;> rfl

/-- The same for the second status byte. -/
theorem statusByte2_eq (a b : Bool) : bitIf a 0x01 ||| bitIf b 0x02 =
    (if a = true then (0x01 : Byte) else 0) + (if b = true then 0x02 else 0) := by
  cases a <;> cases b <;> rfl

/-- An internal job runs (R24). -/
theorem job_isSome (e : EngineState) : e.job?.isSome = (match e with
    | .idle => false
    | .command _ => false
    | .job _ => true) := by
  rcases e with _ | _ | w
  · rfl
  · rfl
  · cases w <;> rfl

/-- The captured bytes and then 0xFF, one byte at a time (R25). -/
theorem ident_bytes (a b c : Byte) (count : Nat) : ([a, b, c] ++ List.replicate count 0xff).take count =
    (List.range count).map fun i => if i = 0 then a else if i = 1 then b else if i = 2 then c else 0xff := by
  refine List.ext_getElem (by simp; omega) fun i h _ => ?_
  have inside : i < count := by simp at h; omega
  rw [List.getElem_take, List.getElem_map, List.getElem_range]
  match i with
  | 0 => rfl
  | 1 => rfl
  | 2 => rfl
  | i + 3 => simp

/-- Bytes clocked out by a transaction that is then over. -/
def State.answersSoc (s : State) (bytes : List Byte) : State :=
  { s with out := ⟨bytes, []⟩, up := { s.up with arrived := none } }

/-- STATUS_READ on a quiet part (R24). -/
theorem exec_statusRead {s : State} (hp : s.powered = true) (quiet : s.Quiet) (sel : StatusByte) (count : Nat) :
    exec (.statusRead sel count) s = .next (s.answersSoc (List.replicate count
      (if (s.snapFor (StatusByte.cls sel) 0).stage = .s0 then 0xff else s.statusByte sel))) := by
  change execStatusRead sel count s = _
  refine State.perform_transact hp ?_ quiet
  split
  · rfl
  · cases sel <;> rfl

/-- IDENT on a quiet part (R25). -/
theorem exec_ident {s : State} (hp : s.powered = true) (quiet : s.Quiet) (count : Nat) :
    exec (.ident count) s = .next (s.answersSoc
      (if (s.snapFor .ident 0).stage = .s0 then List.replicate count 0xff
        else ([s.down.id0, s.down.id1, s.down.id2] ++ List.replicate count 0xff).take count)) := by
  change execIdent count s = _
  refine State.perform_transact hp ?_ quiet
  split <;> rfl

/-- Settles O30: each sends its bytes and uses up its ARRIVAL. -/
theorem statusAndIdentAreSent : Obligations.StatusAndIdentAreSent := by
  intro s hp quiet sends bit working alert
  refine ⟨fun count => ⟨?one, ?two⟩, fun count => ?ident⟩
  case one =>
    have byte : s.statusByte .one =
        bit (decide (s.down.port = .flashBusy)) 0x01 + bit s.up.wel 0x02 + bit s.up.denied 0x20 :=
      statusByte1_eq _ _ _
    rw [exec_statusRead hp quiet, byte]
    rfl
  case two =>
    have byte : s.statusByte .two = bit working 0x01 + bit alert 0x02 := by
      refine (statusByte2_eq _ _).trans ?_
      rw [State.serviceBusy, job_isSome]
      rfl
    rw [exec_statusRead hp quiet, byte]
    rfl
  case ident =>
    rw [exec_ident hp quiet, ident_bytes]
    rfl

/-! ### OTHER -/

/-- The violation list with a last record: the violation merges into it, is added, or finds no room (R181). -/
theorem mergeViolation_last (old : List ViolationRec) (q : ViolationRec) (v : Violation) :
    mergeViolation (old ++ [q]) v =
      if q.first.cls = v.cls ∧ q.first.decider = v.decider ∧ q.first.stage = v.stage then
        old ++ [{ q with repeats := min (q.repeats + 1) 65535 }]
      else if (old ++ [q]).length < 16 then old ++ [q] ++ [⟨v, 1⟩] else old ++ [q] := by
  unfold mergeViolation ViolationRec.merges
  rw [List.getLast?_concat, List.dropLast_concat]
  simp only [decide_eq_true_eq]
  rfl

/-- A violation that merges with no record is added while there is room (R181). -/
theorem mergeViolation_unmerged {l : List ViolationRec} {v : Violation}
    (h : ∀ old q, l = old ++ [q] →
      ¬ (q.first.cls = v.cls ∧ q.first.decider = v.decider ∧ q.first.stage = v.stage)) :
    mergeViolation l v = if l.length < 16 then l ++ [⟨v, 1⟩] else l := by
  rcases List.eq_nil_or_concat' l with rfl | ⟨old, q, rfl⟩
  · rfl
  · rw [mergeViolation_last, if_neg (h old q rfl)]

/-- OTHER on a quiet part (R29). -/
theorem exec_other {s : State} (hp : s.powered = true) (quiet : s.Quiet) (cmd : Byte) (data : List Byte)
    (count : Nat) : exec (.other cmd data count) s = .next
      (if (s.snapFor .other 0).stage = .s0 then s.answersSoc (List.replicate count 0xff)
      else (s.answersSoc (List.replicate count 0xff)).violate
        ⟨0, .other, (s.snapFor .other 0).stage, .otherCommand⟩) := by
  change execOther cmd data count s = _
  refine State.perform_transact hp ?_ ?_
  · split <;> rfl
  · split <;> exact quiet

/-! ### STATUS_WRITE, ERASE_CHIP -/

/-- A part is judged where WEL is set and the snapshot is not busy (R21). -/
theorem State.judged_eq (s : State) (p : Snapshot) :
    s.judged p = decide (s.up.wel = true ∧ p.busy = false) := by
  unfold State.judged
  cases s.up.wel <;> cases p.busy <;> rfl

/-- An operation forwarded, with its write enable before it (R30, R32). -/
theorem State.forward_eq (s : State) (op : DownOp) : s.forward op = { s with
    out := { s.out with toFlash := s.out.toFlash ++ [.writeEnable, op] }
    down := { s.down with
      port := .flashBusy
      chunk := { s.down.chunk with st := if s.down.chunk.st = .inFlight then .waiting else s.down.chunk.st } } } := by
  unfold State.forward
  rw [Chunk.preempted_eq]
  rfl

/-- Settles O31: OTHER hands its violation, the others are forwarded or hand theirs by the lifecycle. -/
theorem otherStatusWriteAndEraseChip : Obligations.OtherStatusWriteAndEraseChip := by
  refine ⟨?other, ?writes⟩
  case other =>
    intro s cmd data count hp quiet p v list merged sent handed
    have row := exec_other hp quiet cmd data count
    refine ⟨fun inS0 => by rw [row, if_pos inS0]; rfl, fun outside => ?_⟩
    rw [if_neg outside] at row
    have taken : exec (.other cmd data count) s = .next (handed (mergeViolation list v)) := row
    refine ⟨fun old q last merges => ?_, fun apart room => ?_, fun apart full => ?_⟩
    · rw [taken, last, mergeViolation_last, if_pos merges]
    · rw [taken, mergeViolation_unmerged apart, if_pos room]
    · rw [taken, mergeViolation_unmerged apart, if_neg (Nat.not_lt.2 full)]
  case writes =>
    intro s data hp quiet factory after sent p q
    have unlocked : factory → s.clearOut.released.life = .factory := s.life_factory_iff.2
    have locked : ¬ factory → s.clearOut.released.life = .deployed := s.life_deployed_iff.2
    refine ⟨?status, ?chip⟩
    case status =>
      change execStatusWrite data s = _
      refine State.perform_transact hp ?_ ?_
      · split
        · rfl
        · rw [State.judged_eq, State.forward_eq]
          by_cases life : factory
          · rw [unlocked life, if_pos life]
            simp only [decide_eq_true_eq]
            split
            · next judged =>
              rw [if_pos (show s.up.wel = true ∧ p.busy = false from judged)]
              rfl
            · next ignored =>
              rw [if_neg (show ¬ (s.up.wel = true ∧ p.busy = false) from ignored)]
              rfl
          · rw [locked life, if_neg life]
            rfl
      · split
        · exact quiet
        · split
          · split <;> exact quiet
          · exact quiet
    case chip =>
      change execEraseChip s = _
      refine State.perform_transact hp ?_ ?_
      · split
        · rfl
        · rw [State.judged_eq, State.forward_eq]
          simp only [decide_eq_true_eq]
          split
          · next judged =>
            rw [if_pos (show s.up.wel = true ∧ q.busy = false from judged)]
            by_cases life : factory
            · rw [unlocked life, if_pos life]
              rfl
            · rw [locked life, if_neg life]
              rfl
          · next ignored =>
            rw [if_neg (show ¬ (s.up.wel = true ∧ q.busy = false) from ignored)]
            rfl
      · split
        · exact quiet
        · split
          · split <;> exact quiet
          · exact quiet

end Sys2Proof.Machine

/-! The write units of the flash path: the page image (R18, R21), the slot lock (R47), the judgement of a unit and
what it forwards (R40, R49, R51). -/

namespace Sys2Proof.Machine

/-! ### The page image -/

/-- The data byte a page position holds: the last whose position wraps to it (R18, R21). -/
theorem pageByte_eq_some {start p : Nat} {data : List Byte} {b : Byte} : pageByte start data p = some b ↔
    ∃ k, k < data.length ∧ (start + k) % 256 = p ∧ byteAt data k = b ∧
      ∀ j, k < j → j < data.length → (start + j) % 256 ≠ p := by
  unfold pageByte
  induction data using List.reverseRecOn with
  | nil => simp
  | append_singleton data x ih =>
    have last : byteAt (data ++ [x]) data.length = x := by simp [byteAt]
    have before : ∀ k, k < data.length → byteAt (data ++ [x]) k = byteAt data k := fun k h => by
      unfold byteAt
      rw [List.getD_append _ _ _ _ h]
    rw [List.zipIdx_append, List.filter_append, List.length_append, List.length_singleton]
    by_cases lands : (start + data.length) % 256 = p
    · have kept : ([x].zipIdx (0 + data.length)).filter (fun d => decide ((start + d.2) % 256 = p)) =
          [(x, data.length)] := by simp [lands]
      rw [kept, List.getLast?_concat, Option.map_some, Option.some_inj]
      constructor
      · rintro rfl
        exact ⟨data.length, Nat.lt_succ_self _, lands, last, fun j h1 h2 => absurd h2 (by omega)⟩
      · rintro ⟨k, hk, _, rfl, later⟩
        have here : k = data.length := by
          by_contra elsewhere
          exact later data.length (by omega) (by omega) lands
        rw [here, last]
    · have kept : ([x].zipIdx (0 + data.length)).filter (fun d => decide ((start + d.2) % 256 = p)) = [] := by
        simp [lands]
      rw [kept, List.append_nil, ih]
      constructor
      · rintro ⟨k, hk, at_p, rfl, later⟩
        refine ⟨k, by omega, at_p, before k hk, fun j h1 h2 => ?_⟩
        by_cases end_ : j = data.length
        · rw [end_]; exact lands
        · exact later j h1 (by omega)
      · rintro ⟨k, hk, at_p, rfl, later⟩
        have inside : k < data.length := by
          by_contra past
          have here : k = data.length := by omega
          exact lands (here ▸ at_p)
        exact ⟨k, inside, at_p, (before k inside).symm, fun j h1 h2 => later j h1 (by omega)⟩

/-- What a page image holds (R21). -/
theorem mem_pageImage {start i : Nat} {data : List Byte} {b : Byte} :
    (i, b) ∈ pageImage start data ↔ i < 256 ∧ pageByte start data i = some b := by
  unfold pageImage
  simp only [List.mem_filterMap, List.mem_range, Option.map_eq_some_iff, Prod.mk.injEq]
  constructor
  · rintro ⟨p, inside, b', held, rfl, rfl⟩
    exact ⟨inside, held⟩
  · rintro ⟨inside, held⟩
    exact ⟨i, inside, b, held, rfl, rfl⟩

/-- A page image's positions ascend (R21). -/
theorem pageImage_ascends (start : Nat) (data : List Byte) :
    ((pageImage start data).map Prod.fst).Pairwise (· < ·) := by
  have sub : ∀ l : List Nat, ((l.filterMap fun p => (pageByte start data p).map fun b => (p, b)).map
      Prod.fst).Sublist l := by
    intro l
    induction l with
    | nil => exact List.Sublist.refl _
    | cons p ps ih =>
      cases h : pageByte start data p with
      | none => simpa [List.filterMap_cons, h] using ih.cons p
      | some b => simpa [List.filterMap_cons, h] using ih
  exact List.Pairwise.sublist (sub _) List.pairwise_lt_range

/-! ### The slot lock -/

/-- The slot states the lock holds (R47, Table 5-1). -/
theorem SlotState.locked_iff (x : SlotState) :
    x.locked = true ↔ x = .active ∨ x = .trial ∨ x = .armed ∨ x = .verifying := by
  cases x <;> decide

/-- Where slot A lies (R35). -/
theorem slotOfPhys_a {g : Geometry} {phys : Nat} : slotOfPhys g phys = some .a ↔ phys < g.slotSize := by
  unfold slotOfPhys
  split
  · next inA => exact ⟨fun _ => inA, fun _ => rfl⟩
  · next past => exact ⟨fun h => by split at h <;> exact (nomatch h), fun h => absurd h past⟩

/-- Where slot B lies (R35). -/
theorem slotOfPhys_b {g : Geometry} {phys : Nat} :
    slotOfPhys g phys = some .b ↔ g.slotSize ≤ phys ∧ phys < 2 * g.slotSize := by
  unfold slotOfPhys
  split
  · next inA => exact ⟨fun h => (nomatch h), fun h => absurd inA (by omega)⟩
  · next past =>
    split
    · next inB => exact ⟨fun _ => ⟨by omega, inB⟩, fun _ => rfl⟩
    · next above => exact ⟨fun h => (nomatch h), fun h => absurd h.2 above⟩

/-- When the slot lock drops a unit (R47). -/
theorem slotLocks_iff {m : Mode} {g : Geometry} {states : SlotId → SlotState} {phys : Nat} :
    slotLocks m g states phys = true ↔
      m ≠ .passthrough ∧ ∃ x, slotOfPhys g phys = some x ∧ (states x).locked = true := by
  unfold slotLocks
  split
  · exact ⟨fun h => (nomatch h), fun h => absurd rfl h.1⟩
  · next judging =>
    cases here : slotOfPhys g phys with
    | none => exact ⟨fun h => (nomatch h), fun ⟨_, _, h, _⟩ => (nomatch h)⟩
    | some x =>
      refine ⟨fun h => ⟨judging, x, rfl, h⟩, fun ⟨_, y, same, h⟩ => ?_⟩
      cases same
      exact h

/-! ### A unit judged -/

/-- What a unit of one of the three write transactions is: its class, address, extent, the offsets it covers, the
operation forwarded for it, and the lowest offset it writes (R18, R21, R40). -/
def IsUnit (g : Geometry) (c : Instr) (cls : TxClass) (a size : Nat) (covers : Nat → Bool)
    (op : Nat → DownOp) (first : Nat) : Prop :=
  (∃ addr data tail, data ≠ [] ∧ c = .program addr data tail ∧ cls = .program ∧
      a = addressValue addr ∧ size = 256 ∧
      covers = (fun i => (pageImage (g.logical a) data).any fun e => e.1 = i) ∧
      op = (fun phys => .program phys (pageImage (g.logical a) data)) ∧
      first = ((pageImage (g.logical a) data).head?.map Prod.fst).getD 0) ∨
    (∃ addr, c = .erase4k addr ∧ cls = .erase4k ∧ a = addressValue addr ∧ size = 4096 ∧
      covers = (fun _ => true) ∧ op = .erase4k ∧ first = 0) ∨
    ∃ addr, c = .erase64k addr ∧ cls = .erase64k ∧ a = addressValue addr ∧ size = 65536 ∧
      covers = (fun _ => true) ∧ op = .erase64k ∧ first = 0

/-- A transaction that is not judged is over (R17, R19, R21). -/
theorem State.perform_ignored {s : State} {cls : TxClass} {a : Nat} {judged : Snapshot → State → Prop}
    [∀ p u, Decidable (judged p u)] {unit : Snapshot → State → State} (hp : s.powered = true)
    (quiet : s.Quiet) (h : (s.snapFor cls a).stage = .s0 ∨ ¬ judged (s.snapFor cls a) s.clearOut.released) :
    (s.perform fun t => t.transact cls a id fun p u => if judged p u then unit p u else u) =
      .next (s.answersSoc []) := by
  refine State.perform_transact hp ?_ quiet
  split
  · rfl
  · next outside => exact if_neg (h.resolve_left outside)

/-- A unit judged outside the aperture (R21, R40). -/
theorem exec_unit {s t : State} {c : Instr} {cls : TxClass} {a size first : Nat} {covers : Nat → Bool}
    {op : Nat → DownOp} (hp : s.powered = true)
    (hunit : IsUnit (s.snapFor cls a).geo c cls a size covers op first)
    (outside : (s.snapFor cls a).stage ≠ .s0) (hbusy : (s.snapFor cls a).busy = false)
    (hwel : s.up.wel = true)
    (flash : (s.snapFor cls a).geo.inAperture ((s.snapFor cls a).geo.logical a) = false)
    (h : (s.clearOut.released.judgeUnit (s.snapFor cls a) cls
      ((s.snapFor cls a).geo.logical a - (s.snapFor cls a).geo.logical a % size) size first covers op).setWel
        false = t) (ht : t.Quiet) : exec c s = .next t := by
  have judged : s.clearOut.released.judged (s.snapFor cls a) = true := by
    rw [State.judged_eq]
    exact decide_eq_true ⟨hwel, hbusy⟩
  rcases hunit with ⟨addr, data, tail, some_data, rfl, rfl, rfl, rfl, rfl, rfl, rfl⟩ |
    ⟨addr, rfl, rfl, rfl, rfl, rfl, rfl, rfl⟩ | ⟨addr, rfl, rfl, rfl, rfl, rfl, rfl, rfl⟩
  · change execProgram addr data tail s = _
    refine State.perform_transact hp ?_ ht
    rw [if_neg outside, if_pos ⟨some_data, judged⟩, State.programUnit, flash]
    exact h
  · change execErase4k addr s = _
    refine State.perform_transact hp ?_ ht
    rw [if_neg outside, if_pos judged, State.erase4kUnit, flash]
    exact h
  · change execErase64k addr s = _
    refine State.perform_transact hp ?_ ht
    rw [if_neg outside, if_pos judged, State.erase64kUnit, flash]
    exact h

/-- In PASSTHROUGH no byte of a unit is denied (R46); else the lowest denied one decides (R49). -/
theorem firstDenied_eq (p : Snapshot) (phys : Nat) (covers : Nat → Bool) (n : Nat) :
    let denies := fun i => if p.mode = .passthrough then none else p.judge .write (phys + i)
    ((∀ i, i < n → covers i = true → denies i = none) → firstDenied p phys covers n = none) ∧
    ∀ i d f, i < n → covers i = true → denies i = some (f, d) →
      (∀ j, j < i → covers j = true → denies j = none) → firstDenied p phys covers n = some (i, d) := by
  intro denies
  unfold firstDenied
  cases mode : p.mode with
  | passthrough =>
    exact ⟨fun _ => rfl, fun i d f _ _ h => by simp [denies, mode] at h⟩
  | runA | runB | recovery =>
    have judging : ∀ i, denies i = p.judge .write (phys + i) := fun i => if_neg (by rw [mode]; simp)
    simp only [judging]
    obtain ⟨none_denied, first_denied⟩ := firstDeniedFrom_eq p phys covers n 0
    refine ⟨fun h => none_denied fun i _ hi => h i (by omega), fun i d f hi hc hd before => ?_⟩
    exact first_denied i d f (Nat.zero_le i) (by omega) hc hd fun j _ hj => before j hj

/-- Settles O37: the row's own condition fails, and the transaction is over. -/
theorem writesIgnored : Obligations.WritesIgnored := by
  intro s c cls a hp quiet p form
  have unjudged : ∀ q : Snapshot, s.up.wel = false ∨ q.busy = true → ¬ s.clearOut.released.judged q = true := by
    intro q h
    rw [State.judged_eq, decide_eq_true_eq]
    rintro ⟨wel, free⟩
    rcases h with h | h
    · rw [show s.up.wel = true from wel] at h; exact nomatch h
    · rw [free] at h; exact nomatch h
  rcases form with ⟨addr, data, tail, rfl, rfl, rfl, h⟩ | ⟨addr, rfl, rfl, rfl, h⟩ | ⟨addr, rfl, rfl, rfl, h⟩
  · change execProgram addr data tail s = _
    refine State.perform_ignored hp quiet ?_
    rcases h with inS0 | wel | busy | empty
    · exact .inl inS0
    · exact .inr fun judged => unjudged p (.inl wel) judged.2
    · exact .inr fun judged => unjudged p (.inr busy) judged.2
    · exact .inr fun judged => judged.1 empty
  · change execErase4k addr s = _
    exact State.perform_ignored hp quiet (h.imp_right (unjudged p))
  · change execErase64k addr s = _
    exact State.perform_ignored hp quiet (h.imp_right (unjudged p))

/-! ### A unit forwarded or dropped -/

/-- A unit dropped, WEL cleared (R20, R49). -/
theorem State.dropUnit_clear (s : State) (p : Snapshot) (cls : TxClass) (addr : Nat) (d : Decider) :
    (s.clearOut.released.dropUnit p cls addr d).setWel false = State.violate { s with
      out := ⟨[], []⟩, up := { s.up with arrived := none, wel := false, denied := true } }
      ⟨addr, cls, p.stage, d⟩ := rfl

/-- Settles O36: the unit's window, the lock, the covered bytes and the lock now, in that order. -/
theorem writeUnitsForwardedOrDropped : Obligations.WriteUnitsForwardedOrDropped := by
  refine ⟨fun _ _ => ⟨rfl, rfl⟩, fun l data => ⟨pageImage_ascends l data, ?image⟩, ?lock, ?units⟩
  case image =>
    intro i b
    rw [mem_pageImage, pageByte_eq_some]
    refine ⟨fun h => h.2, fun h => ⟨?_, h⟩⟩
    obtain ⟨k, _, rfl, _⟩ := h
    exact Nat.mod_lt _ (by decide)
  case lock =>
    intro m g states phys
    rw [slotLocks_iff]
    refine and_congr_right fun _ => exists_congr fun x => ?_
    rw [SlotState.locked_iff]
    refine and_congr_left fun _ => ?_
    cases x with
    | a => rw [slotOfPhys_a]; simp
    | b => rw [slotOfPhys_b]; simp
  case units =>
    intro s c cls a size covers op first hp quiet p l base form outside free wel flash after dropped lockedNow
      denies
    have unit : IsUnit p.geo c cls a size covers op first := form
    have drop : ∀ addr d, s.clearOut.released.judgeUnit p cls base size first covers op =
        s.clearOut.released.dropUnit p cls addr d → exec c s = .next (dropped addr d) := by
      intro addr d h
      refine exec_unit hp unit outside free wel flash ?_ quiet
      exact congrArg (fun u => State.setWel u false) h
    have judge : ∀ phys, translate p.mode p.geo base = some phys → slotLocks p.mode p.geo p.slot phys = false →
        s.clearOut.released.judgeUnit p cls base size first covers op =
          match firstDenied p phys covers size with
          | some (i, d) => s.clearOut.released.dropUnit p cls (base + i) d
          | none => if lockedNow phys = true then s.clearOut.released.dropUnit p cls (base + first) .slotLock
            else (s.clearOut.released.forward (op phys)).stageSlot p.mode p.geo phys := by
      intro phys mapped unlocked
      rw [State.judgeUnit, mapped]
      dsimp only
      rw [unlocked, if_neg Bool.false_ne_true]
      rfl
    refine ⟨fun unmapped => drop _ _ ?_, fun phys mapped => ⟨fun locked => drop _ _ ?_, fun unlocked => ?_⟩⟩
    · rw [State.judgeUnit, unmapped]
    · rw [State.judgeUnit, mapped]
      exact if_pos locked
    obtain ⟨none_denied, first_denied⟩ := firstDenied_eq p phys covers size
    refine ⟨fun i d fill inside covered denied before => drop _ _ ?_, fun allowed => ⟨fun locked => drop _ _ ?_,
      fun unlockedNow => ?_⟩⟩
    · rw [judge phys mapped unlocked, first_denied i d fill inside covered denied before]
    · rw [judge phys mapped unlocked, none_denied allowed]
      exact if_pos locked
    have forwarded : s.clearOut.released.judgeUnit p cls base size first covers op =
        (s.clearOut.released.forward (op phys)).stageSlot p.mode p.geo phys := by
      rw [judge phys mapped unlocked, none_denied allowed]
      exact if_neg (by rw [unlockedNow]; exact Bool.false_ne_true)
    intro sent
    refine ⟨fun x judging here writable => ?_, fun kept => ?_⟩
    · refine exec_unit hp unit outside free wel flash ?_ quiet
      have staged : (s.clearOut.released.forward (op phys)).stageSlot p.mode p.geo phys =
          (s.clearOut.released.forward (op phys)).changeSlot x SlotRec.staged :=
        State.stageSlot_stages judging here writable
      rw [show (s.snapFor cls a).geo.logical a - (s.snapFor cls a).geo.logical a % size = base from rfl, forwarded,
        staged, State.forward_eq]
      rfl
    · refine exec_unit hp unit outside free wel flash ?_ quiet
      have same : (s.clearOut.released.forward (op phys)).stageSlot p.mode p.geo phys =
          s.clearOut.released.forward (op phys) := by
        rcases kept with pass | kept
        · rw [pass]; rfl
        · exact State.stageSlot_keeps _ kept
      rw [show (s.snapFor cls a).geo.logical a - (s.snapFor cls a).geo.logical a % size = base from rfl, forwarded,
        same, State.forward_eq]
      rfl

/-! ### No write into a locked slot -/

/-- What a judged unit puts on the downstream bus: nothing, or its operation, over a place that the lock leaves
free as it is forwarded (R30, R47). -/
theorem State.judgeUnit_out {u : State} (ho : u.out.toFlash = []) {p : Snapshot} {cls : TxClass}
    {base size first : Nat} {covers : Nat → Bool} {op : Nat → DownOp} {o : DownOp}
    (h : o ∈ (u.judgeUnit p cls base size first covers op).out.toFlash) :
    ∃ phys, translate p.mode p.geo base = some phys ∧
      slotLocks p.mode p.geo (fun x => (u.slot x).state) phys = false ∧ (o = .writeEnable ∨ o = op phys) := by
  have dropped : ∀ addr d, o ∉ (u.dropUnit p cls addr d).out.toFlash := fun addr d h => by
    rw [show (u.dropUnit p cls addr d).out = u.out from rfl, ho] at h
    exact nomatch h
  unfold State.judgeUnit at h
  split at h
  · exact absurd h (dropped _ _)
  · next phys mapped =>
    split at h
    · exact absurd h (dropped _ _)
    · split at h
      · exact absurd h (dropped _ _)
      · split at h
        · exact absurd h (dropped _ _)
        · next unlocked =>
          refine ⟨phys, mapped, Bool.eq_false_iff.2 unlocked, ?_⟩
          have kept : ∀ v : State, (v.stageSlot p.mode p.geo phys).out = v.out := by
            intro v
            unfold State.stageSlot
            split
            · rfl
            · split
              · split <;> rfl
              · rfl
          rw [kept, State.forward_eq, ho] at h
          simpa using h

/-- A judged unit leaves the engine and the aperture alone. -/
theorem State.judgeUnit_keeps (u : State) (p : Snapshot) (cls : TxClass) (base size first : Nat)
    (covers : Nat → Bool) (op : Nat → DownOp) :
    (u.judgeUnit p cls base size first covers op).engine = u.engine ∧
      (u.judgeUnit p cls base size first covers op).aperture = u.aperture := by
  unfold State.judgeUnit
  split
  · exact ⟨rfl, rfl⟩
  · split
    · exact ⟨rfl, rfl⟩
    · split
      · exact ⟨rfl, rfl⟩
      · split
        · exact ⟨rfl, rfl⟩
        · unfold State.stageSlot
          split
          · exact ⟨rfl, rfl⟩
          · split
            · split <;> exact ⟨rfl, rfl⟩
            · exact ⟨rfl, rfl⟩

/-- An engine and an aperture as they were leave no more work waiting (R68). -/
theorem State.Quiet.congr {s t : State} (h : s.Quiet) (engine : t.engine = s.engine)
    (aperture : t.aperture = s.aperture) : t.Quiet := by
  unfold State.Quiet
  rw [engine, aperture]
  exact h

/-- What lies within an aligned unit is on the same side of an aligned border as the unit. -/
theorem aligned_below {phys base size border : Nat} (hsize : size ∣ 65536) (hbase : size ∣ base)
    (hborder : 65536 ∣ border) (low : base ≤ phys) (high : phys < base + size) :
    phys < border ↔ base < border := by
  obtain ⟨m, rfl⟩ := hbase
  obtain ⟨n, rfl⟩ := hsize.trans hborder
  refine ⟨fun h => by omega, fun h => ?_⟩
  have room : size * (m + 1) ≤ size * n := Nat.mul_le_mul_left _ (Nat.lt_of_mul_lt_mul_left h)
  rw [Nat.mul_add, Nat.mul_one] at room
  omega

/-- A unit lies in one slot, or in none (R35, R47). -/
theorem slotOfPhys_unit {g : Geometry} {phys base size : Nat} (hsize : size ∣ 65536) (hbase : size ∣ base)
    (hslot : 65536 ∣ g.slotSize) (low : base ≤ phys) (high : phys < base + size) :
    slotOfPhys g phys = slotOfPhys g base := by
  unfold slotOfPhys
  simp only [aligned_below hsize hbase hslot low high,
    aligned_below hsize hbase (hslot.mul_left 2) low high]

/-- An aligned unit is aligned where it lies in the flash (R35, R36). -/
theorem translate_aligned {m : Mode} {g : Geometry} {base phys size : Nat} (hsize : size ∣ 65536)
    (hbase : size ∣ base) (hslot : 65536 ∣ g.slotSize) (hrec : 65536 ∣ g.recBase)
    (h : translate m g base = some phys) : size ∣ phys := by
  have slot := hsize.trans hslot
  have rec_ := hsize.trans hrec
  unfold translate at h
  split at h
  · cases h; exact hbase
  · cases h; exact hbase
  · split at h
    · cases h; exact hbase.add slot
    · split at h
      · cases h; exact Nat.dvd_sub hbase slot
      · cases h; exact hbase
  · split at h
    · cases h; exact rec_.add hbase
    · split at h
      · exact nomatch h
      · split at h
        · cases h; exact Nat.dvd_sub hbase slot
        · cases h; exact hbase

/-- The operation that a write transaction outside the aperture puts on the downstream bus (R30, R47). -/
theorem exec_unit_out {s t : State} {c : Instr} {cls : TxClass} {a size first : Nat} {covers : Nat → Bool}
    {op : Nat → DownOp} {o : DownOp} (hp : s.powered = true) (quiet : s.Quiet)
    (hunit : IsUnit (s.snapFor cls a).geo c cls a size covers op first)
    (flash : (s.snapFor cls a).geo.inAperture ((s.snapFor cls a).geo.logical a) = false)
    (h : exec c s = .next t) (ho : o ∈ t.out.toFlash) :
    let p := s.snapFor cls a
    ∃ phys, translate p.mode p.geo (p.geo.logical a - p.geo.logical a % size) = some phys ∧
      slotLocks p.mode p.geo (fun x => (s.slot x).state) phys = false ∧ (o = .writeEnable ∨ o = op phys) := by
  intro p
  by_cases judged : p.stage ≠ .s0 ∧ s.up.wel = true ∧ p.busy = false
  · obtain ⟨outside, wel, free⟩ := judged
    obtain ⟨engine, aperture⟩ := s.clearOut.released.judgeUnit_keeps p cls
      (p.geo.logical a - p.geo.logical a % size) size first covers op
    rw [exec_unit hp hunit outside free wel flash rfl (State.Quiet.congr quiet engine aperture)] at h
    cases h
    exact State.judgeUnit_out (u := s.clearOut.released) rfl ho
  · have unjudged : p.stage = .s0 ∨ s.up.wel = false ∨ p.busy = true := by
      by_contra all
      simp only [not_or, Bool.not_eq_false, Bool.not_eq_true] at all
      exact judged all
    have ignored : exec c s = .next (s.answersSoc []) := by
      refine writesIgnored s c cls a hp quiet ?_
      rcases hunit with ⟨addr, data, tail, _, hc, hcls, ha, _⟩ | ⟨addr, hc, hcls, ha, _⟩ |
        ⟨addr, hc, hcls, ha, _⟩
      · exact .inl ⟨addr, data, tail, hc, hcls, ha, unjudged.imp_right fun h => h.imp_right .inl⟩
      · exact .inr (.inl ⟨addr, hc, hcls, ha, unjudged⟩)
      · exact .inr (.inr ⟨addr, hc, hcls, ha, unjudged⟩)
    rw [ignored] at h
    cases h
    exact nomatch ho

/-- A place that the lock leaves free lies in no locked slot (R47). -/
theorem slotLocks_free {m : Mode} {g : Geometry} {states : SlotId → SlotState} {phys : Nat} {x : SlotId}
    (judging : m ≠ .passthrough) (h : slotLocks m g states phys = false) (here : slotOfPhys g phys = some x) :
    states x ≠ .active ∧ states x ≠ .trial ∧ states x ≠ .armed ∧ states x ≠ .verifying := by
  have free : ¬ (states x).locked = true := fun locked =>
    Bool.eq_false_iff.1 h (slotLocks_iff.2 ⟨judging, x, here, locked⟩)
  rw [SlotState.locked_iff] at free
  simpa only [not_or] using free

/-- Settles O41: a unit is forwarded where the lock leaves its first byte free, and it lies in one slot. -/
theorem noWriteReachesALockedSlot : Obligations.NoWriteReachesALockedSlot := by
  intro s t c cls addr form hp quiet p judging hslot hrec flash h o ho phys writes x here
  have notEnable : o ≠ .writeEnable := by
    rintro rfl
    rcases writes with ⟨_, _, _, h, _⟩ | ⟨_, h, _⟩ | ⟨_, h, _⟩ | h <;> exact nomatch h
  have free : ∀ {size first covers op}, IsUnit p.geo c cls (addressValue addr) size covers op first →
      size ∣ 65536 →
      (∀ base, o = op base → base ≤ phys ∧ phys < base + size) →
      (s.slot x).state ≠ .active ∧ (s.slot x).state ≠ .trial ∧ (s.slot x).state ≠ .armed ∧
        (s.slot x).state ≠ .verifying := by
    intro size first covers op unit hsize within
    obtain ⟨base, mapped, unlocked, enable | rfl⟩ := exec_unit_out hp quiet unit flash h ho
    · exact absurd enable notEnable
    · obtain ⟨low, high⟩ := within base rfl
      have aligned : size ∣ base := translate_aligned hsize (Nat.dvd_sub_mod _) hslot hrec mapped
      rw [slotOfPhys_unit hsize aligned hslot low high] at here
      exact slotLocks_free (states := fun y => (s.slot y).state) judging unlocked here
  rcases form with ⟨data, tail, rfl, rfl⟩ | ⟨rfl, rfl⟩ | ⟨rfl, rfl⟩
  · by_cases empty : data = []
    · rw [writesIgnored s _ .program _ hp quiet
        (.inl ⟨addr, data, tail, rfl, rfl, rfl, .inr (.inr (.inr empty))⟩)] at h
      cases h
      exact nomatch ho
    · refine free (.inl ⟨addr, data, tail, empty, rfl, rfl, rfl, rfl, rfl, rfl, rfl⟩) (by decide) fun base is => ?_
      rcases writes with ⟨page, image, b, h, written, low⟩ | ⟨_, h, _⟩ | ⟨_, h, _⟩ | h
      · rw [is] at h
        cases h
        have inside := (mem_pageImage.1 written).1
        omega
      all_goals exact nomatch is.symm.trans h
  · refine free (.inr (.inl ⟨addr, rfl, rfl, rfl, rfl, rfl, rfl, rfl⟩)) (by decide) fun base is => ?_
    rcases writes with ⟨_, _, _, h, _⟩ | ⟨base', h, range⟩ | ⟨_, h, _⟩ | h
    · exact nomatch is.symm.trans h
    · cases is.symm.trans h
      exact range
    all_goals exact nomatch is.symm.trans h
  · refine free (.inr (.inr ⟨addr, rfl, rfl, rfl, rfl, rfl, rfl, rfl⟩)) (by decide) fun base is => ?_
    rcases writes with ⟨_, _, _, h, _⟩ | ⟨_, h, _⟩ | ⟨base', h, range⟩ | h
    · exact nomatch is.symm.trans h
    · exact nomatch is.symm.trans h
    · cases is.symm.trans h
      exact range
    · exact nomatch is.symm.trans h

end Sys2Proof.Machine

/-! How a byte is judged by the Region Table (R36, R41, R42, R46, R48, R52). -/

namespace Sys2Proof.Machine

/-! ### The deciding entry -/

/-- The first element of a list that satisfies a property. -/
theorem findIdx_first {α : Type} {l : List α} {p : α → Bool} {i : Nat} {x : α} (here : l[i]? = some x)
    (hx : p x = true) (before : ∀ j y, j < i → l[j]? = some y → p y = false) : l.findIdx? p = some i := by
  rw [List.findIdx?_eq_some_iff_getElem]
  obtain ⟨inside, rfl⟩ := List.getElem?_eq_some_iff.1 here
  refine ⟨inside, hx, fun j hj => ?_⟩
  rw [before j _ hj (List.getElem?_eq_getElem (by omega))]
  exact Bool.false_ne_true

/-- No element of a list satisfies a property. -/
theorem findIdx_none {α : Type} {l : List α} {p : α → Bool} (h : ∀ x ∈ l, p x = false) :
    l.findIdx? p = none := by
  rw [List.findIdx?_eq_none_iff]
  exact h

/-- The deciding entry is the lowest-indexed manifest entry that covers the byte (R42). -/
theorem RegionTable.deciding_entry {t : RegionTable} {m : Mode} {g : Geometry} {a : Access} {phys i : Nat}
    {e : ManifestEntry} (here : t.entries[i]? = some e) (covers : e.loaded.covers m g phys = true)
    (before : ∀ j e', j < i → t.entries[j]? = some e' → ¬ e'.loaded.covers m g phys = true) :
    t.deciding m g a phys = some ⟨e.cond a, e.loaded.fill, .entry i⟩ := by
  rw [RegionTable.deciding, findIdx_first here covers fun j e' hj h => Bool.eq_false_iff.2 (before j e' hj h)]
  exact congrArg (Option.map _) here

/-- Else it is the default entry (R42). -/
theorem RegionTable.deciding_dflt {t : RegionTable} {m : Mode} {g : Geometry} {a : Access} {phys : Nat}
    (h : ∀ e ∈ t.entries, ¬ e.loaded.covers m g phys = true) :
    t.deciding m g a phys = t.dflt.map fun d => ⟨d.cond a, d.fill, .dflt⟩ := by
  rw [RegionTable.deciding, findIdx_none fun e he => Bool.eq_false_iff.2 (h e he)]

/-- The lowest tightening entry that covers the byte and does not allow the access denies it (R48, R52). -/
theorem RegionTable.tightDenier_eq (t : RegionTable) (m : Mode) (g : Geometry) (a : Access) (stage : Stage)
    (phys : Nat) :
    let denies := fun (i : Nat) (r : Region) =>
      t.tight[i]? = some r ∧ r.covers m g phys = true ∧ (r.cond a).holds stage = false
    ((∀ i r, ¬ denies i r) → t.tightDenier m g a stage phys = none) ∧
      ∀ i r, denies i r → (∀ j r', j < i → ¬ denies j r') →
        t.tightDenier m g a stage phys = some (r.fill, .tight i) := by
  intro denies
  have test : ∀ r : Region, (r.covers m g phys && !(r.cond a).holds stage) = true ↔
      r.covers m g phys = true ∧ (r.cond a).holds stage = false := fun r => by simp
  unfold RegionTable.tightDenier
  refine ⟨fun h => ?_, fun i r hr before => ?_⟩
  · rw [findIdx_none]
    intro r hr
    obtain ⟨i, inside, rfl⟩ := List.mem_iff_getElem.1 hr
    exact Bool.eq_false_iff.2 fun denied =>
      h i _ ⟨List.getElem?_eq_getElem inside, (test _).1 denied⟩
  · obtain ⟨here, denied⟩ := hr
    rw [findIdx_first here ((test r).2 denied) fun j r' hj h => Bool.eq_false_iff.2 fun denied' =>
      before j r' hj ⟨h, (test r').1 denied'⟩]
    exact congrArg (Option.map _) here

/-! ### The judgement -/

/-- Outside PASSTHROUGH the deciding entry judges, and the tightening entries where it allows (R42, R52). -/
theorem Snapshot.judge_eq {p : Snapshot} (judging : p.mode ≠ .passthrough) (a : Access) (phys : Nat) :
    p.judge a phys = match p.table.deciding p.mode p.geo a phys with
      | some d => if d.cond.holds p.stage then p.table.tightDenier p.mode p.geo a p.stage phys
        else some (d.fill, d.decider)
      | none => p.table.tightDenier p.mode p.geo a p.stage phys := by
  unfold Snapshot.judge
  cases mode : p.mode with
  | passthrough => exact absurd mode judging
  | runA | runB | recovery => rfl

/-- A region's range, by its anchor's base (R41). -/
theorem Region.covers_at {r : Region} {m : Mode} {g : Geometry} {phys base : Nat}
    (h : anchorBase m g r.anchor = some base) :
    r.covers m g phys = true ↔ base + r.offset ≤ phys ∧ phys < base + r.offset + r.size := by
  rw [Region.covers, h]
  simp

/-- An anchor without a base covers nothing (R41). -/
theorem Region.covers_nowhere {r : Region} {m : Mode} {g : Geometry} {phys : Nat}
    (h : anchorBase m g r.anchor = none) : ¬ r.covers m g phys = true := by
  rw [Region.covers, h]
  exact Bool.false_ne_true

/-- Settles O32: the deciding entry first, then the tightening entries; anchors and windows by the mode. -/
theorem judgeFollowsTheTable : Obligations.JudgeFollowsTheTable := by
  refine ⟨fun _ => ⟨rfl, rfl⟩, fun _ => ⟨rfl, rfl⟩, fun _ => ⟨rfl, rfl⟩, ?_⟩
  intro p a phys covers tightAt tightOk tightOut
  have tightened : tightOut (p.table.tightDenier p.mode p.geo a p.stage phys) :=
    p.table.tightDenier_eq p.mode p.geo a p.stage phys
  have decided : ∀ (c : Cond) (fill : Fill) (by_ : Decider), p.mode ≠ .passthrough →
      p.table.deciding p.mode p.geo a phys = some ⟨c, fill, by_⟩ →
      (c.holds p.stage = false → p.judge a phys = some (fill, by_)) ∧
        (c.holds p.stage = true → tightOut (p.judge a phys)) := by
    intro c fill by_ judging deciding
    rw [Snapshot.judge_eq judging, deciding]
    dsimp only
    refine ⟨fun denied => ?_, fun allowed => ?_⟩
    · rw [denied, if_neg Bool.false_ne_true]
    · rw [allowed, if_pos rfl]
      exact tightened
  refine ⟨?pass, fun judging => ⟨?entry, fun uncovered => ⟨fun d held => ?dflt, fun missing => ?nothing⟩⟩, ?anchors,
    ?windows, slotOfPhys_a, slotOfPhys_b⟩
  case pass =>
    intro pass
    rw [Snapshot.judge, pass]
  case entry =>
    intro i e here covered before
    exact decided _ _ _ judging (RegionTable.deciding_entry here covered before)
  case dflt =>
    refine decided _ _ _ judging ?_
    rw [RegionTable.deciding_dflt uncovered, held]
    rfl
  case nothing =>
    rw [Snapshot.judge_eq judging, RegionTable.deciding_dflt uncovered, missing]
    exact tightened
  case anchors =>
    intro r within
    refine ⟨fun anchor => ?_, fun anchor mode => ?_, fun anchor mode => ?_, fun anchor mode => ?_,
      fun anchor mode => ?_, fun anchor mode => ?_⟩
    · exact Region.covers_at (by rw [anchor]; rfl)
    · exact Region.covers_at (by rw [anchor, mode]; rfl)
    · exact Region.covers_at (by rw [anchor, mode]; rfl)
    · exact Region.covers_nowhere (by rw [anchor, mode]; rfl)
    · exact Region.covers_at (by rw [anchor, mode]; rfl)
    · rcases mode with mode | mode <;> exact Region.covers_at (by rw [anchor, mode]; rfl)
  case windows =>
    intro l
    refine ⟨fun mode => ?_, fun mode => ?_, fun mode small => ⟨fun low => ?_, fun past low => ?_,
      fun past low => ?_, fun past => ?_⟩⟩
    · rcases mode with mode | mode <;> rw [mode] <;> rfl
    · rw [mode, translate]
      by_cases low : l < p.geo.slotSize
      · rw [if_pos low, if_pos (by omega), Nat.mod_eq_of_lt (by omega)]
      · rw [if_neg low]
        by_cases mid : l < 2 * p.geo.slotSize
        · rw [if_pos mid, if_pos mid, show l + p.geo.slotSize = l - p.geo.slotSize + 2 * p.geo.slotSize by omega,
            Nat.add_mod_right, Nat.mod_eq_of_lt (by omega)]
        · rw [if_neg mid, if_neg mid]
    · rw [mode, translate, if_pos low]
    · rw [mode, translate, if_neg (by omega), if_pos low]
    · rw [mode, translate, if_neg (by omega), if_neg (by omega), if_pos low]
    · rw [mode, translate, if_neg (by omega), if_neg (by omega), if_neg (by omega)]

/-! ### READ_END, FLASH_FINISHED -/

/-- The position a PROGRAM's data starts at: the written one without a written predecessor (R18). -/
theorem programStart_first {page start : Nat} {low high : List (Nat × Byte)}
    (hhead : high.head?.map Prod.fst = some start)
    (hlow : ∀ e ∈ low, ∃ d ∈ low ++ high, e.1 = (d.1 + 1) % 256)
    (hstart : ¬ ∃ d ∈ low ++ high, start = (d.1 + 1) % 256) : programStart page (low ++ high) = start := by
  cases high with
  | nil => exact nomatch hhead
  | cons e rest =>
    obtain rfl : e.1 = start := by simpa using hhead
    have found : (low ++ e :: rest).find? (fun e' => !(low ++ e :: rest).any fun d => decide (e'.1 = (d.1 + 1) % 256)) =
        some e := by
      refine List.find?_eq_some_iff_append.2 ⟨?_, low, rest, rfl, fun d hd => ?_⟩
      · rw [Bool.not_eq_true', List.any_eq_false]
        exact fun d written preceded => hstart ⟨d, written, of_decide_eq_true preceded⟩
      · obtain ⟨d', written, preceded⟩ := hlow d hd
        rw [Bool.not_not]
        exact List.any_eq_true.2 ⟨d', written, decide_eq_true preceded⟩
    rw [programStart, found]
    rfl

/-- A page written whole has no such position, and its start is a free value (R18). -/
theorem programStart_full {page : Nat} {image : List (Nat × Byte)}
    (h : ∀ e ∈ image, ∃ d ∈ image, e.1 = (d.1 + 1) % 256) :
    programStart page image = (Config.fullPageStart page (image.map Prod.snd)).toNat := by
  have none_found : image.find? (fun e => !image.any fun d => decide (e.1 = (d.1 + 1) % 256)) = none := by
    refine List.find?_eq_none.2 fun e he => ?_
    obtain ⟨d, written, preceded⟩ := h e he
    rw [Bool.not_eq_true, Bool.not_eq_false']
    exact List.any_eq_true.2 ⟨d, written, decide_eq_true preceded⟩
  rw [programStart, none_found]
  rfl

/-- A PROGRAM on the downstream bus (R30, Table 12-14). -/
theorem program_sent {page start : Nat} {low high : List (Nat × Byte)} (hlow : ∀ e ∈ low, e.1 < start)
    (hhigh : ∀ e ∈ high, start ≤ e.1) (hstart : programStart page (low ++ high) = start) :
    (DownOp.program page (low ++ high)).sent =
      ⟨0x12, some (.four (BitVec.ofNat 32 (page + start))), (high ++ low).map Prod.snd⟩ := by
  rw [DownOp.sent, hstart, imageFrom_append hlow hhigh]
  rfl

/-- The port's release leaves the engine and the aperture alone (R30, R32). -/
theorem State.freePort_quiet {s : State} (h : s.Quiet) : s.freePort.Quiet := by
  rw [State.freePort_eq]
  split <;> exact h

/-- Settles O35: the bus forms by the operation, the rows by the port. -/
theorem readEndAndFlashFinished : Obligations.ReadEndAndFlashFinished := by
  refine ⟨fun _ => rfl, fun _ => ⟨rfl, rfl, rfl⟩, rfl, rfl, rfl, fun _ => rfl, ?chip, ?program, ?rows⟩
  case chip =>
    unfold DownOp.sent
    cases Config.chipEraseIsC7
    · exact .inr rfl
    · exact .inl rfl
  case program =>
    intro page start low high image preceded sent hlow hhigh
    refine ⟨fun hhead before unpreceded => ?_, fun full hstart => ?_⟩
    · exact program_sent hlow hhigh (programStart_first hhead before unpreceded)
    · exact program_sent hlow hhigh ((programStart_full full).trans hstart.symm)
  case rows =>
    intro s hp quiet clear freed
    refine ⟨?finished, ?readEnd⟩
    case finished =>
      change execFlashFinished s = _
      refine State.perform_event hp ?_ ?_
      · rw [State.clearOut_down]
        split
        · rw [State.pollFinished, State.freePort_eq]
          rfl
        · rfl
      · split
        · dsimp only [freed]
          split <;> exact quiet
        · exact quiet
    case readEnd =>
      change execReadEnd s = _
      have ended : s.clearOut.endRead = match s.up.reads with
          | [] => clear
          | r :: rest =>
            if r.holds = true ∧ s.down.port = .carryingSoc ∧ (∀ q ∈ rest, q.holds = false) then
              freed { clear with up := { s.up with reads := rest } }
            else { clear with up := { s.up with reads := rest } } := by
        unfold State.endRead
        rw [State.clearOut_up]
        cases s.up.reads with
        | nil => rfl
        | cons r rest =>
          have test : (r.holds && decide (s.down.port = .carryingSoc) &&
              !rest.any fun q => q.holds) = true ↔
                r.holds = true ∧ s.down.port = .carryingSoc ∧ ∀ q ∈ rest, q.holds = false := by
            simp [and_assoc]
          exact if_congr test (State.freePort_eq _) rfl
      refine (State.perform_quiet hp ?_).trans (congrArg Host.Outcome.next ended)
      unfold State.endRead
      split
      · exact quiet
      · dsimp only
        split
        · exact State.freePort_quiet quiet
        · exact quiet

end Sys2Proof.Machine

/-! READs that need no flash (R19, R23, R38, R59, R64, R65). -/

namespace Sys2Proof.Machine

/-! ### One byte -/

/-- A byte of a READ needs no flash: in S0, or outside the aperture while busy or at an unmapped address (R19, R23,
R38). -/
def OpenRead.fills (r : OpenRead) (i : Nat) : Prop :=
  r.snap.stage = .s0 ∨
    (r.snap.geo.inAperture ((r.addr + r.sent + i) % r.snap.geo.flashSize) = false ∧
      (r.snap.busy = true ∨
        translate r.snap.mode r.snap.geo ((r.addr + r.sent + i) % r.snap.geo.flashSize) = none))

/-- The READ after `n` bytes that needed no flash. -/
def OpenRead.past (r : OpenRead) (n : Nat) : OpenRead :=
  { r with sent := r.sent + n, nextPhys := if n = 0 then r.nextPhys else none }

/-- A READ before its first byte. -/
theorem OpenRead.past_zero (r : OpenRead) : r.past 0 = r := rfl

/-- A READ that has just arrived, after `n` bytes. -/
theorem OpenRead.past_fresh (a n : Nat) (p : Snapshot) :
    OpenRead.past ⟨a, 0, p, false, none, false⟩ n = ⟨a, n, p, false, none, false⟩ := by
  unfold OpenRead.past
  rw [Nat.zero_add, ite_self]

/-- One byte and then `n` are `n + 1`. -/
theorem OpenRead.past_succ (r : OpenRead) (n : Nat) : (r.sentOne none).past n = r.past (n + 1) := by
  unfold OpenRead.past OpenRead.sentOne
  cases n with
  | zero => rfl
  | succ n => simp [Nat.add_comm, Nat.add_left_comm]

/-- Bytes clocked out one part after another. -/
theorem State.toSoc_toSoc (s : State) (a b : List Byte) : (s.toSoc a).toSoc b = s.toSoc (a ++ b) := by
  unfold State.toSoc
  rw [List.append_assoc]

/-- No bytes clocked out. -/
theorem State.toSoc_nil (s : State) : s.toSoc [] = s := by
  unfold State.toSoc
  rw [List.append_nil]

/-- Bytes that need no flash are 0xFF, and hand nothing (R19, R23, R38). -/
theorem readBytes_fill (n : Nat) : ∀ (s : State) (r : OpenRead) (flash : List Byte),
    (∀ i, i < n → r.fills i) → readBytes n s r flash = (s.toSoc (List.replicate n 0xff), r.past n) := by
  induction n with
  | zero => exact fun s r flash _ => by rw [List.replicate_zero, State.toSoc_nil]; rfl
  | succ n ih =>
    intro s r flash h
    have byte : s.readByte r flash = s.sendFill r flash 0xff := State.readByte_fill s r flash (h 0 (by omega))
    have rest : ∀ i, i < n → (r.sentOne none).fills i := fun i hi => by
      have next := h (i + 1) (by omega)
      rw [OpenRead.fills, show r.addr + r.sent + (i + 1) = r.addr + (r.sent + 1) + i by omega] at next
      exact next
    rw [readBytes, byte, State.sendFill, ih _ _ _ rest, State.toSoc_toSoc, OpenRead.past_succ]
    rfl

/-- A byte of the aperture is the response image's, or 0xFF (R59). -/
theorem State.readByte_aperture (s : State) (r : OpenRead) (flash : List Byte)
    (outside : r.snap.stage ≠ .s0)
    (inside : r.snap.geo.inAperture (r.snap.geo.logical (r.addr + r.sent)) = true) :
    s.readByte r flash = (s.readHeader (r.snap.geo.logical (r.addr + r.sent) - r.snap.geo.apBase)).sendFill r flash
      (s.apertureByte (r.snap.geo.logical (r.addr + r.sent) - r.snap.geo.apBase)) := by
  simp only [State.readByte]
  rw [if_neg outside, inside]
  rfl

/-- The unread flag replaced (R65). -/
def State.withUnread (s : State) (b : Bool) : State :=
  { s with aperture := { s.aperture with resp := { s.aperture.resp with unread := b } } }

/-- The header's first byte makes a DONE response read (R65). -/
theorem State.readHeader_eq (s : State) (off : Nat) : s.readHeader off =
    s.withUnread (if s.aperture.resp.state = .done ∧ off = 2048 then false else s.aperture.resp.unread) := by
  unfold State.readHeader
  by_cases h : s.aperture.resp.state = .done ∧ off = 2048
  · rw [if_pos h, if_pos ⟨h.2, h.1⟩]
    rfl
  · rw [if_neg h, if_neg fun h' => h ⟨h'.2, h'.1⟩]
    rfl

/-- Whether a part of the aperture from `off` on holds the header's first byte, of a DONE response (R65). -/
def State.unreadAfter (s : State) (off n : Nat) : Bool :=
  if s.aperture.resp.state = .done ∧ off ≤ 2048 ∧ 2048 < off + n then false else s.aperture.resp.unread

/-- The bytes of a part of the aperture (R59). -/
theorem readBytes_aperture (n : Nat) : ∀ (s : State) (r : OpenRead) (flash : List Byte) (off : Nat),
    r.snap.stage ≠ .s0 →
    (∀ i, i < n → r.snap.geo.inAperture (r.snap.geo.logical (r.addr + r.sent + i)) = true ∧
      r.snap.geo.logical (r.addr + r.sent + i) - r.snap.geo.apBase = off + i) →
    readBytes n s r flash = ((s.withUnread (s.unreadAfter off n)).toSoc
      ((List.range n).map fun i => s.apertureByte (off + i)), r.past n) := by
  induction n with
  | zero =>
    intro s r flash off _ _
    have unread : s.unreadAfter off 0 = s.aperture.resp.unread := if_neg (by omega)
    rw [unread, List.range_zero, List.map_nil, State.toSoc_nil]
    rfl
  | succ n ih =>
    intro s r flash off outside h
    obtain ⟨inside, first⟩ := h 0 (by omega)
    rw [Nat.add_zero] at inside first
    have rest : ∀ i, i < n → (r.sentOne none).snap.geo.inAperture
        ((r.sentOne none).snap.geo.logical ((r.sentOne none).addr + (r.sentOne none).sent + i)) = true ∧
        (r.sentOne none).snap.geo.logical ((r.sentOne none).addr + (r.sentOne none).sent + i) -
          (r.sentOne none).snap.geo.apBase = off + 1 + i := fun i hi => by
      have next := h (i + 1) (by omega)
      rw [show r.addr + r.sent + (i + 1) = r.addr + (r.sent + 1) + i by omega,
        show off + (i + 1) = off + 1 + i by omega] at next
      exact next
    have unread : (if s.aperture.resp.state = .done ∧ off + 1 ≤ 2048 ∧ 2048 < off + 1 + n then false else
        if s.aperture.resp.state = .done ∧ off = 2048 then false else s.aperture.resp.unread) =
          s.unreadAfter off (n + 1) := by
      unfold State.unreadAfter
      by_cases here : off = 2048
      · subst here
        simp
      · have same : (off + 1 ≤ 2048 ∧ 2048 < off + 1 + n) ↔ (off ≤ 2048 ∧ 2048 < off + (n + 1)) := by omega
        simp only [same, here, and_false, if_false]
    rw [readBytes, s.readByte_aperture r flash outside inside, first, State.sendFill,
      ih _ (r.sentOne none) flash (off + 1) outside rest, OpenRead.past_succ, State.readHeader_eq, ← unread,
      List.range_succ_eq_map, List.map_cons, List.map_map]
    have shift : ((fun i => s.apertureByte (off + i)) ∘ Nat.succ) = fun i => s.apertureByte (off + 1 + i) := by
      funext i
      rw [Function.comp_apply, Nat.succ_eq_add_one, Nat.add_assoc, Nat.add_comm 1 i]
    rw [shift]
    refine congrArg (fun t => (t, r.past (n + 1))) ?_
    exact State.toSoc_toSoc (s.withUnread _) [s.apertureByte off] _

/-! ### The rows -/

/-- A byte of a READ leaves the engine and what waits for it alone. -/
theorem State.readByte_work (s : State) (r : OpenRead) (flash : List Byte) :
    (s.readByte r flash).1.engine = s.engine ∧ (s.readByte r flash).1.aperture.held = s.aperture.held := by
  have port : s.takePort.engine = s.engine ∧ s.takePort.aperture = s.aperture := by
    unfold State.takePort
    split <;> exact ⟨rfl, rfl⟩
  have taken : ∀ ops, (s.takePort.toFlash ops).engine = s.engine ∧
      (s.takePort.toFlash ops).aperture = s.aperture := fun _ => port
  simp only [State.readByte]
  split
  · exact ⟨rfl, rfl⟩
  · split
    · rw [State.readHeader_eq]
      exact ⟨rfl, rfl⟩
    · split
      · exact ⟨rfl, rfl⟩
      · split
        · exact ⟨rfl, rfl⟩
        · next phys _ =>
          have port' : ∀ t, t = (if r.nextPhys = some phys then s.takePort
              else s.takePort.toFlash [.readFrom phys]) → t.engine = s.engine ∧ t.aperture = s.aperture := by
            rintro t rfl
            split
            · exact port
            · exact taken _
          obtain ⟨engine, aperture⟩ := port' _ rfl
          split
          · exact ⟨engine, congrArg Aperture.held aperture⟩
          · split <;> exact ⟨engine, congrArg Aperture.held aperture⟩

/-- The bytes of a READ leave no more work waiting (R68). -/
theorem readBytes_quiet (n : Nat) : ∀ (s : State) (r : OpenRead) (flash : List Byte), s.Quiet →
    (readBytes n s r flash).1.Quiet := by
  induction n with
  | zero => exact fun _ _ _ h => h
  | succ n ih =>
    intro s r flash h
    obtain ⟨engine, held⟩ := s.readByte_work r flash
    refine ih _ _ _ fun idle => ?_
    rw [engine] at idle ⊢
    rw [held]
    exact h idle

/-- A READ that arrives, by its bytes (R39). -/
theorem exec_read_start {s u : State} {addr : Address} {count : Nat} {flash : List Byte} {r : OpenRead}
    (hp : s.powered = true) (quiet : s.Quiet)
    (h : readBytes count s.clearOut.released
      ⟨addressValue addr, 0, s.snapFor .read (addressValue addr), false, none, false⟩ flash = (u, r)) :
    exec (.read (.start addr) count flash) s = .next (u.setReads (s.up.reads ++ [r])) := by
  change execRead (.start addr) count flash s = _
  have left : u.Quiet := by
    have kept := readBytes_quiet count s.clearOut.released
      ⟨addressValue addr, 0, s.snapFor .read (addressValue addr), false, none, false⟩ flash quiet
    rwa [h] at kept
  refine State.perform_event hp ?_ left
  exact congrArg (fun d : State × OpenRead => d.1.setReads (s.up.reads ++ [d.2])) h

/-- A READ that goes on, by its bytes (R39). -/
theorem exec_read_more {s u : State} {old : List OpenRead} {r r' : OpenRead} {count : Nat} {flash : List Byte}
    (hp : s.powered = true) (quiet : s.Quiet) (hreads : s.up.reads = old ++ [r])
    (h : readBytes count s.clearOut r flash = (u, r')) :
    exec (.read .more count flash) s = .next (u.setReads (old ++ [r'])) := by
  change execRead .more count flash s = _
  have left : u.Quiet := by
    have kept := readBytes_quiet count s.clearOut r flash quiet
    rwa [h] at kept
  refine State.perform_event hp ?_ left
  have latest : s.clearOut.read .more count flash = s.clearOut.clockRead old r count flash := by
    unfold State.read
    rw [State.clearOut_up, hreads, List.getLast?_concat, List.dropLast_concat]
  rw [latest]
  exact congrArg (fun d : State × OpenRead => d.1.setReads (old ++ [d.2])) h

/-! ### The response header -/

/-- The two bytes of a two-byte field (R185). -/
theorem u16_eq (n : Nat) : u16 n = [BitVec.ofNat 8 n, BitVec.ofNat 8 (n / 256)] := by
  simp [u16, leBytes, List.range_succ]

/-- The header of a response (R64, Table 12-4). -/
theorem State.responseHeader_eq (s : State) :
    let r := s.aperture.resp
    let previous : Byte := if r.previousUnread = true then 1 else 0
    let deferred : Byte := if r.floorDeferred = true then 2 else 0
    let refused : Byte := BitVec.ofNat 8 r.refused
    let n := r.payload.length
    let job : Byte := match s.engine.state with
      | .idle => 0
      | .command _ => 0
      | .job (.wipe _) => 0xf0
      | .job .wipeCounters => 0xf0
      | .job (.floorBurn _) => 0xf1
    s.responseHeader = match r.state with
      | .empty => [0, 0, 0, 0, 0, 0, 0, 0, 0, 0, 0, 0, 0, 0, 0, 0]
      | .queued => [1, r.code, r.tag, 0, 0, previous, refused, job, 0, 0, 0, 0, 0, 0, 0, 0]
      | .running => [2, r.code, r.tag, 0, 0, previous, refused, 0, 0, 0, 0, 0, 0, 0, 0, 0]
      | .done => [3, r.code, r.tag, r.result.toByte, r.detail, previous ||| deferred, refused, 0,
          BitVec.ofNat 8 n, BitVec.ofNat 8 (n / 256), 0, 0, 0, 0, 0, 0] := by
  intro r previous deferred refused n job
  have jobIs : r.state = .queued → s.jobField = job := by
    intro queued
    rw [State.jobField, if_pos queued]
    cases he : s.engine.state with
    | idle => simp only [job, he]; rfl
    | command w => simp only [job, he]; rfl
    | job w => cases w <;> simp only [job, he] <;> rfl
  dsimp only [State.responseHeader]
  cases state : s.aperture.resp.state with
  | empty => rfl
  | queued => rw [jobIs state]; rfl
  | running => rfl
  | done => rw [u16_eq]; rfl

/-- Settles O34: the header by the response's state, the bytes by their run. -/
theorem readsThatNeedNoFlash : Obligations.ReadsThatNeedNoFlash := by
  refine ⟨fun s => ?header, ?aperture, ?fills, ?more⟩
  case header =>
    intro r previous deferred refused n job result
    have code : r.result.toByte = result := by
      simp only [result]
      cases r.result <;> rfl
    rw [← code]
    exact s.responseHeader_eq
  case aperture =>
    intro s addr count hp quiet a p off outside low inside room image
    have bytes : ∀ i, i < count → p.geo.inAperture (p.geo.logical (a + 0 + i)) = true ∧
        p.geo.logical (a + 0 + i) - p.geo.apBase = off + i := by
      intro i hi
      have logical : p.geo.logical (a + 0 + i) = a % p.geo.flashSize + i := by
        rw [Nat.add_zero, Geometry.logical, ← Nat.mod_add_mod, Nat.mod_eq_of_lt (by omega)]
      rw [logical]
      refine ⟨?_, by omega⟩
      simp only [Geometry.inAperture, Bool.and_eq_true, decide_eq_true_eq]
      exact ⟨by omega, show _ < _ + 65536 by omega⟩
    rw [exec_read_start hp quiet (readBytes_aperture count _ _ [] off outside bytes), OpenRead.past_fresh]
    rfl
  case fills =>
    intro s addr flash count hp quiet a p l needless
    have needless' : ∀ i, i < count → OpenRead.fills ⟨a, 0, p, false, none, false⟩ i := needless
    rw [exec_read_start hp quiet (readBytes_fill count _ _ flash needless'), OpenRead.past_fresh]
    rfl
  case more =>
    intro s flash count hp quiet
    refine ⟨fun none_open => ?_, ?_⟩
    · change execRead .more count flash s = _
      refine State.perform_event hp ?_ quiet
      unfold State.read
      rw [State.clearOut_up, none_open]
      rfl
    · intro old r hreads p l needless
      rw [exec_read_more hp quiet hreads (readBytes_fill count _ r flash needless)]
      rfl

end Sys2Proof.Machine

/-! READs of the flash (R30, R39, R42, R48): what one byte does, and a READ's bytes together. -/

namespace Sys2Proof.Machine

/-! ### One byte of the flash -/

/-- The port in a READ's hands (R30, R32). -/
def Downstream.taken (d : Downstream) : Downstream :=
  { d with
    port := if d.port = .flashBusy then .flashBusy else .carryingSoc
    chunk := if d.port = .carryingChunk then d.chunk.preempted else d.chunk }

/-- A READ leaves a port that carries one, or is busy, as it is (R30). -/
theorem Downstream.taken_same {d : Downstream} (h : d.port = .carryingSoc ∨ d.port = .flashBusy) :
    d.taken = d := by
  rcases d with ⟨port, chunk, id0, id1, id2⟩
  rcases h with rfl | rfl <;> rfl

/-- A READ takes the port (R30, R32). -/
theorem State.takePort_eq (s : State) : s.takePort = { s with down := s.down.taken } := by
  unfold State.takePort
  cases port : s.down.port with
  | idle => simp [State.setPort, Downstream.taken, port]
  | carryingChunk => simp [Downstream.taken, port]
  | carryingSoc => rw [Downstream.taken_same (.inl port)]
  | flashBusy => rw [Downstream.taken_same (.inr port)]

/-- A byte clocked out behind a downstream read, if one begins (R30). -/
def State.sendsFlash (s : State) (b : Byte) (ops : List DownOp) : State :=
  { s with out := ⟨s.out.toSoc ++ [b], s.out.toFlash ++ ops⟩, down := s.down.taken }

/-- A violation handed, if there is one. -/
def State.handed (s : State) : Option Violation → State
  | none => s
  | some v => s.violate v

/-- The violation that a byte hands: that of its denial, unless the READ has handed one (R48). -/
def OpenRead.hands (r : OpenRead) (masked : Option (Fill × Decider)) : Option Violation :=
  if r.violated then none
  else masked.map fun d => ⟨r.snap.geo.logical (r.addr + r.sent), .read, r.snap.stage, d.2⟩

/-- The byte clocked out: the flash's, or the fill of what denies it (R48). -/
def maskedByte (masked : Option (Fill × Decider)) (b : Byte) : Byte :=
  match masked with
  | none => b
  | some d => d.1.toByte

/-- A byte of the flash, allowed or masked (R30, R39, R42, R48). -/
theorem State.readByte_flash {s : State} {r : OpenRead} {phys : Nat} (flash : List Byte)
    (outside : r.snap.stage ≠ .s0)
    (away : r.snap.geo.inAperture (r.snap.geo.logical (r.addr + r.sent)) = false)
    (free : r.snap.busy = false)
    (mapped : translate r.snap.mode r.snap.geo (r.snap.geo.logical (r.addr + r.sent)) = some phys) :
    s.readByte r flash =
      ((s.sendsFlash (maskedByte (r.snap.judge .read phys) (flashByte r.sent flash))
          (if r.nextPhys = some phys then [] else [.readFrom phys])).handed (r.hands (r.snap.judge .read phys)),
        { r with
          sent := r.sent + 1, holds := true, nextPhys := some (phys + 1)
          violated := r.violated || (r.snap.judge .read phys).isSome }, flash.tail) := by
  simp only [State.readByte]
  rw [if_neg outside, away, free, mapped]
  simp only [Bool.false_eq_true, if_false, State.takePort_eq]
  have taken : ∀ (b : Byte) (v : Option Violation),
      ((if r.nextPhys = some phys then ({ s with down := s.down.taken } : State)
        else ({ s with down := s.down.taken } : State).toFlash [.readFrom phys]).handed v).toSoc [b] =
      (s.sendsFlash b (if r.nextPhys = some phys then [] else [.readFrom phys])).handed v := by
    intro b v
    by_cases goesOn : r.nextPhys = some phys
    · rw [if_pos goesOn, if_pos goesOn, State.sendsFlash, List.append_nil]
      cases v <;> rfl
    · rw [if_neg goesOn, if_neg goesOn]
      cases v <;> rfl
  cases masked : r.snap.judge .read phys with
  | none =>
    refine Prod.ext ?_ (Prod.ext ?_ rfl)
    · have none_handed : r.hands none = none := by
        unfold OpenRead.hands
        split <;> rfl
      rw [none_handed]
      exact taken _ none
    · simp [OpenRead.sentOne]
  | some d =>
    obtain ⟨fill, decider⟩ := d
    refine Prod.ext ?_ (Prod.ext ?_ rfl)
    · cases handed : r.violated with
      | true =>
        have none_handed : r.hands (some (fill, decider)) = none := if_pos handed
        rw [none_handed]
        exact taken _ none
      | false =>
        have one_handed : r.hands (some (fill, decider)) =
            some ⟨r.snap.geo.logical (r.addr + r.sent), .read, r.snap.stage, decider⟩ :=
          if_neg (by rw [handed]; exact Bool.false_ne_true)
        rw [one_handed]
        exact taken _ (some _)
    · simp [OpenRead.sentOne]

/-- What a byte of a READ is: one that needs no flash, one of the aperture, or one of the flash. -/
theorem OpenRead.byte_cases (r : OpenRead) :
    r.fills 0 ∨ (r.snap.stage ≠ .s0 ∧ r.snap.geo.inAperture (r.snap.geo.logical (r.addr + r.sent)) = true) ∨
      ∃ phys, r.snap.stage ≠ .s0 ∧ r.snap.geo.inAperture (r.snap.geo.logical (r.addr + r.sent)) = false ∧
        r.snap.busy = false ∧
        translate r.snap.mode r.snap.geo (r.snap.geo.logical (r.addr + r.sent)) = some phys := by
  by_cases inS0 : r.snap.stage = .s0
  · exact .inl (.inl inS0)
  · cases away : r.snap.geo.inAperture (r.snap.geo.logical (r.addr + r.sent)) with
    | true => exact .inr (.inl ⟨inS0, rfl⟩)
    | false =>
      cases free : r.snap.busy with
      | true => exact .inl (.inr ⟨away, .inl free⟩)
      | false =>
        cases mapped : translate r.snap.mode r.snap.geo (r.snap.geo.logical (r.addr + r.sent)) with
        | none => exact .inl (.inr ⟨away, .inr mapped⟩)
        | some phys => exact .inr (.inr ⟨phys, inS0, rfl, rfl, rfl⟩)

/-! ### A READ in parts -/

/-- A state whose buses carry something earlier (R39). -/
def State.behind (s : State) (o : Outputs) : State :=
  { s with out := ⟨o.toSoc ++ s.out.toSoc, o.toFlash ++ s.out.toFlash⟩ }

/-- A byte does not look at the buses. -/
theorem State.readByte_behind (s : State) (o : Outputs) (r : OpenRead) (flash : List Byte) :
    (s.behind o).readByte r flash = ((s.readByte r flash).1.behind o, (s.readByte r flash).2) := by
  have filled : ∀ (t : State) b, (t.behind o).sendFill r flash b =
      ((t.sendFill r flash b).1.behind o, (t.sendFill r flash b).2) := by
    intro t b
    simp only [State.sendFill, State.toSoc, State.behind, List.append_assoc]
  rcases r.byte_cases with fills | ⟨outside, inside⟩ | ⟨phys, outside, away, free, mapped⟩
  · rw [State.readByte_fill _ r flash fills, State.readByte_fill _ r flash fills, filled]
  · rw [State.readByte_aperture _ r flash outside inside, State.readByte_aperture _ r flash outside inside,
      State.readHeader_eq, State.readHeader_eq, ← filled]
    rfl
  · rw [State.readByte_flash flash outside away free mapped, State.readByte_flash flash outside away free mapped]
    refine Prod.ext ?_ rfl
    generalize r.hands _ = v
    cases v <;> simp only [State.handed, State.violate, State.sendsFlash, State.behind, List.append_assoc]

/-- Nor do the bytes of a READ. -/
theorem readBytes_behind (n : Nat) : ∀ (s : State) (o : Outputs) (r : OpenRead) (flash : List Byte),
    readBytes n (s.behind o) r flash = ((readBytes n s r flash).1.behind o, (readBytes n s r flash).2) := by
  induction n with
  | zero => exact fun _ _ _ _ => rfl
  | succ n ih =>
    intro s o r flash
    rw [readBytes, State.readByte_behind]
    exact ih _ _ _ _

/-- A byte does not look at the READs in progress. -/
theorem State.readByte_setReads (s : State) (l : List OpenRead) (r : OpenRead) (flash : List Byte) :
    (s.setReads l).readByte r flash = ((s.readByte r flash).1.setReads l, (s.readByte r flash).2) := by
  rcases r.byte_cases with fills | ⟨outside, inside⟩ | ⟨phys, outside, away, free, mapped⟩
  · rw [State.readByte_fill _ r flash fills, State.readByte_fill _ r flash fills]
    rfl
  · rw [State.readByte_aperture _ r flash outside inside, State.readByte_aperture _ r flash outside inside,
      State.readHeader_eq, State.readHeader_eq]
    rfl
  · rw [State.readByte_flash flash outside away free mapped, State.readByte_flash flash outside away free mapped]
    refine Prod.ext ?_ rfl
    generalize r.hands _ = v
    cases v <;> rfl

/-- Nor do the bytes of a READ. -/
theorem readBytes_setReads (n : Nat) : ∀ (s : State) (l : List OpenRead) (r : OpenRead) (flash : List Byte),
    readBytes n (s.setReads l) r flash = ((readBytes n s r flash).1.setReads l, (readBytes n s r flash).2) := by
  induction n with
  | zero => exact fun _ _ _ _ => rfl
  | succ n ih =>
    intro s l r flash
    rw [readBytes, State.readByte_setReads]
    exact ih _ _ _ _

/-- A byte leaves the supply alone. -/
theorem State.readByte_powered (s : State) (r : OpenRead) (flash : List Byte) :
    (s.readByte r flash).1.powered = s.powered := by
  rcases r.byte_cases with fills | ⟨outside, inside⟩ | ⟨phys, outside, away, free, mapped⟩
  · rw [State.readByte_fill _ r flash fills]
    rfl
  · rw [State.readByte_aperture _ r flash outside inside, State.readHeader_eq]
    rfl
  · rw [State.readByte_flash flash outside away free mapped]
    generalize r.hands _ = v
    cases v <;> rfl

/-- The flash bytes that a byte leaves: one fewer where it is the flash's, and its downstream read then stands at
the next one (R30). -/
theorem State.readByte_left (s : State) (r : OpenRead) (flash : List Byte) :
    (s.readByte r flash).2.2 = if (s.readByte r flash).2.1.nextPhys.isSome then flash.tail else flash := by
  rcases r.byte_cases with fills | ⟨outside, inside⟩ | ⟨phys, outside, away, free, mapped⟩
  · rw [State.readByte_fill _ r flash fills]
    rfl
  · rw [State.readByte_aperture _ r flash outside inside]
    rfl
  · rw [State.readByte_flash flash outside away free mapped]
    rfl

/-- A READ's next byte, then `n` more, are `n + 1` in one part (R39). -/
theorem exec_read_parts {s t u : State} {old : List OpenRead} {r : OpenRead} {n : Nat} {flash : List Byte}
    (hp : s.powered = true) (quiet : s.Quiet) (hreads : s.up.reads = old ++ [r])
    (ht : exec (.read .more 1 flash) s = .next t)
    (hu : exec (.read .more n
      (if (t.up.reads.getLast?.bind OpenRead.nextPhys).isSome = true then flash.tail else flash)) t = .next u) :
    exec (.read .more (n + 1) flash) s = .next
      { u with out := ⟨t.out.toSoc ++ u.out.toSoc, t.out.toFlash ++ u.out.toFlash⟩ } := by
  obtain ⟨v, r', rest, byte⟩ : ∃ v r' rest, s.clearOut.readByte r flash = (v, r', rest) := ⟨_, _, _, rfl⟩
  have one : readBytes 1 s.clearOut r flash = (v, r') := by rw [readBytes, byte]; rfl
  have quiet_v : v.Quiet := by
    have kept := readBytes_quiet 1 s.clearOut r flash quiet
    rwa [one] at kept
  rw [exec_read_more hp quiet hreads one] at ht
  cases ht
  have left : rest = if r'.nextPhys.isSome then flash.tail else flash := by
    have kept := s.clearOut.readByte_left r flash
    rwa [byte] at kept
  have latest : ((v.setReads (old ++ [r'])).up.reads.getLast?.bind OpenRead.nextPhys) = r'.nextPhys := by
    rw [show (v.setReads (old ++ [r'])).up.reads = old ++ [r'] from rfl, List.getLast?_concat]
    rfl
  rw [latest, ← left] at hu
  have powered : v.powered = true := by
    have kept := s.clearOut.readByte_powered r flash
    rw [byte] at kept
    exact kept.trans hp
  obtain ⟨w, r'', more⟩ : ∃ w r'', readBytes n v.clearOut r' rest = (w, r'') := ⟨_, _, rfl⟩
  have again : readBytes n (v.setReads (old ++ [r'])).clearOut r' rest = (w.setReads (old ++ [r']), r'') := by
    have kept := readBytes_setReads n v.clearOut (old ++ [r']) r' rest
    rwa [more] at kept
  have whole : readBytes (n + 1) s.clearOut r flash = (w.behind v.out, r'') := by
    have kept := readBytes_behind n v.clearOut v.out r' rest
    have same : v.clearOut.behind v.out = v := by
      simp only [State.behind, State.clearOut, List.append_nil]
    rw [more, same] at kept
    rw [readBytes, byte]
    exact kept
  rw [exec_read_more (s := v.setReads (old ++ [r'])) powered quiet_v rfl again] at hu
  cases hu
  rw [exec_read_more hp quiet hreads whole]
  rfl

/-! ### What a READ hands -/

/-- What denies the byte at `i`: nothing in S0, in the aperture or while busy (R19, R23, R48, R59). -/
def OpenRead.deniedAt (r : OpenRead) (i : Nat) : Option (Fill × Decider) :=
  if r.snap.stage = .s0 ∨ r.snap.geo.inAperture ((r.addr + r.sent + i) % r.snap.geo.flashSize) = true ∨
      r.snap.busy = true then none
  else (translate r.snap.mode r.snap.geo ((r.addr + r.sent + i) % r.snap.geo.flashSize)).bind
    (r.snap.judge .read)

/-- One byte: the READ goes on at the next address, one byte is clocked out, and a violation is handed only where
the byte is denied and the READ has handed none (R39, R48). -/
theorem State.readByte_hands (s : State) (r : OpenRead) (flash : List Byte) :
    let t := (s.readByte r flash).1
    let r' := (s.readByte r flash).2.1
    r'.addr = r.addr ∧ r'.snap = r.snap ∧ r'.sent = r.sent + 1 ∧
      t.out.toSoc.length = s.out.toSoc.length + 1 ∧
      r'.violated = (r.violated || (r.deniedAt 0).isSome) ∧
      t.events = (s.handed (r.hands (r.deniedAt 0))).events := by
  have unhanded : s.events = (s.handed (r.hands none)).events := by
    unfold OpenRead.hands
    split <;> rfl
  have bytes : ∀ b : Byte, (s.out.toSoc ++ [b]).length = s.out.toSoc.length + 1 := fun b => by simp
  rcases r.byte_cases with fills | ⟨outside, inside⟩ | ⟨phys, outside, away, free, mapped⟩
  · have allowed : r.deniedAt 0 = none := by
      unfold OpenRead.deniedAt
      rcases fills with inS0 | ⟨away, busy | unmapped⟩
      · exact if_pos (.inl inS0)
      · exact if_pos (.inr (.inr busy))
      · rw [unmapped]
        exact ite_self _
    rw [State.readByte_fill _ r flash fills, allowed]
    exact ⟨rfl, rfl, rfl, bytes _, (Bool.or_false _).symm, unhanded⟩
  · have allowed : r.deniedAt 0 = none := if_pos (.inr (.inl inside))
    rw [State.readByte_aperture _ r flash outside inside, State.readHeader_eq, allowed]
    exact ⟨rfl, rfl, rfl, bytes _, (Bool.or_false _).symm, unhanded⟩
  · have judged : r.deniedAt 0 = r.snap.judge .read phys := by
      refine (if_neg ?_).trans (congrArg (fun o => Option.bind o (r.snap.judge .read)) mapped)
      rintro (h | h | h)
      · exact outside h
      · exact Bool.false_ne_true (away.symm.trans h)
      · exact Bool.false_ne_true (free.symm.trans h)
    rw [State.readByte_flash flash outside away free mapped, judged]
    generalize r.hands _ = v
    refine ⟨rfl, rfl, rfl, ?_, rfl, ?_⟩
    · cases v <;> exact bytes _
    · cases v <;> rfl

/-- What a violation leaves of the Event Unit is the Event Unit's own doing (R181). -/
theorem State.violate_events_congr {s t : State} (h : s.events = t.events) (v : Violation) :
    (s.violate v).events = (t.violate v).events := by
  simp only [State.violate, h]

/-- The bytes of a READ go on at the addresses behind it, and hand the violation of the first denied one, where the
READ has handed none (R39, R48). -/
theorem readBytes_hands (n : Nat) : ∀ (s : State) (r : OpenRead) (flash : List Byte),
    let t := (readBytes n s r flash).1
    let r' := (readBytes n s r flash).2
    (r'.addr = r.addr ∧ r'.snap = r.snap ∧ r'.sent = r.sent + n ∧
      t.out.toSoc.length = s.out.toSoc.length + n) ∧
      (r.violated = true → t.events = s.events ∧ r'.violated = true) ∧
      (r.violated = false → (∀ i, i < n → r.deniedAt i = none) → t.events = s.events ∧ r'.violated = false) ∧
      ∀ i fill d, r.violated = false → i < n → r.deniedAt i = some (fill, d) →
        (∀ j, j < i → r.deniedAt j = none) →
        t.events = (s.violate ⟨(r.addr + r.sent + i) % r.snap.geo.flashSize, .read, r.snap.stage, d⟩).events ∧
          r'.violated = true := by
  induction n with
  | zero =>
    exact fun s r flash => ⟨⟨rfl, rfl, rfl, rfl⟩, fun h => ⟨rfl, h⟩, fun h _ => ⟨rfl, h⟩,
      fun i _ _ _ hi => absurd hi (Nat.not_lt_zero i)⟩
  | succ n ih =>
    intro s r flash
    obtain ⟨addr, snap, sent, length, violated, events⟩ := s.readByte_hands r flash
    obtain ⟨⟨addr', snap', sent', length'⟩, ihHanded, ihAllowed, ihDenied⟩ :=
      ih (s.readByte r flash).1 (s.readByte r flash).2.1 (s.readByte r flash).2.2
    have shifted : ∀ i, (s.readByte r flash).2.1.deniedAt i = r.deniedAt (i + 1) := fun i => by
      unfold OpenRead.deniedAt
      rw [addr, snap, sent, show r.addr + (r.sent + 1) + i = r.addr + r.sent + (i + 1) by omega]
    have quietly : r.hands (r.deniedAt 0) = none → (s.readByte r flash).1.events = s.events := fun h => by
      rw [events, h]
      rfl
    refine ⟨⟨addr'.trans addr, snap'.trans snap, ?_, ?_⟩, fun handed => ?_, fun unhanded allowed => ?_,
      fun i fill d unhanded hi denied before => ?_⟩
    · exact sent'.trans (by rw [sent]; omega)
    · exact length'.trans (by rw [length]; omega)
    · have still : (s.readByte r flash).2.1.violated = true := by rw [violated, handed, Bool.true_or]
      obtain ⟨ev, vi⟩ := ihHanded still
      exact ⟨ev.trans (quietly (if_pos handed)), vi⟩
    · have first := allowed 0 (by omega)
      have still : (s.readByte r flash).2.1.violated = false := by rw [violated, unhanded, first]; rfl
      obtain ⟨ev, vi⟩ := ihAllowed still fun i hi => (shifted i).trans (allowed (i + 1) (by omega))
      refine ⟨ev.trans (quietly ?_), vi⟩
      rw [first]
      exact ite_self _
    · cases i with
      | zero =>
        have handed : (s.readByte r flash).2.1.violated = true := by rw [violated, denied, Option.isSome_some,
          Bool.or_true]
        obtain ⟨ev, vi⟩ := ihHanded handed
        refine ⟨ev.trans (events.trans ?_), vi⟩
        rw [denied, OpenRead.hands, unhanded]
        rfl
      | succ i =>
        have first := before 0 (by omega)
        have still : (s.readByte r flash).2.1.violated = false := by rw [violated, unhanded, first]; rfl
        obtain ⟨ev, vi⟩ := ihDenied i fill d still (by omega) ((shifted i).trans denied)
          fun j hj => (shifted j).trans (before (j + 1) (by omega))
        refine ⟨ev.trans ?_, vi⟩
        rw [addr, snap, sent, show r.addr + (r.sent + 1) + i = r.addr + r.sent + (i + 1) by omega]
        refine State.violate_events_congr (quietly ?_) _
        rw [first]
        exact ite_self _

/-! ### A READ of the flash from its start -/

section
variable (s : State) (a : Nat) (p : Snapshot) (flash : List Byte)

/-- The logical address of the byte at `i` (R18). -/
def readAt (i : Nat) : Nat := (a + i) % p.geo.flashSize

/-- What denies the byte at `i` (R42, R48). -/
def readJudged (i : Nat) : Option (Fill × Decider) :=
  (translate p.mode p.geo (readAt a p i)).bind (p.judge .read)

/-- The byte clocked out at `i` (R48). -/
def readSends (i : Nat) : Byte :=
  match readJudged a p i with
  | none => byteAt flash i
  | some (fill, _) => fill.toByte

/-- The violation of the first denied byte of `n` (R39, R48). -/
def readFirst (n : Nat) : Option Violation :=
  ((List.range n).filterMap fun i =>
    (readJudged a p i).map fun d => (⟨readAt a p i, .read, p.stage, d.2⟩ : Violation)).head?

/-- Where the byte at `i` lies in the flash (R36). -/
def readPhys (i : Nat) : Nat := (translate p.mode p.geo (readAt a p i)).getD 0

/-- The downstream reads of `n` bytes: one wherever the physical address does not follow on (R30). -/
def readOps (n : Nat) : List DownOp :=
  (List.range n).filterMap fun i =>
    if i ≠ 0 ∧ readPhys a p i = readPhys a p (i - 1) + 1 then none else some (.readFrom (readPhys a p i))

/-- The READ after `n` bytes of the flash. -/
def readOpen (n : Nat) : OpenRead :=
  ⟨a, n, p, decide (n ≠ 0), if n = 0 then none else some (readPhys a p (n - 1) + 1), (readFirst a p n).isSome⟩

/-- The part after `n` bytes of the flash (R30, R48). -/
def readLeaves (n : Nat) : State :=
  State.handed { s with
    out := ⟨s.out.toSoc ++ (List.range n).map (readSends a p flash), s.out.toFlash ++ readOps a p n⟩
    down := if n = 0 then s.down else s.down.taken } (readFirst a p n)

end

/-- The first denied byte of one more (R48). -/
theorem readFirst_succ (a : Nat) (p : Snapshot) (n : Nat) : readFirst a p (n + 1) =
    (readFirst a p n).or ((readJudged a p n).map fun d => ⟨readAt a p n, .read, p.stage, d.2⟩) := by
  unfold readFirst
  rw [List.range_succ, List.filterMap_append, List.head?_append]
  congr 1
  cases judged : readJudged a p n <;> simp [judged]

/-- The downstream reads of one byte more (R30). -/
theorem readOps_succ (a : Nat) (p : Snapshot) (n : Nat) : readOps a p (n + 1) = readOps a p n ++
    if (readOpen a p n).nextPhys = some (readPhys a p n) then [] else [.readFrom (readPhys a p n)] := by
  unfold readOps readOpen
  rw [List.range_succ, List.filterMap_append]
  congr 1
  cases n with
  | zero => rfl
  | succ n =>
    by_cases follows : readPhys a p (n + 1) = readPhys a p n + 1
    · simp [follows]
    · simp [follows, Ne.symm follows]

/-- The byte at the head of what is left of the flash's bytes (R30). -/
theorem flashByte_drop {flash : List Byte} {n : Nat} (h : n < flash.length) :
    flashByte n (flash.drop n) = byteAt flash n := by
  rw [List.drop_eq_getElem_cons h]
  exact (List.getD_eq_getElem flash 0 h).symm

/-- The port stays with the READ (R30). -/
theorem readDown_taken {d : Downstream} (idle : d.port ≠ .flashBusy) (n : Nat) :
    (if n = 0 then d else d.taken).taken = d.taken := by
  split
  · rfl
  · exact Downstream.taken_same (.inl (if_neg idle))

/-- A byte clocked out behind what a READ has clocked out and handed. -/
theorem readLeaves_sends {s : State} {a : Nat} {p : Snapshot} {flash : List Byte} {n : Nat}
    (idle : s.down.port ≠ .flashBusy) :
    ((readLeaves s a p flash n).sendsFlash (readSends a p flash n)
      (if (readOpen a p n).nextPhys = some (readPhys a p n) then [] else [.readFrom (readPhys a p n)])).handed
        ((readOpen a p n).hands (readJudged a p n)) = readLeaves s a p flash (n + 1) := by
  have down := readDown_taken idle n
  unfold readLeaves
  rw [readFirst_succ, readOps_succ, List.range_succ, List.map_append, ← List.append_assoc, ← List.append_assoc,
    if_neg (Nat.succ_ne_zero n)]
  generalize (if (readOpen a p n).nextPhys = some (readPhys a p n) then [] else
    [DownOp.readFrom (readPhys a p n)]) = ops
  generalize (if n = 0 then s.down else s.down.taken) = d at down ⊢
  cases handed : readFirst a p n with
  | none =>
    have hands : (readOpen a p n).hands (readJudged a p n) =
        (readJudged a p n).map fun d => ⟨readAt a p n, .read, p.stage, d.2⟩ :=
      if_neg (by simp [readOpen, handed])
    rw [hands, Option.none_or, ← down]
    rfl
  | some v =>
    have hands : (readOpen a p n).hands (readJudged a p n) = none := if_pos (by simp [readOpen, handed])
    rw [hands, Option.some_or, ← down]
    rfl

/-- One byte more of a READ of the flash (R30, R39, R48). -/
theorem readByte_goesOn {s : State} {a : Nat} {p : Snapshot} {flash : List Byte} {n : Nat}
    (outside : p.stage ≠ .s0) (free : p.busy = false) (idle : s.down.port ≠ .flashBusy) (room : n < flash.length)
    (away : p.geo.inAperture (readAt a p n) = false) (mapped : translate p.mode p.geo (readAt a p n) ≠ none) :
    (readLeaves s a p flash n).readByte (readOpen a p n) (flash.drop n) =
      (readLeaves s a p flash (n + 1), readOpen a p (n + 1), flash.drop (n + 1)) := by
  obtain ⟨phys, lies⟩ := Option.ne_none_iff_exists'.1 mapped
  have physIs : readPhys a p n = phys := by rw [readPhys, lies]; rfl
  have judged : readJudged a p n = p.judge .read phys := by rw [readJudged, lies]; rfl
  rw [State.readByte_flash (r := readOpen a p n) (flash.drop n) outside away free lies]
  have byte : maskedByte (p.judge .read phys) (flashByte n (flash.drop n)) = readSends a p flash n := by
    rw [flashByte_drop room, readSends, judged]
    cases p.judge .read phys <;> rfl
  refine Prod.ext ?_ (Prod.ext ?_ ?_)
  · have sent := readLeaves_sends (s := s) (a := a) (p := p) (flash := flash) (n := n) idle
    rw [physIs, ← byte, judged] at sent
    exact sent
  · have violated : (readFirst a p (n + 1)).isSome = ((readFirst a p n).isSome || (p.judge .read phys).isSome) := by
      rw [readFirst_succ, judged, Option.isSome_or, Option.isSome_map]
    unfold readOpen
    rw [violated, if_neg (Nat.succ_ne_zero n), Nat.add_sub_cancel, physIs]
    rfl
  · exact List.tail_drop

/-- A READ of the flash, any number of bytes behind its first ones (R39). -/
theorem readBytes_flash {s : State} {a : Nat} {p : Snapshot} {flash : List Byte}
    (outside : p.stage ≠ .s0) (free : p.busy = false) (idle : s.down.port ≠ .flashBusy)
    (bytes : ∀ i, i < flash.length → p.geo.inAperture (readAt a p i) = false ∧
      translate p.mode p.geo (readAt a p i) ≠ none) (m : Nat) : ∀ n, n + m ≤ flash.length →
    readBytes m (readLeaves s a p flash n) (readOpen a p n) (flash.drop n) =
      (readLeaves s a p flash (n + m), readOpen a p (n + m)) := by
  induction m with
  | zero => exact fun _ _ => rfl
  | succ m ih =>
    intro n room
    obtain ⟨away, mapped⟩ := bytes n (by omega)
    rw [readBytes, readByte_goesOn outside free idle (by omega) away mapped, ih (n + 1) (by omega),
      show n + 1 + m = n + (m + 1) by omega]

/-- A READ that has just arrived is the latest in progress, and goes on (R39). -/
theorem exec_read_start_more {s : State} (hp : s.powered = true) (quiet : s.Quiet) (addr : Address)
    (flash : List Byte) (count : Nat) :
    exec (.read (.start addr) count flash) s = exec (.read .more count flash) { s with up := { s.up with
      arrived := none
      reads := s.up.reads ++
        [⟨addressValue addr, 0, s.snapFor .read (addressValue addr), false, none, false⟩] } } := by
  obtain ⟨u, r, run⟩ : ∃ u r, readBytes count s.clearOut.released
      ⟨addressValue addr, 0, s.snapFor .read (addressValue addr), false, none, false⟩ flash = (u, r) := ⟨_, _, rfl⟩
  have again := readBytes_setReads count s.clearOut.released (s.up.reads ++
    [⟨addressValue addr, 0, s.snapFor .read (addressValue addr), false, none, false⟩])
    ⟨addressValue addr, 0, s.snapFor .read (addressValue addr), false, none, false⟩ flash
  rw [run] at again
  rw [exec_read_start hp quiet run]
  exact (exec_read_more (s := { s with up := { s.up with arrived := none, reads := s.up.reads ++
    [⟨addressValue addr, 0, s.snapFor .read (addressValue addr), false, none, false⟩] } }) hp quiet rfl again).symm

/-- A READ of the flash in one part (R30, R39, R48). -/
theorem exec_read_flash {s : State} {addr : Address} {flash : List Byte} {n : Nat} (hp : s.powered = true)
    (quiet : s.Quiet) (length : flash.length = n + 1)
    (outside : (s.snapFor .read (addressValue addr)).stage ≠ .s0)
    (free : (s.snapFor .read (addressValue addr)).busy = false) (idle : s.down.port ≠ .flashBusy)
    (bytes : ∀ i, i < n + 1 →
      (s.snapFor .read (addressValue addr)).geo.inAperture
        (readAt (addressValue addr) (s.snapFor .read (addressValue addr)) i) = false ∧
      translate (s.snapFor .read (addressValue addr)).mode (s.snapFor .read (addressValue addr)).geo
        (readAt (addressValue addr) (s.snapFor .read (addressValue addr)) i) ≠ none) :
    let a := addressValue addr
    let p := s.snapFor .read a
    exec (.read (.start addr) (n + 1) flash) s = .next (State.handed { s with
      out := ⟨(List.range (n + 1)).map (readSends a p flash), readOps a p (n + 1)⟩
      up := { s.up with
        arrived := none
        reads := s.up.reads ++ [⟨a, n + 1, p, true, some (readPhys a p n + 1), (readFirst a p (n + 1)).isSome⟩] }
      down := s.down.taken } (readFirst a p (n + 1))) := by
  intro a p
  have run := readBytes_flash (s := s.clearOut.released) (a := a) outside free idle
    (fun i hi => bytes i (length ▸ hi)) (n + 1) 0 (by omega)
  rw [Nat.zero_add, List.drop_zero] at run
  rw [exec_read_start hp quiet run]
  unfold readLeaves readOpen
  rw [if_neg (Nat.succ_ne_zero n), if_neg (Nat.succ_ne_zero n), decide_eq_true (Nat.succ_ne_zero n),
    Nat.add_sub_cancel]
  generalize readFirst a _ (n + 1) = first
  cases first <;> rfl

/-- Settles O33: a READ goes byte by byte, and what each byte is is said by itself. -/
theorem readPassesOrMasks : Obligations.ReadPassesOrMasks := by
  refine ⟨?whole, fun s addr flash count hp quiet => exec_read_start_more hp quiet addr flash count, ?more⟩
  case whole =>
    intro s addr flash count hp quiet length some_bytes a p l outside free idle bytes judged sent first phys ops
    obtain ⟨n, rfl⟩ : ∃ n, count = n + 1 := ⟨count - 1, by omega⟩
    rw [exec_read_flash hp quiet length outside free idle bytes]
    have taken : s.down.taken = { s.down with
        port := .carryingSoc
        chunk := if s.down.port = .carryingChunk then s.down.chunk.preempted else s.down.chunk } := by
      rw [Downstream.taken, if_neg idle]
    rw [taken]
    have firstIs : readFirst (addressValue addr) (s.snapFor .read (addressValue addr)) (n + 1) = first := rfl
    rw [firstIs]
    cases first <;> rfl
  case more =>
    intro s flash old r hp quiet hreads p l fills off image sends goesOn denied
    refine ⟨?needless, ?aperture, ?flash, ?nothing, ?parts, ?handed⟩
    case needless =>
      intro needless
      have one : ∀ i, i < 1 → r.fills i := fun i hi => by
        obtain rfl : i = 0 := by omega
        exact needless
      rw [exec_read_more hp quiet hreads (readBytes_fill 1 _ r flash one)]
      rfl
    case aperture =>
      intro outside inside
      have one : readBytes 1 s.clearOut r flash = _ :=
        congrArg (fun d : ReadStep => (d.1, d.2.1)) (s.clearOut.readByte_aperture r flash outside inside)
      rw [exec_read_more hp quiet hreads one, State.readHeader_eq]
      rfl
    case flash =>
      intro phys outside away free mapped masked t u
      have one : readBytes 1 s.clearOut r flash = _ :=
        congrArg (fun d : ReadStep => (d.1, d.2.1)) (State.readByte_flash (s := s.clearOut) flash outside away free mapped)
      have head : flash.head?.getD (Config.undrivenBus r.sent) = flashByte r.sent flash := by
        cases flash <;> rfl
      rw [exec_read_more hp quiet hreads one]
      dsimp only [u, t, masked, sends, p]
      rw [head]
      cases r.snap.judge .read phys with
      | none =>
        have unhanded : r.hands none = none := ite_self _
        rw [unhanded]
        rfl
      | some d =>
        cases handed : r.violated with
        | true =>
          have unhanded : r.hands (some d) = none := if_pos handed
          rw [unhanded]
          rfl
        | false =>
          have one_handed : r.hands (some d) =
              some ⟨r.snap.geo.logical (r.addr + r.sent), .read, r.snap.stage, d.2⟩ :=
            if_neg (by rw [handed]; exact Bool.false_ne_true)
          rw [one_handed]
          rfl
    case nothing =>
      rw [exec_read_more hp quiet hreads (show readBytes 0 s.clearOut r flash = (s.clearOut, r) from rfl), ← hreads]
      rfl
    case parts => exact fun n t u => exec_read_parts hp quiet hreads
    case handed =>
      intro count
      obtain ⟨⟨addr, snap, sent, length⟩, handed, allowed, deniedFirst⟩ := readBytes_hands count s.clearOut r flash
      refine ⟨_, _, exec_read_more hp quiet hreads rfl, rfl, addr, snap, sent,
        length.trans (Nat.zero_add count), handed, allowed, deniedFirst⟩

end Sys2Proof.Machine

/-! The writes that reach the Service Aperture: stray programs, erases, the abort, and a frame's reception (R60 to
R63, R66, R70 to R72). -/

namespace Sys2Proof.Machine

/-! ### A judged write in the aperture -/

/-- The aperture's addresses (R36, R57). -/
theorem Geometry.inAperture_of {g : Geometry} {l : Nat} (low : g.apBase ≤ l) (high : l < g.apBase + 65536) :
    g.inAperture l = true := by
  unfold Geometry.inAperture
  exact Bool.and_eq_true_iff.2 ⟨decide_eq_true low, decide_eq_true high⟩

/-- A PROGRAM that is judged (R21). -/
theorem exec_program_judged {s : State} {addr : Address} {data : List Byte} (tail : Nat) (hp : s.powered = true)
    (outside : (s.snapFor .program (addressValue addr)).stage ≠ .s0)
    (free : (s.snapFor .program (addressValue addr)).busy = false) (wel : s.up.wel = true)
    (some_data : data ≠ []) : exec (.program addr data tail) s = .next ((s.clearOut.released.programUnit
      (s.snapFor .program (addressValue addr)) (addressValue addr) data).setWel false).settled := by
  have judged : s.clearOut.released.judged (s.snapFor .program (addressValue addr)) = true := by
    rw [State.judged_eq]
    exact decide_eq_true ⟨wel, free⟩
  change execProgram addr data tail s = _
  rw [execProgram, State.perform, if_pos hp, State.transact_clear, if_neg outside, if_pos ⟨some_data, judged⟩]

/-- A PROGRAM of the aperture on a part that stays quiet (R21, R60). -/
theorem exec_program_aperture {s t : State} {addr : Address} {data : List Byte} {tail : Nat}
    (hp : s.powered = true) (outside : (s.snapFor .program (addressValue addr)).stage ≠ .s0)
    (free : (s.snapFor .program (addressValue addr)).busy = false) (wel : s.up.wel = true) (some_data : data ≠ [])
    (h : (s.clearOut.released.programUnit (s.snapFor .program (addressValue addr)) (addressValue addr) data).setWel
      false = t) (ht : t.Quiet) : exec (.program addr data tail) s = .next t := by
  rw [exec_program_judged tail hp outside free wel some_data, h, State.settled_quiet ht]

/-- An ERASE_4K of the aperture that is judged (R60, R70). -/
theorem exec_erase4k_aperture {s t : State} {addr : Address} (hp : s.powered = true)
    (outside : (s.snapFor .erase4k (addressValue addr)).stage ≠ .s0)
    (free : (s.snapFor .erase4k (addressValue addr)).busy = false) (wel : s.up.wel = true)
    (inside : (s.snapFor .erase4k (addressValue addr)).geo.inAperture
      ((s.snapFor .erase4k (addressValue addr)).geo.logical (addressValue addr)) = true)
    (h : (if (s.snapFor .erase4k (addressValue addr)).geo.logical (addressValue addr) -
          (s.snapFor .erase4k (addressValue addr)).geo.logical (addressValue addr) % 4096 =
            (s.snapFor .erase4k (addressValue addr)).geo.apBase
        then s.clearOut.released.abort else s.clearOut.released).setWel false = t) (ht : t.Quiet) :
    exec (.erase4k addr) s = .next t := by
  have judged : s.clearOut.released.judged (s.snapFor .erase4k (addressValue addr)) = true := by
    rw [State.judged_eq]
    exact decide_eq_true ⟨wel, free⟩
  change execErase4k addr s = _
  refine State.perform_transact hp ?_ ht
  rw [if_neg outside, if_pos judged, State.erase4kUnit, inside]
  exact h

/-- An ERASE_64K of the aperture that is judged aborts (R60, R70). -/
theorem exec_erase64k_aperture {s t : State} {addr : Address} (hp : s.powered = true)
    (outside : (s.snapFor .erase64k (addressValue addr)).stage ≠ .s0)
    (free : (s.snapFor .erase64k (addressValue addr)).busy = false) (wel : s.up.wel = true)
    (inside : (s.snapFor .erase64k (addressValue addr)).geo.inAperture
      ((s.snapFor .erase64k (addressValue addr)).geo.logical (addressValue addr)) = true)
    (h : s.clearOut.released.abort.setWel false = t) (ht : t.Quiet) : exec (.erase64k addr) s = .next t := by
  have judged : s.clearOut.released.judged (s.snapFor .erase64k (addressValue addr)) = true := by
    rw [State.judged_eq]
    exact decide_eq_true ⟨wel, free⟩
  change execErase64k addr s = _
  refine State.perform_transact hp ?_ ht
  rw [if_neg outside, if_pos judged, State.erase64kUnit, inside]
  exact h

/-! ### The abort -/

/-- The abort with the response EMPTY drops the frame in reception alone (R70). -/
theorem State.abort_empty {s : State} (h : s.aperture.resp.state = .empty) : s.abort = s.dropReception := by
  simp only [State.abort, State.dropReception, h]

/-- It empties a DONE response (R70). -/
theorem State.abort_done {s : State} (h : s.aperture.resp.state = .done) :
    s.abort = s.dropReception.setResponse Response.empty := by
  simp only [State.abort, State.dropReception, h]

/-- It withdraws a QUEUED frame, and the response kept aside returns (R70). -/
theorem State.abort_queued {s : State} {back : Response} (h : s.aperture.resp.state = .queued)
    (aside : s.aperture.aside = some back) : s.abort = { s with aperture := { s.aperture with
      rx := none, resp := back, aside := none, held := none } } := by
  simp only [State.abort, State.dropReception, h, aside, Option.getD_some]

/-- It sets the abort request of the command in progress (R70, R71). -/
theorem State.abort_running {s : State} (h : s.aperture.resp.state = .running) :
    s.abort = State.observeAbort { s.dropReception with engine := { s.engine with abortRequest := true } } := by
  simp only [State.abort, State.dropReception, h]

/-- A command that does not stand at an abort point of a wait at LOW goes on, its abort request set (R71). -/
theorem State.abort_requested {s : State} {w : CmdWork} (h : s.aperture.resp.state = .running)
    (working : s.engine.state = .command w)
    (keeps : ¬ (s.supply.normal = false ∧ w.StopsAtLow ∧ s.AwaitsWrite)) :
    s.abort = { s.dropReception with engine := { s.engine with abortRequest := true } } := by
  rw [State.abort_running h]
  refine State.observeAbort_keeps fun w' here _ supply stops waits => ?_
  cases here.symm.trans working
  exact keeps ⟨supply, stops, waits⟩

/-- A command that does stops there (R71). -/
theorem State.abort_stops {s : State} {w : CmdWork} (quiet : s.out = ⟨[], []⟩)
    (h : s.aperture.resp.state = .running) (working : s.engine.state = .command w)
    (supply : s.supply.normal = false) (stops : w.StopsAtLow) (waits : s.AwaitsWrite) :
    s.abort = s.dropReception.abortedAt w := by
  rw [State.abort_running h]
  exact State.observeAbort_stops quiet working rfl supply stops waits

/-- An erase that aborts (R60, R70). -/
theorem exec_aborts {s t : State} {c : Instr} {cls : TxClass} {a : Nat} (hp : s.powered = true)
    (outside : (s.snapFor cls a).stage ≠ .s0) (free : (s.snapFor cls a).busy = false) (wel : s.up.wel = true)
    (inside : (s.snapFor cls a).geo.inAperture ((s.snapFor cls a).geo.logical a) = true)
    (erase : (∃ addr, c = .erase4k addr ∧ cls = .erase4k ∧ a = addressValue addr ∧
        (s.snapFor cls a).geo.logical a - (s.snapFor cls a).geo.logical a % 4096 = (s.snapFor cls a).geo.apBase) ∨
      ∃ addr, c = .erase64k addr ∧ cls = .erase64k ∧ a = addressValue addr)
    (h : s.clearOut.released.abort.setWel false = t) (ht : t.Quiet) : exec c s = .next t := by
  obtain ⟨addr, rfl, rfl, rfl, sector⟩ | ⟨addr, rfl, rfl, rfl⟩ := erase
  · refine exec_erase4k_aperture hp outside free wel inside ?_ ht
    rw [if_pos sector]
    exact h
  · exact exec_erase64k_aperture hp outside free wel inside h ht

/-- Settles O38: by the kind of write, and for an abort by the response's state. -/
theorem apertureWrites : Obligations.ApertureWrites := by
  intro s c cls a hp quiet p l outside free wel low high after ap aborted
  have inside : p.geo.inAperture l = true := Geometry.inAperture_of low high
  refine ⟨?stray, ?other, fun h state => ?empty, fun h state => ?done, fun h back state aside => ?queued,
    fun h w state working => ⟨fun keeps => ?requested, fun supply stops waits none => ?stopped⟩⟩
  case stray =>
    rintro ⟨addr, data, tail, some_data, rfl, rfl, rfl, high⟩
    refine exec_program_aperture hp outside free wel some_data ?_ quiet
    rw [State.programUnit_stray _ _ _ _ inside (Nat.not_lt.2 high)]
    rfl
  case other =>
    rintro ⟨addr, rfl, rfl, rfl, sector⟩
    refine exec_erase4k_aperture hp outside free wel inside ?_ quiet
    exact congrArg (fun u => State.setWel u false) (if_neg sector)
  case empty =>
    refine exec_aborts hp outside free wel inside h ?_ quiet
    rw [State.abort_empty (s := s.clearOut.released) state]
    rfl
  case done =>
    refine exec_aborts hp outside free wel inside h ?_ quiet
    rw [State.abort_done (s := s.clearOut.released) state]
    rfl
  case queued =>
    refine exec_aborts hp outside free wel inside h ?_ fun idle => ?_
    · rw [State.abort_queued (s := s.clearOut.released) state aside]
      rfl
    · obtain ⟨reset, floor, _⟩ := quiet idle
      exact ⟨reset, floor, rfl⟩
  case requested =>
    refine exec_aborts hp outside free wel inside h ?_ fun idle => nomatch working.symm.trans idle
    rw [State.abort_requested (s := s.clearOut.released) state working keeps]
    rfl
  case stopped =>
    refine exec_aborts hp outside free wel inside h ?_ fun _ => none
    rw [State.abort_stops (s := s.clearOut.released) rfl state working supply stops waits]
    rfl

end Sys2Proof.Machine

/-! Commands do not look at WEL, so that a frame which a PROGRAM completes does what its row does (R20, R61, R66). -/

namespace Sys2Proof.Machine

/-! ### What a command's act does, WEL set aside -/

/-- A burn taken (R119). -/
theorem State.takeBurn_setWel (s : State) (b : FuseBit) (w : BurnOwner) (v : Bool) :
    (s.setWel v).takeBurn b w = ((s.takeBurn b w).1.setWel v, (s.takeBurn b w).2) := by
  unfold State.takeBurn
  by_cases burned : s.fuses.image.burned b = true
  · rw [if_pos burned, if_pos (show (s.setWel v).fuses.image.burned b = true from burned)]
  · rw [if_neg burned, if_neg (show ¬ (s.setWel v).fuses.image.burned b = true from burned)]
    by_cases normal : s.supply.normal = true
    · rw [if_pos normal, if_pos (show (s.setWel v).supply.normal = true from normal)]
      rfl
    · rw [if_neg normal, if_neg (show ¬ (s.setWel v).supply.normal = true from normal)]

/-- A burn requested (R119). -/
theorem State.requestBurn_setWel (s : State) (b : FuseBit) (w : BurnOwner) (v : Bool) :
    (s.setWel v).requestBurn b w = ((s.requestBurn b w).1.setWel v, (s.requestBurn b w).2) := by
  simp only [State.requestBurn, State.setWel_fuses]
  cases s.fuses.burn with
  | some _ => rfl
  | none => exact s.takeBurn_setWel b w v

/-- A chunk requested (R31). -/
theorem State.requestChunk_setWel (s : State) (start len : Nat) (v : Bool) :
    (s.setWel v).requestChunk start len = (s.requestChunk start len).setWel v := by
  simp only [State.requestChunk, State.setWel_down]
  cases s.down.port <;> rfl

/-- The gate's use by a gated command (R162). -/
theorem State.gateUse_setWel (s : State) (required v : Bool) :
    (s.setWel v).gateUse required = (s.gateUse required).setWel v := by
  cases required <;> rfl

/-- The gate closed (R163). -/
theorem State.closeGate_setWel (s : State) (v : Bool) : (s.setWel v).closeGate = s.closeGate.setWel v := by
  unfold State.closeGate
  by_cases opened : s.cred.gateOpen = true
  · rw [if_pos opened, if_pos (show (s.setWel v).cred.gateOpen = true from opened)]
    rfl
  · rw [if_neg opened, if_neg (show ¬ (s.setWel v).cred.gateOpen = true from opened)]
    rfl

/-- The gating (R72). -/
theorem State.gated_setWel {s : State} {v : Bool} {f : Frame} {only : Option Lifecycle} {cond : Cond} {ok : Bool}
    {ps ss : List Check} {b : Bool} {act act' : State → State} (h : act' (s.setWel v) = (act s).setWel v) :
    (s.setWel v).gated f only cond ok ps ss b act' = (s.gated f only cond ok ps ss b act).setWel v := by
  have both : ∀ r : Option Reply, (match r with
      | some refusal => (s.setWel v).endCommand refusal
      | none => act' (s.setWel v)) = State.setWel (match r with
      | some refusal => s.endCommand refusal
      | none => act s) v := by
    intro r
    cases r with
    | some refusal => rfl
    | none => exact h
  exact both _

/-- STAGE_ADVANCE's act (R4). -/
theorem State.advanceStage_setWel (s : State) (n : Nat) (v : Bool) :
    (s.setWel v).advanceStage n = (s.advanceStage n).setWel v := by
  have closed := State.closeGate_setWel { s with stage := .num (Fin.ofNat 8 n) } v
  unfold State.advanceStage
  dsimp only
  rw [show ({ s.setWel v with stage := .num (Fin.ofNat 8 n) } : State) =
    State.setWel { s with stage := .num (Fin.ofNat 8 n) } v from rfl, closed]
  rfl

/-- PROV_DEPLOY's act (R146). -/
theorem State.deployTry_setWel (s : State) (bit : Nat) (v : Bool) :
    (s.setWel v).deployTry bit = (s.deployTry bit).setWel v := by
  unfold State.deployTry
  rw [State.requestBurn_setWel]
  generalize s.requestBurn ⟨.lifecycle, bit⟩ .command = asked
  obtain ⟨t, _ | outcome⟩ := asked
  · rfl
  · cases outcome <;> rfl

/-- UPDATE_VERIFY's request (R81). -/
theorem State.startVerify_setWel (s : State) (g : Geometry) (x : SlotId) (v : Bool) :
    (s.setWel v).startVerify g x = (s.startVerify g x).setWel v :=
  State.requestChunk_setWel { s with ve := ⟨.manifest x, [], 0, ShaState.initial⟩ } _ _ v

/-- CRED_SET's act (R170). -/
theorem State.setCred_setWel (s : State) (id : Fin 24) (label : List Byte)
    (rest : List Byte ⊕ (Cond × Bool × List Byte)) (v : Bool) :
    (s.setWel v).setCred id label rest = (s.setCred id label rest).setWel v := by
  unfold State.setCred
  rw [show (s.setWel v).proofCase id = s.proofCase id from rfl]
  cases s.proofCase id <;> rcases rest with _ | ⟨_, _, _⟩ <;> rfl

/-- A command does what it does whatever WEL is. -/
theorem dispatch_setWel (f : Frame) (s : State) (v : Bool) : dispatch f (s.setWel v) = (dispatch f s).setWel v := by
  unfold dispatch
  split
  · unfold cmdIdentify
    exact State.gated_setWel rfl
  · unfold cmdSlotStatus
    exact State.gated_setWel rfl
  · unfold cmdPolicyRead
    exact State.gated_setWel rfl
  · unfold cmdLogRead
    exact State.gated_setWel rfl
  · unfold cmdCertRead
    exact State.gated_setWel rfl
  · unfold cmdKeyPublic
    exact State.gated_setWel rfl
  · unfold cmdCredList
    exact State.gated_setWel rfl
  · unfold cmdEventsRead
    exact State.gated_setWel rfl
  · unfold cmdStageAdvance
    exact State.gated_setWel (s.advanceStage_setWel _ v)
  · unfold cmdMeasureExtend
    exact State.gated_setWel rfl
  · unfold cmdPolicyTighten
    split
    · unfold cmdTightenA
      exact State.gated_setWel rfl
    · split
      · unfold cmdTightenB
        refine State.gated_setWel ?_
        dsimp only
        split <;> rfl
      · exact State.gated_setWel rfl
  · unfold cmdQuote
    exact State.gated_setWel rfl
  · unfold cmdUpdateVerify
    exact State.gated_setWel (congrArg (fun u => State.work u (.verify s.target))
      (State.startVerify_setWel (s.setSlot s.target (s.slot s.target).verifying) _ _ v))
  · unfold cmdUpdateArm
    exact State.gated_setWel rfl
  · unfold cmdUpdateDisarm
    exact State.gated_setWel rfl
  · unfold cmdUpdateConfirm
    exact State.gated_setWel rfl
  · unfold cmdReboot
    exact State.gated_setWel rfl
  · unfold cmdKeySign
    refine State.gated_setWel ?_
    rw [State.gateUse_setWel]
    rfl
  · unfold cmdKeyGenerate
    exact State.gated_setWel rfl
  · unfold cmdKeyErase
    exact State.gated_setWel rfl
  · unfold cmdCredCheck
    exact State.gated_setWel rfl
  · unfold cmdCredSet
    refine State.gated_setWel ?_
    split
    · exact State.setCred_setWel s _ _ _ v
    · rfl
  · unfold cmdCredGet
    refine State.gated_setWel ?_
    rw [State.gateUse_setWel]
    rfl
  · unfold cmdCredDelete
    exact State.gated_setWel rfl
  · unfold cmdGateClose
    exact State.gated_setWel rfl
  · unfold cmdEventsAck
    exact State.gated_setWel rfl
  · unfold cmdEventsEnable
    exact State.gated_setWel rfl
  · unfold cmdProvConfig
    exact State.gated_setWel rfl
  · unfold cmdProvIdentity
    exact State.gated_setWel rfl
  · unfold cmdProvAuthority
    exact State.gated_setWel rfl
  · unfold cmdProvCert
    exact State.gated_setWel rfl
  · unfold cmdProvDeploy
    exact State.gated_setWel (s.deployTry_setWel 0 v)
  · rfl

/-! ### What a completed frame comes to, by the engine's state -/

/-- An idle engine takes it (R66). -/
theorem State.dispose_idle {s : State} (h : s.engine.state = .idle) (f : Frame) : s.dispose f = s.takeFrame f := by
  simp only [State.dispose, h]

/-- A command at work refuses it (R66). -/
theorem State.dispose_command {s : State} {w : CmdWork} (h : s.engine.state = .command w) (f : Frame) :
    s.dispose f = s.refuseFrame := by
  simp only [State.dispose, h]

/-- A job holds one frame and refuses the next (R66). -/
theorem State.dispose_job {s : State} {w : JobWork} (h : s.engine.state = .job w) (f : Frame) :
    s.dispose f = if s.aperture.resp.state = .queued then s.refuseFrame else s.holdFrame f := by
  simp only [State.dispose, h]

/-- A completed frame is disposed of whatever WEL is (R66). -/
theorem State.dispose_setWel (s : State) (f : Frame) (v : Bool) :
    (s.setWel v).dispose f = (s.dispose f).setWel v := by
  cases work : s.engine.state with
  | idle =>
    rw [State.dispose_idle work, State.dispose_idle (s := s.setWel v) work]
    exact dispatch_setWel f (s.setResponse (Response.running f s.aperture.resp.lost 0)) v
  | job w =>
    rw [State.dispose_job work, State.dispose_job (s := s.setWel v) work]
    by_cases queued : s.aperture.resp.state = .queued
    · rw [if_pos queued]
      exact if_pos queued
    · rw [if_neg queued]
      exact if_neg queued
  | command w =>
    rw [State.dispose_command work, State.dispose_command (s := s.setWel v) work]
    rfl

/-- A frame that its row submits is disposed of (R61, R66). -/
theorem State.submit_disposes {s : State} (running : s.stage ≠ .s0) {r : Request} (fits : r.fits = true)
    (code : Byte) : s.submit code r = s.dropReception.dispose (requestFrame code r) := by
  have short : r.params.length ≤ paramsMax := by
    simpa [Request.fits, paramsMax, Config.requestSize] using fits
  rw [State.submit, if_neg running, if_pos short]

/-! ### Reception -/

/-- The length field (R62, Table 12-3). -/
theorem leAt_length (bs : List Byte) : leAt bs 0 2 = (byteAt bs 0).toNat + 256 * (byteAt bs 1).toNat := by
  rw [leAt_succ, leAt_succ, leAt_zero, Nat.mul_zero, Nat.add_zero]

section
variable (s : State) {before data bytes : List Byte} (h : (before ++ data).take 2048 = bytes)

include h

/-- Fewer than 8 bytes stay in reception (R61). -/
theorem State.receive_short (short : bytes.length < 8) : s.receive before data = s.keepReception bytes := by
  subst h
  exact if_pos short

/-- A length that no frame has (R63). -/
theorem State.receive_fails (header : 8 ≤ bytes.length) (bad : leAt bytes 0 2 < 8 ∨ 2048 < leAt bytes 0 2) :
    s.receive before data = s.failReception 1 bytes := by
  subst h
  exact (if_neg (Nat.not_lt.2 header)).trans (if_pos bad)

/-- Fewer bytes than the length field says stay in reception (R61, R62). -/
theorem State.receive_waits (header : 8 ≤ bytes.length) (more : bytes.length < leAt bytes 0 2)
    (fits : leAt bytes 0 2 ≤ 2048) : s.receive before data = s.keepReception bytes := by
  subst h
  refine (if_neg (Nat.not_lt.2 header)).trans ((if_neg ?_).trans (if_pos more))
  exact not_or.2 ⟨Nat.not_lt.2 (header.trans more.le), Nat.not_lt.2 fits⟩

/-- A frame whose bytes have all been received (R62, R66). -/
theorem State.receive_completes (header : 8 ≤ leAt bytes 0 2) (whole : leAt bytes 0 2 ≤ bytes.length) :
    s.receive before data = s.dropReception.dispose (parseFrame (bytes.take (leAt bytes 0 2))) := by
  have fits : bytes.length ≤ 2048 := by
    rw [← h]
    exact List.length_take_le _ _
  subst h
  refine (if_neg (Nat.not_lt.2 (header.trans whole))).trans ((if_neg ?_).trans (if_neg (Nat.not_lt.2 whole)))
  exact not_or.2 ⟨Nat.not_lt.2 header, Nat.not_lt.2 (whole.trans fits)⟩

end

/-- Four little-endian bytes put together again (R185). -/
theorem bytes_of_word (w : BitVec 32) : BitVec.ofNat 8 (w.toNat / 256 ^ 3) ++ BitVec.ofNat 8 (w.toNat / 256 ^ 2) ++
    BitVec.ofNat 8 (w.toNat / 256 ^ 1) ++ BitVec.ofNat 8 (w.toNat / 256 ^ 0) = w := by
  refine BitVec.eq_of_toNat_eq ?_
  have small := w.isLt
  rw [BitVec.toNat_append, BitVec.toNat_append, BitVec.toNat_append, ← Nat.shiftLeft_add_eq_or_of_lt (BitVec.isLt _),
    ← Nat.shiftLeft_add_eq_or_of_lt (BitVec.isLt _), ← Nat.shiftLeft_add_eq_or_of_lt (BitVec.isLt _)]
  simp only [BitVec.toNat_ofNat, Nat.shiftLeft_eq]
  omega

/-- A frame is read back from its bytes (Table 12-3). -/
theorem parseFrame_frameBytes (f : Frame) : parseFrame (frameBytes f) = f := by
  obtain ⟨code, tag, reserved, params⟩ := f
  have word : parseFrame (frameBytes ⟨code, tag, reserved, params⟩) =
    ⟨code, tag, BitVec.ofNat 8 (reserved.toNat / 256 ^ 3) ++ BitVec.ofNat 8 (reserved.toNat / 256 ^ 2) ++
      BitVec.ofNat 8 (reserved.toNat / 256 ^ 1) ++ BitVec.ofNat 8 (reserved.toNat / 256 ^ 0), params⟩ := rfl
  rw [word, bytes_of_word]

/-- The length field lies within the first bytes of what has been received (R62). -/
theorem leAt_take {bs : List Byte} {n : Nat} (h : 2 ≤ n) : leAt (bs.take n) 0 2 = leAt bs 0 2 := by
  simp only [leAt, slice, List.drop_zero, List.take_take, Nat.min_eq_left h]

/-- A command's frame that has been received whole (R62, R66). -/
theorem State.receive_frame (s : State) {before data bytes : List Byte} {code : Byte} {r : Request}
    (h : (before ++ data).take 2048 = bytes) (fits : r.fits = true)
    (frame : bytes.take (8 + r.params.length) = frameBytes (requestFrame code r)) :
    s.receive before data = s.dropReception.dispose (requestFrame code r) := by
  obtain ⟨whole, _, field⟩ := Laws.FrameLength.of_fits code r fits
  have len : leAt bytes 0 2 = 8 + r.params.length := by
    rw [← field, ← frame, leAt_take (by omega)]
  have received : 8 + r.params.length ≤ bytes.length := by
    rw [← frame, List.length_take] at whole
    omega
  rw [s.receive_completes h (by omega) (by omega), len, frame, parseFrame_frameBytes]

/-! ### A PROGRAM in the request area -/

/-- A PROGRAM that completes a frame does what the frame's row does (R61, R62, R66). -/
theorem exec_program_completes {s : State} {addr : Address} {data before bytes : List Byte} (tail : Nat) {c : Instr}
    {code : Byte} {r : Request} (row : serviceRow c = some (code, r)) (fits : r.fits = true)
    (hp : s.powered = true) (running : s.stage ≠ .s0)
    (outside : (s.snapFor .program (addressValue addr)).stage ≠ .s0)
    (free : (s.snapFor .program (addressValue addr)).busy = false) (wel : s.up.wel = true) (some_data : data ≠ [])
    (unit : s.clearOut.released.programUnit (s.snapFor .program (addressValue addr)) (addressValue addr) data =
      s.clearOut.released.receive before data)
    (h : (before ++ data).take 2048 = bytes)
    (frame : bytes.take (8 + r.params.length) = frameBytes (requestFrame code r)) :
    exec (.program addr data tail) s = exec c { s with up := { s.up with arrived := none, wel := false } } := by
  rw [exec_program_judged tail hp outside free wel some_data, unit, State.receive_frame _ h fits frame,
    ← State.dispose_setWel, exec_service_row row, State.perform, if_pos hp, State.submit_disposes ?_ fits]
  · rfl
  · exact running

/-- A PROGRAM of the request area goes to reception (R60, R61). -/
theorem State.programUnit_request {s : State} {p : Snapshot} {a : Nat} {data : List Byte}
    (low : p.geo.apBase ≤ a % p.geo.flashSize) (high : a % p.geo.flashSize - p.geo.apBase < 2048) :
    s.programUnit p a data = s.frameProgram (a % p.geo.flashSize - p.geo.apBase) data :=
  s.programUnit_frame p a data
    (Geometry.inAperture_of low (show a % p.geo.flashSize < p.geo.apBase + 65536 by omega)) high

/-- Settles O39: the PROGRAM's bytes are the frame's, and no command looks at WEL. -/
theorem frameByOneProgram : Obligations.FrameByOneProgram := by
  intro s c code r addr tail row fits hp running wel unarrived free place
  obtain ⟨whole, fitting, _⟩ := Laws.FrameLength.of_fits code r fits
  have snap : s.snapFor .program (addressValue addr) = s.snapshot :=
    State.snapFor_now fun a h => nomatch unarrived.symm.trans h
  have frame : leBytes 2 (8 + r.params.length) ++ [code, r.tag] ++ leBytes 4 r.reserved.toNat ++ r.params =
    frameBytes (requestFrame code r) := rfl
  have port : ({ s.up with wel := false } : Upstream) = { s.up with arrived := none, wel := false } := by
    rw [← unarrived]
  rw [frame, port]
  refine exec_program_completes (before := []) (bytes := frameBytes (requestFrame code r)) tail row fits hp running
    ?_ ?_ wel (fun empty => ?_) ?_ (List.take_of_length_le (whole.trans_le fitting)) (List.take_of_length_le whole.le)
  · rw [snap]
    exact running
  · rw [snap]
    exact free
  · rw [empty] at whole
    exact absurd whole.symm (by simp)
  · have place' : addressValue addr % s.snapshot.geo.flashSize = s.snapshot.geo.apBase := place
    rw [snap, State.programUnit_request place'.ge (by rw [place', Nat.sub_self]; decide), place', Nat.sub_self]
    rfl

end Sys2Proof.Machine

/-! A frame in pieces: the PROGRAMs that begin, continue, complete or fail it (R61 to R63, R66, R72). -/

namespace Sys2Proof.Machine

/-- A frame program at offset 0 begins a frame (R61). -/
theorem State.frameProgram_begins (s : State) (data : List Byte) : s.frameProgram 0 data = s.receive [] data := rfl

/-- At the receive position it continues one (R61). -/
theorem State.frameProgram_continues {s : State} {before : List Byte} {off : Nat} (data : List Byte)
    (rx : s.aperture.rx = some before) (at_end : off = before.length) (pos : 0 < off) :
    s.frameProgram off data = s.receive before data := by
  simp only [State.frameProgram, rx, if_neg pos.ne', if_pos at_end]

/-- At any other offset the frame fails (R63). -/
theorem State.frameProgram_fails {s : State} {before : List Byte} {off : Nat} (data : List Byte)
    (rx : s.aperture.rx = some before) (elsewhere : off ≠ before.length) (pos : 0 < off) :
    s.frameProgram off data = s.failReception 2 before := by
  simp only [State.frameProgram, rx, if_neg pos.ne', if_neg elsewhere]

/-- With no frame in reception every offset but 0 fails (R63). -/
theorem State.frameProgram_none {s : State} {off : Nat} (data : List Byte) (rx : s.aperture.rx = none)
    (pos : 0 < off) : s.frameProgram off data = s.failReception 2 [] := by
  simp only [State.frameProgram, rx, if_neg pos.ne']

/-- The code and the tag of a discarded frame (R63). -/
theorem headerOf_eq (bytes : List Byte) : headerOf bytes =
    (if bytes.length < 8 then 0 else byteAt bytes 2, if bytes.length < 8 then 0 else byteAt bytes 3) := by
  unfold headerOf
  split <;> rfl

/-- A frame that fails while the response is EMPTY or DONE is reported (R63, R65). -/
theorem State.failReception_reported {s : State} (detail : Byte) (bytes : List Byte)
    (h : s.aperture.resp.state = .empty ∨ s.aperture.resp.state = .done) :
    s.failReception detail bytes = State.raise { s with aperture := { s.aperture with
      rx := none
      resp := ⟨.done, (headerOf bytes).1, (headerOf bytes).2, .frameBad, detail, s.aperture.resp.lost, false, 0, [],
        true⟩ } } .serviceDone :=
  State.frameBad_reported s.dropReception detail _ _ h

/-- Else it is one refused frame more (R63, R66). -/
theorem State.failReception_refused {s : State} (detail : Byte) (bytes : List Byte)
    (h : ¬ (s.aperture.resp.state = .empty ∨ s.aperture.resp.state = .done)) :
    s.failReception detail bytes = s.dropReception.refuseFrame :=
  State.frameBad_refused s.dropReception detail _ _ h

/-- A byte of the front part of a string. -/
theorem byteAt_take {bs : List Byte} {n i : Nat} (h : i < n) : byteAt (bs.take n) i = byteAt bs i := by
  simp only [byteAt, List.getD_eq_getElem?_getD, List.getElem?_take, if_pos h]

/-- Settles O40: by the offset, and by what the received bytes and the length field say. -/
theorem framesInPieces : Obligations.FramesInPieces := by
  intro s addr data tail hp quiet p l off outside free wel some_data low high after keeps refused fails goes
  have unit : ∀ {u : State}, s.clearOut.released.frameProgram off data = u →
      s.clearOut.released.programUnit p (addressValue addr) data = u := by
    intro u h
    exact (State.programUnit_request low high).trans h
  have run : ∀ {u t : State}, s.clearOut.released.frameProgram off data = u → u.setWel false = t → t.Quiet →
      exec (.program addr data tail) s = .next t := by
    intro u t h wel_clear calm
    refine exec_program_aperture hp outside free wel some_data ?_ calm
    exact (congrArg (fun v => State.setWel v false) (unit h)).trans wel_clear
  have failing : ∀ detail bytes, s.clearOut.released.frameProgram off data =
      s.clearOut.released.failReception detail bytes →
      exec (.program addr data tail) s = .next (fails detail bytes) := by
    intro detail bytes h
    by_cases idle : s.aperture.resp.state = .empty ∨ s.aperture.resp.state = .done
    · have is : fails detail bytes = _ := if_pos idle
      rw [is]
      refine run (h.trans (State.failReception_reported detail bytes idle)) ?_ quiet
      rw [headerOf_eq]
      rfl
    · have is : fails detail bytes = refused := if_neg idle
      rw [is]
      exact run (h.trans (State.failReception_refused detail bytes idle)) rfl quiet
  have going : ∀ before, s.clearOut.released.frameProgram off data = s.clearOut.released.receive before data →
      goes before := by
    intro before h
    dsimp only [goes]
    obtain ⟨bytes, received⟩ : ∃ bytes, (before ++ data).take 2048 = bytes := ⟨_, rfl⟩
    rw [received, ← leAt_length bytes]
    refine ⟨fun short => ?short, fun header bad => ?bad, fun header more fits => ?more,
      fun c code r row fits running frame => ?row,
      fun header whole unlisted => ⟨fun idle => ?unlisted, fun w work => ?work⟩⟩
    case short => exact run (h.trans (State.receive_short _ received short)) rfl quiet
    case bad => exact failing 1 bytes (h.trans (State.receive_fails _ received header bad))
    case more => exact run (h.trans (State.receive_waits _ received header more fits)) rfl quiet
    case row =>
      exact exec_program_completes tail row fits hp running outside free wel some_data (unit h) received frame
    case unlisted =>
      have code : (parseFrame (bytes.take (leAt bytes 0 2))).code = byteAt bytes 2 := byteAt_take (by omega)
      have tag : (parseFrame (bytes.take (leAt bytes 0 2))).tag = byteAt bytes 3 := byteAt_take (by omega)
      refine run (h.trans (State.receive_completes _ received header whole)) ?_ fun _ => quiet idle
      rw [State.dispose_idle (s := s.clearOut.released.dropReception) idle, State.takeFrame,
        dispatch_unlisted (by rw [code]; exact unlisted), ← code, ← tag]
      rfl
    case work =>
      refine run (h.trans (State.receive_completes _ received header whole)) ?_ quiet
      rw [State.dispose_command (s := s.clearOut.released.dropReception) work]
      rfl
  refine ⟨fun start => going [] ?_, fun before rx at_end pos => going before ?_,
    fun before rx elsewhere pos => failing 2 before ?_, fun rx pos => failing 2 [] ?_⟩
  · rw [start]
    rfl
  · exact State.frameProgram_continues data rx at_end pos
  · exact State.frameProgram_fails data rx elsewhere pos
  · exact State.frameProgram_none data rx pos

end Sys2Proof.Machine

/-! Record write requests and the begin of a write (R124, R125). -/

namespace Sys2Proof.Machine

/-! ### What a begin leaves of the engine's work -/

/-- A slot told of leaves the aperture. -/
theorem changeSlotTold_aperture (s : State) (x : SlotId) (r : SlotRec) :
    (s.changeSlotTold x r).aperture = s.aperture := rfl

/-- The settling leaves the engine and the aperture (R109). -/
theorem State.settleSlots_work (s : State) (floor : Nat) :
    (s.settleSlots floor).1.engine = s.engine ∧ (s.settleSlots floor).1.aperture = s.aperture := by
  unfold State.settleSlots
  split
  · dsimp only
    split
    · dsimp only
      split
      · exact ⟨(changeSlotTold_engine _ _ _).trans (changeSlotTold_engine _ _ _),
          (changeSlotTold_aperture _ _ _).trans (changeSlotTold_aperture _ _ _)⟩
      · exact ⟨changeSlotTold_engine _ _ _, changeSlotTold_aperture _ _ _⟩
    · dsimp only
      split
      · exact ⟨changeSlotTold_engine _ _ _, changeSlotTold_aperture _ _ _⟩
      · exact ⟨rfl, rfl⟩
  · exact ⟨rfl, rfl⟩

/-- A requester's change leaves the part quiet (R68, R125). -/
theorem State.applyChange_quiet {s : State} (h : s.Quiet) (rec : RecordId) (c : Change) :
    (s.applyChange rec c).Quiet := by
  unfold State.applyChange
  split
  · exact h
  · split <;> exact h
  · next floor _ =>
    obtain ⟨engine, aperture⟩ := s.settleSlots_work floor
    unfold State.applyConfirm
    revert engine aperture
    generalize s.settleSlots floor = settled
    obtain ⟨t, awaited⟩ := settled
    intro engine aperture
    dsimp only
    split
    · exact State.quiet_of_busy nofun
    · exact h.congr engine aperture
  · exact h
  · exact h
  · exact h
  · split <;> exact h
  · split <;> exact h
  · exact h
  · exact h

/-- So do those of a set of requesters, in order (R125). -/
theorem State.applyAll_quiet (rec : RecordId) (rs : List Requester) : ∀ {s : State}, s.Quiet →
    (rs.foldl (fun v r => v.applyChange rec r.change) s).Quiet := by
  induction rs with
  | nil => exact fun h => h
  | cons r rs ih => exact fun h => ih (State.applyChange_quiet h rec r.change)

/-- RECORD_WRITE_BEGIN with a head entry, no write in progress and a NORMAL supply (R125). -/
theorem exec_recordWriteBegin {s : State} (hp : s.powered = true) (quiet : s.Quiet) {rec : RecordId}
    {rs : List Requester} {rest : List Entry} (free : s.records.writing = none)
    (head : s.records.waiting = ⟨rec, rs⟩ :: rest) (normal : s.supply.normal = true) :
    let t := rs.foldl (fun u q => u.begins rec q.change)
      { s.clearOut with records := { s.records with waiting := rest } }
    exec .recordWriteBegin s = .next { t with records := { t.records with
      writing := some ⟨rec, rs, t.stores rec rs⟩ } } := by
  have begun : s.clearOut.recordBegin = s.clearOut.beginWrite ⟨rec, rs⟩ rest := by
    unfold State.recordBegin
    rw [show s.clearOut.records.writing = none from free, show s.clearOut.records.waiting = _ from head,
      show s.clearOut.supply.normal = true from normal]
  change execRecordWriteBegin s = _
  refine (State.perform_event hp begun ?_).trans ?_
  · exact State.applyAll_quiet rec rs (s := { s.clearOut with records := { s.records with waiting := rest } }) quiet
  · rw [State.beginWrite_eq]
    rfl

/-- The same of a requester alone (R125). -/
theorem exec_recordWriteBegin_alone {s t : State} (hp : s.powered = true) (quiet : s.Quiet) {rec : RecordId} {q : Requester}
    {rest : List Entry} {content : RecContent} (free : s.records.writing = none)
    (head : s.records.waiting = ⟨rec, [q]⟩ :: rest) (normal : s.supply.normal = true)
    (begins : State.begins { s.clearOut with records := { s.records with waiting := rest } } rec q.change = t)
    (stores : t.stores rec [q] = content) : exec .recordWriteBegin s = .next { t with records := { t.records with
      writing := some ⟨rec, [q], content⟩ } } := by
  subst begins
  subst stores
  exact exec_recordWriteBegin hp quiet free head normal

/-- A second owner reset joins with no change of its own (R177). -/
theorem Entry.join_reset {e : Entry} {r : Requester} (reset : r.change = .ownerReset)
    (again : ∃ q ∈ e.requesters, q.change = .ownerReset) :
    e.join r = ⟨e.record, e.requesters ++ [⟨r.who, .asIs⟩]⟩ := by
  obtain ⟨q, asked, same⟩ := again
  exact if_pos ⟨reset, List.any_eq_true.2 ⟨q, asked, decide_eq_true same⟩⟩

/-- A block that already asked adds nothing (R124). -/
theorem Entry.join_asked {e : Entry} {r : Requester} (plain : r.change = .asIs) (asked : r ∈ e.requesters) :
    e.join r = e := by
  refine (if_neg ?_).trans (if_pos ⟨plain, asked⟩)
  rintro ⟨reset, _⟩
  exact nomatch plain.symm.trans reset

/-- Every other requester joins with its change (R124). -/
theorem Entry.join_new {e : Entry} {r : Requester}
    (first : r.change = .ownerReset → ∀ q ∈ e.requesters, q.change ≠ .ownerReset)
    (unasked : r.change = .asIs → r ∉ e.requesters) : e.join r = ⟨e.record, e.requesters ++ [r]⟩ := by
  refine (if_neg ?_).trans (if_neg fun asked => unasked asked.1 asked.2)
  rintro ⟨reset, any⟩
  obtain ⟨q, asked, same⟩ := List.any_eq_true.1 any
  exact first reset q asked (of_decide_eq_true same)

/-- Settles O44: the request by the waiting entry's place, the begin by its conditions, and each change that comes
alone by what it begins. -/
theorem requestsAndBegins : Obligations.RequestsAndBegins := by
  refine ⟨fun l rec r => ⟨requestIn_tail r, ?joins⟩, fun s hp quiet => ⟨?idle, ?begins, ?alone⟩⟩
  case joins =>
    rintro before e behind rfl same others
    rw [requestIn_joins r same others]
    subst same
    refine ⟨fun plain asked => ?_, fun plain unasked => ?_, fun change reset => ?_, fun reset first => ?_,
      fun reset again => ?_⟩
    · rw [Entry.join_asked plain asked]
    · rw [Entry.join_new (fun reset => nomatch plain.symm.trans reset) fun _ => unasked]
    · rw [Entry.join_new (absurd · reset) (absurd · change)]
    · rw [Entry.join_new (fun _ => first) fun plain => nomatch plain.symm.trans reset]
    · rw [Entry.join_reset reset again]
  case idle =>
    intro none
    change execRecordWriteBegin s = _
    refine State.perform_event hp ?_ quiet
    unfold State.recordBegin
    split
    · next free head normal =>
      rcases none with busy | empty | low
      · exact absurd free busy
      · exact nomatch head.symm.trans empty
      · exact nomatch normal.symm.trans low
    · rfl
  case begins =>
    intro rec rs rest free head normal
    exact exec_recordWriteBegin hp quiet free head normal
  case alone =>
    intro rec who change rest free head normal begun counters
    have row : ∀ {t content}, State.begins { s.clearOut with records := { s.records with waiting := rest } } rec
        change = t → t.stores rec [⟨who, change⟩] = content →
        exec .recordWriteBegin s = .next { t with records := { t.records with
          writing := some ⟨rec, [⟨who, change⟩], content⟩ } } :=
      fun begins stores => exec_recordWriteBegin_alone hp quiet free head normal begins stores
    refine ⟨?config, ?key, ?cred, ?cert, ?asIs, ?pass, ?fail, ?counters, ?increment, ?clear, ?reset⟩
    case config =>
      rintro c rfl rfl
      exact row rfl rfl
    case key =>
      rintro i k rfl rfl
      exact row rfl (congrArg RecContent.key (Vector.getElem_set_self i.isLt))
    case cred =>
      rintro i k rfl rfl
      exact row rfl (congrArg RecContent.cred (Vector.getElem_set_self i.isLt))
    case cert =>
      rintro bytes rfl rfl
      exact row rfl rfl
    case asIs =>
      rintro x rfl rfl
      exact row rfl rfl
    case pass =>
      rintro x m rfl rfl
      exact row rfl (by cases x <;> rfl)
    case fail =>
      rintro x why rfl rfl
      exact row rfl (by cases x <;> rfl)
    case counters =>
      rintro rfl rfl
      exact row rfl rfl
    case increment =>
      rintro rfl rfl
      exact row rfl rfl
    case clear =>
      rintro rfl rfl
      exact row rfl rfl
    case reset =>
      rintro rfl rfl
      exact row rfl rfl

end Sys2Proof.Machine

/-! The completion of a record write, as those who asked for it are told (R71, R103, R111, R125, R135, R146). -/

namespace Sys2Proof.Machine

/-- A write that concerns neither the command nor the job is stored, and no more is told; an abort that waits may
then be observed (R71, R125). -/
theorem exec_recordWriteComplete_untold {s t : State} {w : Writing} (hp : s.powered = true)
    (hw : s.records.writing = some w) (hq : ∀ q ∈ w.requesters, q.who ≠ .command ∧ q.who ≠ .job)
    (hno : ∀ q ∈ w.requesters, ∀ f v, q.change ≠ .confirm f v)
    (h : (s.clearOut.storedWrite w).observeAbort = t) (ht : t.Quiet) : exec .recordWriteComplete s = .next t := by
  have told : (s.clearOut.storedWrite w).tell w.record w.requesters = s.clearOut.storedWrite w := by
    unfold State.tell
    rw [involves_of_not_mem fun q hq' => (hq q hq').1, involves_of_not_mem fun q hq' => (hq q hq').2]
    split <;> rfl
  change execRecordWriteComplete s = _
  refine State.perform_event hp ?_ ht
  rw [State.recordComplete_of_no_confirm (s := s.clearOut) hw hno]
  exact (congrArg State.observeAbort told).trans h

/-- A command that stores what it has built goes on with the writes it still awaits (R135). -/
theorem State.tellCommand_store (s : State) {rec : RecordId} {awaited : List RecordId} (payload : List Byte)
    (more : awaited.erase rec ≠ []) :
    s.tellCommand rec (.store awaited payload) = s.work (.store (awaited.erase rec) payload) := by
  obtain ⟨r, rs, is⟩ := List.exists_cons_of_ne_nil more
  simp only [State.tellCommand, is]

/-- So does UPDATE_CONFIRM (R111). -/
theorem State.tellCommand_confirmSlots (s : State) {rec : RecordId} {awaited : List RecordId}
    (more : awaited.erase rec ≠ []) :
    s.tellCommand rec (.confirmSlots awaited) = s.work (.confirmSlots (awaited.erase rec)) := by
  obtain ⟨r, rs, is⟩ := List.exists_cons_of_ne_nil more
  simp only [State.tellCommand, is, State.confirmNext]

/-- So does PROV_DEPLOY (R146). -/
theorem State.tellCommand_deploySlots (s : State) {rec : RecordId} {bit : Nat} {awaited : List RecordId}
    (more : awaited.erase rec ≠ []) :
    s.tellCommand rec (.deploySlots bit awaited) = s.work (.deploySlots bit (awaited.erase rec)) := by
  obtain ⟨r, rs, is⟩ := List.exists_cons_of_ne_nil more
  simp only [State.tellCommand, is]

/-- Their waits are no abort points (R111, R146). -/
theorem CmdWork.not_stopsAtLow {w : CmdWork} (h : w.waitAborts = false) : ¬ w.StopsAtLow := fun stops =>
  nomatch h.symm.trans ((CmdWork.waitAborts_iff w).2 stops)

section
variable {s : State} {w : Writing} {work : CmdWork} (hp : s.powered = true)
  (he : s.engine.state = .command work) (hw : s.records.writing = some w)
  (own : ∃ q ∈ w.requesters, q.who = .command) (hno : ∀ q ∈ w.requesters, ∀ f v, q.change ≠ .confirm f v)

include hp he hw own hno

/-- A command that was told of its last write ends (R125, R135). -/
theorem exec_recordWriteComplete_ends (nowork : s.NoWork) {a : Reply}
    (told : (s.clearOut.storedWrite w).tellCommand w.record work = (s.clearOut.storedWrite w).endCommand a) :
    exec .recordWriteComplete s = .next ((s.storedWrite w).finished a) := by
  refine exec_recordWriteComplete_told hp he hw own hno ?_ (State.finished_quiet nowork _)
  rw [told, State.observeAbort_of_idle rfl]
  rfl

/-- A command that awaits another write goes on with it, but for an abort at such a wait (R71, R111, R135). -/
theorem exec_recordWriteComplete_goesOn {next : CmdWork}
    (told : (s.clearOut.storedWrite w).tellCommand w.record work = (s.clearOut.storedWrite w).work next)
    (keeps : ¬ (s.engine.abortRequest = true ∧ s.supply.normal = false ∧ next.StopsAtLow ∧
      (s.storedWrite w).AwaitsWrite)) :
    exec .recordWriteComplete s = .next ((s.storedWrite w).goesOn next) := by
  refine exec_recordWriteComplete_told hp he hw own hno ?_ (State.goesOn_quiet _ _)
  rw [told]
  refine State.observeAbort_keeps fun w' here requested low stops waits => ?_
  cases here
  exact keeps ⟨requested, low, stops, waits⟩

/-- That abort ends it (R71, R135). -/
theorem exec_recordWriteComplete_aborts (nowork : s.NoWork) {next : CmdWork}
    (told : (s.clearOut.storedWrite w).tellCommand w.record work = (s.clearOut.storedWrite w).work next)
    (stops : s.engine.abortRequest = true ∧ s.supply.normal = false ∧ next.StopsAtLow ∧
      (s.storedWrite w).AwaitsWrite) :
    exec .recordWriteComplete s = .next ((s.storedWrite w).abortedAt next) := by
  obtain ⟨requested, low, point, waits⟩ := stops
  refine exec_recordWriteComplete_told hp he hw own hno ?_ (State.finished_quiet nowork _)
  rw [told]
  exact State.observeAbort_stops (s := (s.clearOut.storedWrite w).work next) rfl rfl requested low point waits

end

/-- Settles O45: by whose write it was, and what the command's work is. -/
theorem completionsEndTheCommand : Obligations.CompletionsEndTheCommand := by
  intro s hp nowork
  refine ⟨fun free => ?free, ?_⟩
  case free =>
    change execRecordWriteComplete s = _
    refine State.perform_event hp ?_ nowork.quiet
    unfold State.recordComplete
    rw [show s.clearOut.records.writing = none from free]
    rfl
  intro w hw noConfirm t stops
  refine ⟨fun others => ⟨fun keeps => ?keeps, fun work he here => ?stops⟩,
    fun own => ⟨?store, ?pass, ?fail, ?confirm, ?deploy⟩⟩
  case keeps =>
    refine exec_recordWriteComplete_untold hp hw others noConfirm ?_ nowork.quiet
    exact State.observeAbort_keeps fun work he requested low point waits => keeps work he ⟨requested, low, point, waits⟩
  case stops =>
    obtain ⟨requested, low, point, waits⟩ := here
    refine exec_recordWriteComplete_untold hp hw others noConfirm ?_ (State.finished_quiet nowork _)
    exact State.observeAbort_stops (s := s.clearOut.storedWrite w) rfl he requested low point waits
  case store =>
    intro awaited payload he rest
    refine ⟨fun last => ?_, fun more keeps => ?_, fun more here => ?_⟩
    · refine exec_recordWriteComplete_ends hp he hw own noConfirm nowork ?_
      simp only [State.tellCommand, show awaited.erase w.record = [] from last]
    · exact exec_recordWriteComplete_goesOn hp he hw own noConfirm (State.tellCommand_store _ _ more) keeps
    · exact exec_recordWriteComplete_aborts hp he hw own noConfirm nowork (State.tellCommand_store _ _ more) here
  case pass =>
    intro x m he
    refine (exec_recordWriteComplete_ends hp he hw own noConfirm nowork rfl).trans ?_
    cases x <;> rfl
  case fail =>
    intro x why he
    exact exec_recordWriteComplete_ends hp he hw own noConfirm nowork rfl
  case confirm =>
    intro awaited he more
    exact exec_recordWriteComplete_goesOn hp he hw own noConfirm (State.tellCommand_confirmSlots _ more)
      fun h => CmdWork.not_stopsAtLow rfl h.2.2.1
  case deploy =>
    intro bit awaited he
    refine ⟨fun more => ?_, fun last => ?_⟩
    · exact exec_recordWriteComplete_goesOn hp he hw own noConfirm (State.tellCommand_deploySlots _ more)
        fun h => CmdWork.not_stopsAtLow rfl h.2.2.1
    · refine exec_recordWriteComplete_told hp he hw own noConfirm ?_ (State.finished_quiet nowork _)
      simp only [State.tellCommand, last]
      exact State.observeAbort_of_idle rfl

end Sys2Proof.Machine

/-! UPDATE_CONFIRM from its COUNTERS write to its burns (R109 to R111, R113, R115). -/

namespace Sys2Proof.Machine

/-! ### The next bit and what its requester does -/

/-- The COUNTER bit at the count is next while it is below the floor and a raise does not pass it (R111, R121). -/
theorem State.nextBit_counter {s : State} {q : BurnSeq} (row : q.counterDone = false)
    (below : s.fuses.image.count < s.slots.pendingFloor)
    (fits : (s.fuses.image.set ⟨.counter, s.fuses.image.count⟩).count ≤ s.slots.pendingFloor) :
    s.nextBit q = (some ⟨.counter, s.fuses.image.count⟩, q) :=
  if_pos ⟨⟨row, below⟩, fits⟩

/-- Whether a pending revocation is not burned yet (R111). -/
def State.revokeDue (s : State) (i : Nat) : Prop :=
  s.slots.pendingRevoke.getLsbD i = true ∧ s.fuses.image.revoke.getLsbD i = false

/-- At the floor, with no revocation due, no bit is next (R111). -/
theorem State.nextBit_none {s : State} {q : BurnSeq} (floor : s.slots.pendingFloor ≤ s.fuses.image.count)
    (none0 : ¬ s.revokeDue 0) (none1 : ¬ s.revokeDue 1) :
    s.nextBit q = (none, ⟨true, true, q.failed⟩) := by
  unfold State.nextBit
  dsimp only
  rw [if_neg fun h => absurd h.1.2 (Nat.not_lt.2 floor), if_neg fun h => none0 h.2, if_neg fun h => none1 h.2]
  simp [Nat.not_lt.2 floor]

/-- With no bit next the burns are done (R91, R111, R114). -/
theorem State.burnsGoOn_none {s : State} {q p : BurnSeq} (owner : BurnOwner) (h : s.nextBit q = (none, p)) :
    s.burnsGoOn owner q = s.burnsDone owner p := by
  simp only [State.burnsGoOn, h]

/-- At NORMAL the next bit is asked for (R91, R111, R114). -/
theorem State.burnsGoOn_normal {s : State} {q p : BurnSeq} {b : FuseBit} (owner : BurnOwner)
    (h : s.nextBit q = (some b, p)) (normal : s.supply.normal = true) :
    s.burnsGoOn owner q = (s.asksBurn b owner).burnsWait owner p := by
  simp only [State.burnsGoOn, h, if_pos normal]

/-- At LOW the burns stop (R91, R111, R113, R114). -/
theorem State.burnsGoOn_low {s : State} {q p : BurnSeq} {b : FuseBit} (owner : BurnOwner)
    (h : s.nextBit q = (some b, p)) (low : s.supply.normal = false) :
    s.burnsGoOn owner q = s.burnsStop owner p := by
  simp only [State.burnsGoOn, h, low, Bool.false_eq_true, if_false]

/-- Once UPDATE_CONFIRM's burns go on it stands at no abort point (R108, R111). -/
theorem State.burnsGoOn_unobserved (s : State) (q : BurnSeq) :
    (s.burnsGoOn .command q).observeAbort = s.burnsGoOn .command q := by
  unfold State.burnsGoOn
  split
  · exact State.observeAbort_of_idle rfl
  · split
    · refine State.observeAbort_keeps fun w here _ _ stops => ?_
      cases here
      exact absurd stops (CmdWork.not_stopsAtLow rfl)
    · exact State.observeAbort_of_idle rfl

/-! ### A completed COUNTERS write of UPDATE_CONFIRM -/

/-- The write in progress stored, and the pending values it carried in force (R110, R115, R125). -/
def State.storedPending (s : State) (w : Writing) (floor : Nat) (rv : BitVec 2) : State :=
  { s.storedWrite w with slots := { s.slots with pendingFloor := floor, pendingRevoke := rv } }

/-- A completed write that an UPDATE_CONFIRM of the set has asked for (R110, R125). -/
theorem State.recordComplete_of_confirm {s : State} {w : Writing} {floor : Nat} {rv : BitVec 2}
    (hw : s.records.writing = some w) (some_confirm : ∃ q ∈ w.requesters, q.change = .confirm floor rv)
    (same : ∀ q ∈ w.requesters, ∀ f v, q.change = .confirm f v → f = floor ∧ v = rv) :
    s.recordComplete = ((s.storedPending w floor rv).tell w.record w.requesters).observeAbort := by
  simp only [State.recordComplete, hw, State.completeWrite, State.takePending]
  rw [pendingOf_of_confirm _ _ some_confirm same]
  rfl

section
variable {s t : State} {w : Writing} {floor : Nat} {rv : BitVec 2} (hp : s.powered = true)
  (hw : s.records.writing = some w) (some_confirm : ∃ q ∈ w.requesters, q.change = .confirm floor rv)
  (same : ∀ q ∈ w.requesters, ∀ f v, q.change = .confirm f v → f = floor ∧ v = rv)

include hp hw some_confirm same

/-- Such a write on a part that stays quiet (R110, R125). -/
theorem exec_recordWriteComplete_confirm
    (h : ((s.clearOut.storedPending w floor rv).tell w.record w.requesters).observeAbort = t) (ht : t.Quiet) :
    exec .recordWriteComplete s = .next t := by
  change execRecordWriteComplete s = _
  refine State.perform_event hp ?_ ht
  exact (State.recordComplete_of_confirm (s := s.clearOut) hw some_confirm same).trans h

end

/-- Nobody of a set without the command and the job is told (R125). -/
theorem State.tell_nobody {s : State} {rec : RecordId} {rs : List Requester}
    (h : ∀ q ∈ rs, q.who ≠ .command ∧ q.who ≠ .job) : s.tell rec rs = s := by
  unfold State.tell
  rw [involves_of_not_mem fun q hq => (h q hq).1, involves_of_not_mem fun q hq => (h q hq).2]
  split <;> rfl

/-- The command of a set is told (R125). -/
theorem State.tell_command {s : State} {rec : RecordId} {rs : List Requester} {work : CmdWork}
    (he : s.engine.state = .command work) (h : ∃ q ∈ rs, q.who = .command) :
    s.tell rec rs = s.tellCommand rec work := by
  simp only [State.tell, he, involves_of_mem h, if_true]

/-- The job of a set is told (R125). -/
theorem State.tell_job {s : State} {rec : RecordId} {rs : List Requester} {work : JobWork}
    (he : s.engine.state = .job work) (h : ∃ q ∈ rs, q.who = .job) : s.tell rec rs = s.tellJob rec work := by
  simp only [State.tell, he, involves_of_mem h, if_true]

/-- With its last SLOT write done UPDATE_CONFIRM begins its burns (R111). -/
theorem State.confirmNext_burns {s : State} (quiet : s.out = ⟨[], []⟩) :
    s.confirmNext [] = s.burnsGoOn .command ⟨false, false, false⟩ :=
  onBurns_goOn (owner := .command) (fun _ => quiet) _ nofun

/-- The settling of a trial's UPDATE_CONFIRM, by what becomes of the other slot (R109). -/
theorem State.settles_trial {s t : State} {floor f : Nat} {v : BitVec 2} {l moved : List RecordId}
    (runs : s.runs = true) (trial : (s.slot s.runningOfRun).state = .trial)
    (work : s.engine.state = .command (.confirmCounters f v l)) :
    let new := max s.fuses.image.count floor
    let o := s.slot s.otherOfRun
    let version := (o.summary.map Summary.securityVersion).getD 0
    let spare := o.state = .active ∧ new ≤ version
    let fails := (o.state = .active ∨ o.state = .verified ∨ o.state = .spare) ∧ version < new
    let told := fun (t : State) (y : SlotId) (r : SlotRec) => (t.slotBecomes y r).asks (.slot y) .command .asIs
    (if spare then told s s.otherOfRun ⟨.spare, .spare, .none, o.summary⟩
      else if fails then told s s.otherOfRun ⟨.failed, .failed, .rollback, o.summary⟩ else s) = t →
    (if spare ∨ fails then [RecordId.slot s.otherOfRun] else []) = moved →
    s.settles floor =
      { told t s.runningOfRun ⟨.active, .active, .none, (s.slot s.runningOfRun).summary⟩ with
        engine := { s.engine with state := .command (.confirmCounters f v (moved ++ [.slot s.runningOfRun])) } } := by
  intro new o version spare fails told other writes
  subst other
  subst writes
  simp only [State.settles, if_pos runs, if_pos trial, work]
  rfl

/-- What a COUNTERS write of UPDATE_CONFIRM stores (R125). -/
theorem State.stores_confirm {t : State} {floor boots : Nat} {rv : BitVec 2} {why : BootReason}
    (counter : t.slots.bootCounter = boots) (reason : t.slots.lastReason = why) :
    t.stores .counters [⟨.command, .confirm floor rv⟩] =
      .counters ⟨boots, why, floor, rv, t.cred.ownerEpoch, t.cred.failCount⟩ := by
  subst counter
  subst reason
  rfl

/-- The owner reset's end (R154, R176). -/
theorem State.ownerResetEnd_eq (s : State) : s.ownerResetEnd = { s with
    log := s.log.append .ownerReset s.stage zeroDigest []
    events := { s.events with pending := s.events.pending ||| 32 }
    engine := { s.engine with state := .idle } } := rfl

/-- Settles O46: the begin settles, the completion takes the pending values and tells, and the burns begin. -/
theorem confirmSettlesAndBurns : Obligations.ConfirmSettlesAndBurns := by
  intro s hp nowork
  refine ⟨?begins, ?completes, ?burns⟩
  case begins =>
    intro floor rv rest runs free head normal work new o x version told t0 t1 moved trial t2 awaited t3
    let begun : State := { s.clearOut with records := { s.records with waiting := rest } }
    by_cases spare : o.state = .active ∧ new ≤ version
    · have one : t1 = told t0 s.otherOfRun ⟨.spare, .spare, .none, o.summary⟩ := if_pos spare
      have two : awaited = [.slot s.otherOfRun, .slot x] := congrArg (· ++ [RecordId.slot x]) (if_pos (Or.inl spare))
      simp only [t3, t2, one, two]
      exact exec_recordWriteBegin_alone hp nowork.quiet free head normal
        (State.settles_trial (s := begun) runs trial work (if_pos spare) (if_pos (Or.inl spare)))
        (State.stores_confirm ((SlotTable.put_bootCounter _ _ _).trans (SlotTable.put_bootCounter _ _ _))
          ((SlotTable.put_lastReason _ _ _).trans (SlotTable.put_lastReason _ _ _)))
    · by_cases fails : (o.state = .active ∨ o.state = .verified ∨ o.state = .spare) ∧ version < new
      · have one : t1 = told t0 s.otherOfRun ⟨.failed, .failed, .rollback, o.summary⟩ :=
          (if_neg spare).trans (if_pos fails)
        have two : awaited = [.slot s.otherOfRun, .slot x] := congrArg (· ++ [RecordId.slot x]) (if_pos (Or.inr fails))
        simp only [t3, t2, one, two]
        exact exec_recordWriteBegin_alone hp nowork.quiet free head normal
          (State.settles_trial (s := begun) runs trial work ((if_neg spare).trans (if_pos fails))
            (if_pos (Or.inr fails)))
          (State.stores_confirm ((SlotTable.put_bootCounter _ _ _).trans (SlotTable.put_bootCounter _ _ _))
            ((SlotTable.put_lastReason _ _ _).trans (SlotTable.put_lastReason _ _ _)))
      · have one : t1 = t0 := (if_neg spare).trans (if_neg fails)
        have two : awaited = [.slot x] := congrArg (· ++ [RecordId.slot x]) (if_neg (not_or.2 ⟨spare, fails⟩))
        simp only [t3, t2, one, two]
        exact exec_recordWriteBegin_alone hp nowork.quiet free head normal
          (State.settles_trial (s := begun) runs trial work ((if_neg spare).trans (if_neg fails))
            (if_neg (not_or.2 ⟨spare, fails⟩)))
          (State.stores_confirm (SlotTable.put_bootCounter _ _ _) (SlotTable.put_lastReason _ _ _))
  case completes =>
    intro floor rv w hw some_confirm same t stops
    refine ⟨fun others => ⟨fun keeps => ?keeps, fun work here => ?stops⟩,
      fun own => ⟨fun f v rec awaited he => ?more, fun f v he => ?last⟩, fun own he => ?job⟩
    case keeps =>
      refine exec_recordWriteComplete_confirm hp hw some_confirm same ?_ nowork.quiet
      rw [State.tell_nobody others]
      exact State.observeAbort_keeps fun work he requested low point waits =>
        keeps work ⟨he, requested, low, point, waits⟩
    case stops =>
      obtain ⟨he, requested, low, point, waits⟩ := here
      refine exec_recordWriteComplete_confirm hp hw some_confirm same ?_ (State.finished_quiet nowork _)
      rw [State.tell_nobody others]
      exact State.observeAbort_stops (s := s.clearOut.storedPending w floor rv) rfl he requested low point waits
    case more =>
      refine exec_recordWriteComplete_confirm hp hw some_confirm same ?_ (State.goesOn_quiet _ _)
      rw [State.tell_command (s := s.clearOut.storedPending w floor rv) he own]
      refine State.observeAbort_keeps fun w' here _ _ stops => ?_
      cases here
      exact absurd stops (CmdWork.not_stopsAtLow rfl)
    case last =>
      refine exec_recordWriteComplete_confirm hp hw some_confirm same ?_
        (State.burnsGoOn_quiet (s := t) nowork _ _)
      have stored : s.clearOut.storedPending w floor rv = t := rfl
      rw [stored, State.tell_command (s := t) he own, State.tellCommand, State.confirmNext_burns rfl]
      exact t.burnsGoOn_unobserved _
    case job =>
      refine exec_recordWriteComplete_confirm hp hw some_confirm same ?_ fun _ => nowork
      rw [State.tell_job (s := s.clearOut.storedPending w floor rv) he own, State.tellJob,
        State.ownerResetEnd_eq, State.observeAbort_of_idle rfl]
      rfl
  case burns =>
    intro w hw own noConfirm he t payload due
    let stored : State := { t with out := ⟨[], []⟩ }
    have row : exec .recordWriteComplete s = .next (stored.burnsGoOn .command ⟨false, false, false⟩) := by
      refine exec_recordWriteComplete_told hp he hw own noConfirm ?_ (State.burnsGoOn_quiet (s := stored) nowork _ _)
      rw [show s.clearOut.storedWrite w = stored from rfl, State.tellCommand, List.erase_cons_head,
        State.confirmNext_burns rfl]
      exact stored.burnsGoOn_unobserved _
    refine ⟨row, fun floor none0 none1 => ?_, fun below fits => ⟨fun low => ?_, fun normal free unburned => ?_⟩⟩
    · rw [row, State.burnsGoOn_none .command (State.nextBit_none (s := stored) floor none0 none1)]
      rfl
    · rw [row, State.burnsGoOn_low .command (State.nextBit_counter (s := stored) rfl below fits) low]
      rfl
    · rw [row, State.burnsGoOn_normal .command (State.nextBit_counter (s := stored) rfl below fits) normal,
        State.asksBurn, show stored.fuses.burn = none from free]
      rfl

end Sys2Proof.Machine

/-! How the fuse rows read, and FUSE_ATTEMPT_DONE (R116, R117, R119). -/

namespace Sys2Proof.Machine

/-! ### The rows -/

/-- The count is within the row (R117). -/
theorem thermometer_le (v : BitVec 64) : thermometer v ≤ 64 := by
  have within := (List.takeWhile_prefix fun i => v.getLsbD i).length_le (l₂ := List.range 64)
  rwa [List.length_range] at within

/-- Every bit below the count is burned (R117). -/
theorem thermometer_burned {v : BitVec 64} {i : Nat} (h : i < thermometer v) : v.getLsbD i = true := by
  have inside : i < ((List.range 64).takeWhile fun i => v.getLsbD i).length := h
  have at_i : ((List.range 64).takeWhile fun i => v.getLsbD i)[i] = i := by
    rw [(List.takeWhile_prefix _).getElem inside, List.getElem_range]
  have burned := List.mem_takeWhile_imp (List.getElem_mem inside)
  rwa [at_i] at burned

/-- One more bit of a row (R116). -/
theorem getLsbD_burn {n : Nat} (v : BitVec n) {i : Nat} (h : i < n) (j : Nat) :
    (v ||| 1#n <<< i).getLsbD j = true ↔ v.getLsbD j = true ∨ j = i := by
  rw [BitVec.getLsbD_or, Bool.or_eq_true, BitVec.getLsbD_shiftLeft, BitVec.getLsbD_one]
  refine or_congr_right ?_
  simp only [Bool.and_eq_true, Bool.not_eq_true', decide_eq_true_eq, decide_eq_false_iff_not]
  omega

/-- Burning a bit burns that bit alone (R116). -/
theorem FuseRows.burned_set_iff (f : FuseRows) {b : FuseBit} (h : b.inRow = true) (c : FuseBit) :
    (f.set b).burned c = true ↔ f.burned c = true ∨ c = b := by
  obtain ⟨row, i⟩ := b
  obtain ⟨row', j⟩ := c
  have within : i < row.width := of_decide_eq_true h
  cases row <;> cases row' <;>
    simp only [FuseRows.set, FuseRows.burned, FuseBit.mk.injEq, reduceCtorEq, true_and, false_and, or_false]
  · exact getLsbD_burn _ within j
  · exact getLsbD_burn _ within j
  · exact getLsbD_burn _ within j

/-! ### FUSE_ATTEMPT_DONE -/

/-- The row without a burn in progress does nothing (R119). -/
theorem exec_fuseAttemptDone_none {s : State} (hp : s.powered = true) (quiet : s.Quiet) (back : Bool)
    (none : s.fuses.burn = none) : exec (.fuseAttemptDone back) s = .next s.clearOut := by
  change execFuseAttemptDone back s = _
  refine State.perform_event hp ?_ quiet
  rw [show s.clearOut.fuses.burn = _ from none]

/-- With one the attempt is read back (R119). -/
theorem exec_fuseAttemptDone {s t : State} {b : BitBurn} {back : Bool} (hp : s.powered = true)
    (burn : s.fuses.burn = some b) (h : s.clearOut.fuseAttempt b back = t) (ht : t.Quiet) :
    exec (.fuseAttemptDone back) s = .next t := by
  change execFuseAttemptDone back s = _
  refine State.perform_event hp ?_ ht
  rw [show s.clearOut.fuses.burn = _ from burn]
  exact h

/-- The read-back takes the burn out of the fuse array (R119). -/
theorem State.burnRead_burn (s : State) (target : FuseBit) (back : Bool) :
    (s.burnRead target back).fuses.burn = none := by
  cases back <;> rfl

/-- An attempt whose bit burn ends, with the requests that wait (R119). -/
theorem State.fuseAttempt_ends {s : State} {b : BitBurn} {back : Bool} {o : BurnOutcome}
    {queue : List BurnRequest} (waits : s.fuses.queue = queue) (ends : b.ends back s.supply.normal = some o) :
    s.fuseAttempt b back = ((takeQueue queue (s.burnRead b.target back)).1.burnEnded b.owner b.target o).queueEnded
      (takeQueue queue (s.burnRead b.target back)).2 := by
  subst waits
  simp only [State.fuseAttempt_eq, ends]

/-- The first waiting request's end at once, told to its requester (R119). -/
theorem State.takeQueue_told {t : State} (r : BurnRequest) (quiet : t.out = ⟨[], []⟩) (burn : t.fuses.burn = none)
    (ready : r.owner = .flow → t.down.port = .idle ∧ 0 < t.configGeo.recSize)
    (h : t.fuses.image.burned r.target = true ∨ t.supply.normal = false) :
    (takeQueue [r] t).1.queueEnded (takeQueue [r] t).2 =
      State.burnTold { t with fuses := { t.fuses with queue := [] } } r.owner r.target
        (if t.fuses.image.burned r.target = true then .burned else .supplyStop) := by
  rw [takeQueue_ends r burn h]
  exact State.burnEnded_eq (s := { t with fuses := { t.fuses with queue := [] } }) (fun _ => quiet) burn r.target _
    ready

/-- Settles O47: the rows by their bits, the row by how the attempt's read-back ends and what waits behind it. -/
theorem fuseAttempts : Obligations.FuseAttempts := by
  refine ⟨fun f => ⟨thermometer_le _, fun i => thermometer_burned, fun _ => thermometer_next _, ?life⟩,
    fun f i => ⟨rfl, rfl, rfl⟩, fun f b c h => f.burned_set_iff h c, ?_⟩
  case life =>
    unfold FuseRows.life
    split <;> simp_all
  intro s hp nowork quiet flowReady
  refine ⟨fun none back => exec_fuseAttemptDone_none hp nowork.quiet back none, ?_⟩
  intro b back burn read unqueued
  refine ⟨fun goes => ?again, fun o ends => ⟨fun empty ready => ?told, fun r rest orphan waits =>
    ⟨fun unburned normal => ?takes, fun last ready burned => ?burned, fun last ready unburned low => ?low⟩⟩⟩
  case again =>
    refine exec_fuseAttemptDone hp burn ?_ fun _ => nowork
    rw [State.fuseAttempt_eq, show b.ends back s.clearOut.supply.normal = _ from goes]
    rfl
  case told =>
    refine exec_fuseAttemptDone hp burn ?_ (State.burnTold_quiet (s := read) nowork _ _ _)
    have still : read.fuses.queue = [] := by cases back <;> exact empty
    have queue : takeQueue [] read = (read, []) := by
      rw [← takeQueue_empty read still, still]
    rw [State.fuseAttempt_ends (s := s.clearOut) empty ends, show s.clearOut.burnRead b.target back = read from rfl,
      queue]
    exact State.burnEnded_eq (s := read) (fun _ => rfl) (State.burnRead_burn _ _ _) _ _ ready
  case takes =>
    refine exec_fuseAttemptDone hp burn ?_ fun _ => nowork
    rw [State.fuseAttempt_ends (s := s.clearOut) waits ends, show s.clearOut.burnRead b.target back = read from rfl,
      takeQueue_takes r rest (State.burnRead_burn _ _ _) unburned normal, orphan]
    rfl
  case burned =>
    refine exec_fuseAttemptDone hp burn ?_ (State.burnTold_quiet (s := unqueued []) nowork _ _ _)
    rw [State.fuseAttempt_ends (s := s.clearOut) waits ends, last, orphan]
    refine (State.takeQueue_told (t := read) r rfl (State.burnRead_burn _ _ _) ready (.inl burned)).trans ?_
    rw [if_pos burned]
  case low =>
    refine exec_fuseAttemptDone hp burn ?_ (State.burnTold_quiet (s := unqueued []) nowork _ _ _)
    rw [State.fuseAttempt_ends (s := s.clearOut) waits ends, last, orphan]
    refine (State.takeQueue_told (t := read) r rfl (State.burnRead_burn _ _ _) ready (.inr low)).trans ?_
    rw [if_neg fun burned => Bool.false_ne_true (unburned.symm.trans burned)]

end Sys2Proof.Machine

/-! The entries into LOW and NORMAL (R71, R91, R113, R122, R131). -/

namespace Sys2Proof.Machine

/-- The monitor moved, with its cause pending outside S0 and the buses quiet (R129, R131). -/
def State.supplyMoved (s : State) (normal : Bool) (cause : BitVec 11) : State :=
  { s with
    out := ⟨[], []⟩
    supply := { s.supply with normal := normal, run := 0 }
    events := { s.events with pending :=
      if s.stage = .s0 then s.events.pending else s.events.pending ||| cause } }

/-- The entry into LOW (R71, R131). -/
theorem State.enterLow_clear (s : State) : s.clearOut.enterLow = (s.supplyMoved false 4).observeAbort := by
  rw [State.enterLow, State.raiseOutsideS0_eq]
  rfl

/-- The entry into NORMAL (R91, R113, R122, R131). -/
theorem State.enterNormal_clear (s : State) : s.clearOut.enterNormal =
    (s.supplyMoved true 8).resumeFlowBurns.resumeDeploy.requestDeferred :=
  s.clearOut.enterNormal_eq

/-- ENTRY_INTO_LOW from NORMAL (R131). -/
theorem exec_entryIntoLow {s t : State} (hp : s.powered = true) (normal : s.supply.normal = true)
    (h : (s.supplyMoved false 4).observeAbort = t) (ht : t.Quiet) : exec .entryIntoLow s = .next t := by
  change execEntryIntoLow s = _
  refine State.perform_event hp ?_ ht
  rw [if_pos (show s.clearOut.supply.normal = true from normal), State.enterLow_clear]
  exact h

/-- ENTRY_INTO_NORMAL from LOW, and what an idle engine then starts (R68, R131). -/
theorem exec_entryIntoNormal {s t : State} (hp : s.powered = true) (low : s.supply.normal = false)
    (h : (s.supplyMoved true 8).resumeFlowBurns.resumeDeploy.requestDeferred.settled = t) :
    exec .entryIntoNormal s = .next t := by
  have still : ¬ s.clearOut.supply.normal = true := fun normal => Bool.false_ne_true (low.symm.trans normal)
  change execEntryIntoNormal s = _
  rw [execEntryIntoNormal, State.perform, if_pos hp, if_neg still, State.enterNormal_clear, h]

/-- With the deferral flag clear FLOOR_BURN is not requested (R113). -/
theorem State.requestDeferred_clear {s : State} (h : s.slots.deferral = false) : s.requestDeferred = s :=
  if_neg (Bool.eq_false_iff.1 h)

/-- With it set FLOOR_BURN is (R113). -/
theorem State.requestDeferred_set {s : State} (h : s.slots.deferral = true) :
    s.requestDeferred = s.requestJob .floorBurn :=
  if_pos h

/-- PROV_DEPLOY's burn goes on (R122). -/
theorem State.resumeDeploy_goesOn {s : State} {bit : Nat} (h : s.engine.state = .command (.deployBurn bit true)) :
    s.resumeDeploy = s.deployTry bit := by
  simp only [State.resumeDeploy, h]

/-- Settles O48: LOW by whether an abort is observed, NORMAL by what waits for it. -/
theorem supplyEntries : Obligations.SupplyEntries := by
  intro s hp nowork quiet moved
  refine ⟨fun low => ?low, fun normal keeps => ?keeps, fun w normal requested he point waits => ?stops,
    fun normal => ?normal, fun low flow deferral deploy => ⟨fun busy => ?busy, fun idle => ?idle⟩,
    fun q low deferral idle phase port size => ?flow,
    fun low deferral flow => ⟨fun deploy => ?alone, fun bit he burn unburned => ?deploy⟩⟩
  case low =>
    change execEntryIntoLow s = _
    refine State.perform_event hp ?_ nowork.quiet
    exact if_neg fun normal => Bool.false_ne_true (low.symm.trans normal)
  case keeps =>
    refine exec_entryIntoLow hp normal ?_ nowork.quiet
    exact State.observeAbort_keeps fun w he requested _ point => keeps w requested he point
  case stops =>
    refine exec_entryIntoLow hp normal ?_ (State.finished_quiet nowork _)
    exact State.observeAbort_stops (s := s.supplyMoved false 4) rfl he requested rfl point waits
  case normal =>
    change execEntryIntoNormal s = _
    refine State.perform_event hp ?_ nowork.quiet
    rw [if_pos (show s.clearOut.supply.normal = true from normal)]
    rfl
  case busy =>
    refine exec_entryIntoNormal hp low ?_
    rw [State.resumeFlowBurns_none (by rw [show (s.supplyMoved true 8).flow.phase = _ from flow]; nofun),
      State.resumeDeploy_none (by exact deploy), State.requestDeferred_set (by exact deferral)]
    exact State.settled_quiet (State.quiet_of_busy busy)
  case idle =>
    obtain ⟨reset, floor, held⟩ := nowork
    have unasked : ({ s.engine with floorBurnPending := false } : Engine) = s.engine := by rw [← floor]
    refine exec_entryIntoNormal hp low ?_
    rw [State.resumeFlowBurns_none (by rw [show (s.supplyMoved true 8).flow.phase = _ from flow]; nofun),
      State.resumeDeploy_none (by exact deploy), State.requestDeferred_set (by exact deferral)]
    refine (State.settled_floorBurn (s := (s.supplyMoved true 8).requestJob .floorBurn) idle reset rfl held).trans ?_
    exact congrArg (fun e => State.burnsGoOn { moved true 8 with
      engine := e, slots := { s.slots with deferral := false } } .job ⟨false, false, false⟩) unasked
  case flow =>
    obtain ⟨engine, slots⟩ := (moved true 8).burnsGoOn_flow_keeps q
    refine exec_entryIntoNormal hp low ?_
    rw [State.resumeFlowBurns_waits (s := s.supplyMoved true 8) phase port size,
      State.resumeDeploy_none, State.requestDeferred_clear]
    · exact State.settled_quiet (State.burnsGoOn_quiet (s := moved true 8) nowork _ _)
    · exact slots.trans deferral
    · intro bit here
      exact nomatch idle.symm.trans ((congrArg Engine.state engine).symm.trans here)
  case alone =>
    refine exec_entryIntoNormal hp low ?_
    rw [State.resumeFlowBurns_none (by exact flow), State.resumeDeploy_none (by exact deploy),
      State.requestDeferred_clear (by exact deferral)]
    exact State.settled_quiet nowork.quiet
  case deploy =>
    refine exec_entryIntoNormal hp low ?_
    rw [State.resumeFlowBurns_none (by exact flow), State.resumeDeploy_goesOn (s := s.supplyMoved true 8) he,
      State.deployTry_unburned (s := s.supplyMoved true 8) unburned rfl,
      State.requestDeferred_clear (by exact deferral)]
    refine (State.settled_quiet (State.quiet_of_busy ?_)).trans ?_
    · exact fun h => EngineState.noConfusion h
    · rw [State.asksBurn, show (s.supplyMoved true 8).fuses.burn = none from burn]
      rfl

end Sys2Proof.Machine

/-! The internal jobs OWNER_RESET and FLOOR_BURN (R68, R113, R114, R176, R177). -/

namespace Sys2Proof.Machine

/-! ### A job's request -/

/-- An idle engine with nothing pending is as it was once a job has left the pending-job set. -/
theorem Engine.unasked {e : Engine} (reset : e.ownerResetPending = false) (floor : e.floorBurnPending = false) :
    { e with ownerResetPending := false } = e ∧ { e with floorBurnPending := false } = e := by
  obtain ⟨state, o, f, a, d⟩ := e
  exact ⟨congrArg (fun b => (⟨state, b, f, a, d⟩ : Engine)) reset.symm,
    congrArg (fun b => (⟨state, o, b, a, d⟩ : Engine)) floor.symm⟩

/-- An idle engine is idle. -/
theorem Engine.rested {e : Engine} (idle : e.state = .idle) : { e with state := .idle } = e := by
  rw [← idle]

/-- OWNER_RESET requested of an idle engine starts the wipe (R68, R176). -/
theorem State.requestReset_settled {s : State} (nowork : s.NoWork) (idle : s.engine.state = .idle) :
    (s.requestJob .ownerReset).settled = s.wiping := by
  obtain ⟨reset, floor, _⟩ := nowork
  refine (State.settled_ownerReset (s := s.requestJob .ownerReset) idle rfl).trans ?_
  exact congrArg (fun e => State.wiping { s with engine := e }) (Engine.unasked reset floor).1

/-- FLOOR_BURN requested of an idle engine clears the deferral flag and starts its burns (R68, R113, R114). -/
theorem State.requestFloor_settled {s : State} (nowork : s.NoWork) (idle : s.engine.state = .idle) :
    (s.requestJob .floorBurn).settled =
      State.burnsGoOn { s with slots := { s.slots with deferral := false } } .job ⟨false, false, false⟩ := by
  obtain ⟨reset, floor, held⟩ := nowork
  refine (State.settled_floorBurn (s := s.requestJob .floorBurn) idle reset rfl held).trans ?_
  exact congrArg (fun e => State.burnsGoOn { s with
    engine := e, slots := { s.slots with deferral := false } } .job ⟨false, false, false⟩)
    (Engine.unasked reset floor).2

/-! ### A completed write of a job -/

/-- The job of a completed write is told (R125, R176). -/
theorem exec_recordWriteComplete_job {s t : State} {w : Writing} {work : JobWork} (hp : s.powered = true)
    (he : s.engine.state = .job work) (hw : s.records.writing = some w) (own : ∃ q ∈ w.requesters, q.who = .job)
    (hno : ∀ q ∈ w.requesters, ∀ f v, q.change ≠ .confirm f v)
    (h : ((s.clearOut.storedWrite w).tellJob w.record work).observeAbort = t) (ht : t.Quiet) :
    exec .recordWriteComplete s = .next t := by
  change execRecordWriteComplete s = _
  refine State.perform_event hp ?_ ht
  rw [State.recordComplete_of_no_confirm (s := s.clearOut) hw hno]
  exact (congrArg State.observeAbort (State.tell_job (s := s.clearOut.storedWrite w) he own)).trans h

/-- A job's work is no command's (R71). -/
theorem State.observeAbort_of_job {s : State} {w : JobWork} (h : s.engine.state = .job w) : s.observeAbort = s := by
  simp only [State.observeAbort, h]

/-- The wipe goes on with the writes it still awaits (R176). -/
theorem State.wipeNext_more {s : State} {awaited : List RecordId} (more : awaited ≠ []) :
    s.wipeNext awaited = s.jobOn (.wipe awaited) := by
  obtain ⟨r, rs, rfl⟩ := List.exists_cons_of_ne_nil more
  rfl

/-- Its last write done the COUNTERS write is asked for (R176). -/
theorem State.wipeCounters_unfinished {s : State} (h : s.cred.wipeUnfinished = true) :
    s.wipeCounters = s.wipeCounting :=
  if_pos h

/-- Where the flag has been cleared the job ends (R177). -/
theorem State.wipeCounters_finished {s : State} (h : s.cred.wipeUnfinished = false) :
    s.wipeCounters = s.ownerResetEnd :=
  if_neg (Bool.eq_false_iff.1 h)

/-! ### A completed chunk -/

/-- The port freed of a completed chunk (R31). -/
def State.chunkTaken (s : State) : State :=
  { s with down := { s.down with port := .idle, chunk := ⟨0, 0, [], .none⟩ } }

/-- A chunk in flight whose bytes have all come (R31). -/
theorem exec_chunkComplete {s t : State} {data : List Byte} (hp : s.powered = true)
    (flight : s.down.chunk.st = .inFlight) (whole : s.down.chunk.length ≤ (s.down.chunk.got ++ data).length)
    (h : (s.clearOut.chunkTaken.chunkDone ((s.down.chunk.got ++ data).take s.down.chunk.length)).settled = t) :
    exec (.chunkComplete data) s = .next t := by
  have done : s.clearOut.chunkBytes data =
      s.clearOut.chunkTaken.chunkDone ((s.down.chunk.got ++ data).take s.down.chunk.length) := by
    unfold State.chunkBytes
    rw [show s.clearOut.down.chunk.st = .inFlight from flight]
    exact if_neg (Nat.not_lt.2 whole)
  change execChunkComplete data s = _
  rw [execChunkComplete, State.perform, if_pos hp, done, h]

/-- Without UPDATE_VERIFY at work the chunk goes to the flow (R31). -/
theorem State.chunkDone_idle {s : State} (idle : s.engine.state = .idle) (bytes : List Byte) :
    s.chunkDone bytes = s.flowChunk bytes := by
  simp only [State.chunkDone, idle]

/-- The loader's chunk goes to its digest (R95). -/
theorem State.flowChunk_loader {s : State} (phase : s.flow.phase = .loader) (bytes : List Byte) :
    s.flowChunk bytes = State.onLoader (s.feedLoader s.configGeo bytes) := by
  simp only [State.flowChunk, phase]
  rfl

/-- The digest and the cursor past more of the loader's bytes (R95). -/
def VerEngine.fed (v : VerEngine) (bytes : List Byte) : VerEngine :=
  { v with cursor := v.cursor + bytes.length, sha := shaUpdate v.sha bytes }

/-- With the loader's last byte its digest is finished (R95). -/
theorem State.feedLoader_last {s : State} {g : Geometry} {bytes : List Byte}
    (last : g.recSize ≤ s.ve.cursor + bytes.length) : s.feedLoader g bytes =
      ({ s with ve := { s.ve.fed bytes with work := .none } }, some (shaFinish (s.ve.fed bytes).sha)) :=
  if_neg (Nat.not_lt.2 last)

/-- RECOVERY's loader read to its end with an owner reset left unfinished (R95, R96, R177). -/
theorem State.leavesRecovery_unfinished {s : State} (digest : List Byte) (mode : s.filter.mode = .recovery)
    (h : s.cred.wipeUnfinished = true) : ∃ t : State, s.leavesRecovery digest = t.wiping ∧ t.stage = .unset ∧
      t.cred = s.cred ∧ t.keys = s.keys ∧ t.records = s.records ∧ t.engine = s.engine := by
  refine ⟨State.freed _, if_pos h, ?_, rfl, rfl, rfl, rfl⟩
  refine if_neg fun runs => ?_
  exact absurd (of_decide_eq_true runs) (by rw [show (s.logs _).filter.mode = _ from mode]; nofun)

/-! ### The floor's burns -/

/-- With no pending revocation unburned none is due (R111). -/
theorem State.not_revokeDue {s : State} (h : s.slots.pendingRevoke &&& ~~~ s.fuses.image.revoke = 0) {i : Nat}
    (row : i < 2) : ¬ s.revokeDue i := by
  rintro ⟨pending, unburned⟩
  have bit := congrArg (fun v : BitVec 2 => v.getLsbD i) h
  simp only [BitVec.getLsbD_and, BitVec.getLsbD_not, pending, unburned, row, decide_true, Bool.not_false,
    Bool.and_self] at bit
  exact Bool.false_ne_true (BitVec.getLsbD_zero.symm.trans bit.symm)

/-- Settles O53: the request by the engine's state, the wipe by the writes it awaits, the burns by what is due. -/
theorem internalJobs : Obligations.InternalJobs := by
  intro s hp nowork quiet owner
  have deployed : s.clearOut.life = .deployed ∧ s.clearOut.stage ≠ .s0 ↔ owner :=
    (and_congr_left' s.life_deployed_iff).trans and_comm
  refine ⟨fun no => ?no, fun own busy => ?busy, fun own idle => ?idle, fun awaited w he hw own noConfirm => ?wipe,
    fun why => rfl, fun data phase idle flight whole mode last unfinished => ?loader,
    fun w he hw own noConfirm => ?counters, fun stage => ?stage, fun outside busy => ?floorBusy,
    fun outside idle => ?floorIdle⟩
  case no =>
    change execOwnerReset s = _
    exact State.perform_event hp (if_neg (mt deployed.1 no)) nowork.quiet
  case busy =>
    change execOwnerReset s = _
    exact State.perform_event hp (if_pos (deployed.2 own)) (State.quiet_of_busy busy)
  case idle =>
    change execOwnerReset s = _
    rw [execOwnerReset, State.perform, if_pos hp, if_pos (deployed.2 own),
      State.requestReset_settled (s := s.clearOut) nowork idle]
    rfl
  case wipe =>
    intro t
    refine ⟨fun more => ?_, fun last unfinished => ?_, fun last finished => ?_⟩
    · refine exec_recordWriteComplete_job hp he hw own noConfirm ?_ fun h => nomatch h
      rw [State.tellJob, State.wipeNext_more more, State.observeAbort_of_job rfl]
      rfl
    · refine exec_recordWriteComplete_job hp he hw own noConfirm ?_ fun h => nomatch h
      rw [State.tellJob, last, State.wipeNext, State.wipeCounters_unfinished (by exact unfinished),
        State.observeAbort_of_job rfl]
      rfl
    · refine exec_recordWriteComplete_job hp he hw own noConfirm ?_ fun _ => nowork
      rw [State.tellJob, last, State.wipeNext, State.wipeCounters_finished (by exact finished),
        State.ownerResetEnd_eq, State.observeAbort_of_idle rfl]
      rfl
  case loader =>
    obtain ⟨bytes, received⟩ : ∃ bytes, (s.down.chunk.got ++ data).take s.down.chunk.length = bytes := ⟨_, rfl⟩
    have size : bytes.length = s.down.chunk.length := by
      rw [← received]
      exact List.length_take_of_le whole
    let taken := s.clearOut.chunkTaken
    let measured : State := { taken with ve := { s.ve.fed bytes with work := .none } }
    have row : exec (.chunkComplete data) s = .next (measured.leavesRecovery (shaFinish (s.ve.fed bytes).sha)) := by
      refine exec_chunkComplete hp flight whole ?_
      rw [received, State.chunkDone_idle (s := taken) idle, State.flowChunk_loader (s := taken) phase,
        State.feedLoader_last (s := taken) (size ▸ last)]
      exact State.finishRecovery_settled (s := measured) idle nowork _
    obtain ⟨t, is, stage, cred, keys, records, engine⟩ :=
      State.leavesRecovery_unfinished (s := measured) (shaFinish (s.ve.fed bytes).sha) mode unfinished
    exact ⟨t, row.trans (congrArg _ is), stage, cred, keys, records, engine⟩
  case counters =>
    refine exec_recordWriteComplete_job hp he hw own noConfirm ?_ fun _ => nowork
    rw [State.tellJob, State.ownerResetEnd_eq, State.observeAbort_of_idle rfl]
    rfl
  case stage =>
    change execFloorBurn s = _
    exact State.perform_event hp (if_neg (not_not.2 stage)) nowork.quiet
  case floorBusy =>
    change execFloorBurn s = _
    exact State.perform_event hp (if_pos outside) (State.quiet_of_busy busy)
  case floorIdle =>
    intro c cleared
    have row : exec .floorBurn s = .next (cleared.burnsGoOn .job ⟨false, false, false⟩) := by
      change execFloorBurn s = _
      rw [execFloorBurn, State.perform, if_pos hp, if_pos (show s.clearOut.stage ≠ .s0 from outside),
        State.requestFloor_settled (s := s.clearOut) nowork idle]
      rfl
    refine ⟨row, fun floor none => ?_, fun below fits => ⟨fun low => ?_, fun normal free unburned => ?_⟩⟩
    · rw [row, State.burnsGoOn_none .job (State.nextBit_none (s := cleared) floor
        (State.not_revokeDue (s := cleared) none (by decide)) (State.not_revokeDue (s := cleared) none (by decide)))]
      exact congrArg (fun e => Host.Outcome.next { cleared with
        engine := e, events := { s.events with pending := s.events.pending ||| 512 } }) (Engine.rested idle)
    · rw [row, State.burnsGoOn_low .job (State.nextBit_counter (s := cleared) rfl below fits) low]
      exact congrArg (fun e => Host.Outcome.next { quiet with
        engine := e, slots := { s.slots with deferral := true } }) (Engine.rested idle)
    · rw [row, State.burnsGoOn_normal .job (State.nextBit_counter (s := cleared) rfl below fits) normal,
        State.asksBurn, show cleared.fuses.burn = none from free]
      rfl

end Sys2Proof.Machine

/-! BOOT_FLOW_RESUME on a DEPLOYED part whose recovery loader is 0 bytes long (R93, R95, R96). -/

namespace Sys2Proof.Machine

/-- A DEPLOYED part without a CONFIG record and with both slots EMPTY, its flow in step 2 and able to resume: the
recovery region of the default geometry is 0 bytes long. -/
def State.withoutLoader : State :=
  { State.reset with
    supply := { State.reset.supply with normal := true }
    fuses := { State.reset.fuses with image := { FuseRows.unburned with lifecycle := 1 } } }

/-- The stage that an outcome leaves. -/
def stageAfter : Host.Outcome State Fault Refusal → Option Stage
  | .next t => some t.stage
  | .fault _ => none
  | .refused _ => none

/-- There the flow enters RECOVERY, whose loader is read to its end at once, and the release step has made the
stage UNSET before the row ends (R95, R96). -/
theorem State.withoutLoader_released :
    stageAfter (exec (.bootFlowResume 0 0 0) State.withoutLoader) = some .unset := rfl

/-- Refutes O52: with nothing due and no candidate the last clause leaves the stage as it was, whatever the length
of the recovery loader; with a loader of 0 bytes the row goes on to the release step. -/
theorem not_flowResumes : ¬ Obligations.FlowResumes := by
  intro h
  obtain ⟨_, resumes⟩ := h State.withoutLoader 0 0 0 rfl fun _ => ⟨rfl, rfl, rfl⟩
  obtain ⟨_, _, _, _, nothingDue⟩ := resumes ⟨rfl, rfl, rfl, nofun⟩
  obtain ⟨t, run, stage, _⟩ := nothingDue (by decide) (by decide) (by decide) rfl
  have left : some t.stage = some Stage.unset := by
    rw [← State.withoutLoader_released, run]
    rfl
  rw [stage] at left
  exact nomatch left

end Sys2Proof.Machine

/-! POWER_LOSS and POWER_ON (R76, R116, R118 to R120, R123, R125). -/

namespace Sys2Proof.Machine

/-! ### An unpowered part -/

/-- An unpowered part performs nothing (assumption 1). -/
theorem State.perform_unpowered {s : State} (off : s.powered = false) (body : State → State) :
    s.perform body = .next s.clearOut := by
  rw [State.perform, if_neg (Bool.eq_false_iff.1 off)]

/-- It takes no command but POWER_ON (assumption 1). -/
theorem exec_unpowered {s : State} {c : Instr} (off : s.powered = false)
    (h : ∀ sensed pin, c ≠ .powerOn sensed pin) : exec c s = .next s.clearOut := by
  cases c with
  | powerOn sensed pin => exact absurd rfl (h sensed pin)
  | _ =>
    simp only [exec]
    exact State.perform_unpowered off _

/-! ### The fuses -/

/-- The doubtful bits after a loss of power (R116, R119). -/
def FuseArray.cut (f : FuseArray) : List FuseBit :=
  match f.burn with
  | none => f.doubtful
  | some b =>
    if b.target ∈ f.doubtful ∨ f.array.burned b.target = true then f.doubtful else f.doubtful ++ [b.target]

/-- The array at a loss of power (R116, R119). -/
theorem FuseArray.powerLost_eq (f : FuseArray) : f.powerLost = ⟨f.image, f.array, f.cut, none, []⟩ := by
  obtain ⟨image, array, doubtful, burn, queue⟩ := f
  cases burn with
  | none => rfl
  | some b =>
    simp only [FuseArray.powerLost, FuseArray.cut, Bool.or_eq_true, List.contains_iff_mem]

/-- A bit of a row after one more burned, be that one in a row or not (R116). -/
theorem getLsbD_burn_row {n : Nat} (v : BitVec n) (i : Nat) {j : Nat} (h : j < n) :
    (v ||| 1#n <<< i).getLsbD j = true ↔ v.getLsbD j = true ∨ j = i := by
  rw [BitVec.getLsbD_or, Bool.or_eq_true, BitVec.getLsbD_shiftLeft, BitVec.getLsbD_one]
  refine or_congr_right ?_
  simp only [Bool.and_eq_true, Bool.not_eq_true', decide_eq_true_eq, decide_eq_false_iff_not]
  omega

/-- A bit of a row after one more burned (R116). -/
theorem FuseRows.burned_set_row (f : FuseRows) (b : FuseBit) {c : FuseBit} (h : c.inRow = true) :
    (f.set b).burned c = true ↔ f.burned c = true ∨ c = b := by
  obtain ⟨row, i⟩ := b
  obtain ⟨row', j⟩ := c
  have within : j < row'.width := of_decide_eq_true h
  cases row <;> cases row' <;>
    simp only [FuseRows.set, FuseRows.burned, FuseBit.mk.injEq, reduceCtorEq, true_and, false_and, or_false]
  · exact getLsbD_burn_row _ i within
  · exact getLsbD_burn_row _ i within
  · exact getLsbD_burn_row _ i within

/-- A bit of a row after several (R116). -/
theorem FuseRows.burned_foldl_row (l : List FuseBit) {c : FuseBit} (h : c.inRow = true) (f : FuseRows) :
    (l.foldl FuseRows.set f).burned c = true ↔ f.burned c = true ∨ c ∈ l := by
  induction l generalizing f with
  | nil => simp
  | cons b l ih => rw [List.foldl_cons, ih, f.burned_set_row b h, List.mem_cons, or_assoc]

/-- The calibration value in the image (R118; assumption 10). -/
theorem FuseRows.calMv_eq (f : FuseRows) : f.calMv = f.calibration.toNat % 65536 := by
  simp [FuseRows.calMv]

/-- The CALIBRATION image's validity (R118; assumption 10). -/
theorem FuseRows.calValid_iff (f : FuseRows) : f.calValid = true ↔
    let calMv := f.calibration.toNat % 65536
    1100 ≤ calMv ∧ calMv ≤ 1300 ∧ f.calibration.toNat / 65536 = 65535 - calMv := by
  have high : f.calCheck = f.calibration.toNat / 65536 := by
    have := f.calibration.isLt
    simp [FuseRows.calCheck, Nat.shiftRight_eq_div_pow]
    omega
  simp only [FuseRows.calValid, f.calMv_eq, high, Bool.and_eq_true, decide_eq_true_eq]
  omega

/-! ### The slots -/

/-- A slot loaded below the floor (R76). -/
theorem SlotRec.belowFloor_eq (r : SlotRec) (floor : Nat) : r.belowFloor floor =
    (decide (r.state = .verified ∨ r.state = .armed ∨ r.state = .trial ∨ r.state = .active ∨ r.state = .spare) &&
      r.summary.any fun m => decide (m.securityVersion < floor)) := by
  obtain ⟨state, prior, reason, summary⟩ := r
  cases state <;> cases summary <;> rfl

/-- A slot that power-on finds below the floor, FAILED with its summary kept (R76). -/
def SlotRec.rolledBack (r : SlotRec) (floor : Nat) : SlotRec :=
  if r.belowFloor floor = true then ⟨.failed, .failed, .rollback, r.summary⟩ else r

/-- A slot looked at, its write asked for where it fails (R76, R79). -/
theorem State.rollBack_eq (s : State) (x : SlotId) : s.rollBack x = { s with
    slots := s.slots.put x ((s.slot x).rolledBack s.effFloor)
    records := { s.records with waiting :=
      (if (s.slot x).belowFloor s.effFloor = true then
        requestIn s.records.waiting (.slot x) ⟨.block, .asIs⟩
      else s.records.waiting) } } := by
  unfold State.rollBack SlotRec.rolledBack
  by_cases low : (s.slot x).belowFloor s.effFloor = true
  · rw [if_pos low, if_pos low, if_pos low]
    rfl
  · rw [if_neg low, if_neg low, if_neg low]
    cases x <;> rfl

/-- The writes that both slots ask for, in order (R79). -/
theorem slotWrites_eq {a b : SlotRec} (low : SlotRec → Bool) :
    (if low b = true then
      requestIn (if low a = true then requestIn [] (.slot .a) ⟨.block, .asIs⟩ else []) (.slot .b) ⟨.block, .asIs⟩
      else if low a = true then requestIn [] (.slot .a) ⟨.block, .asIs⟩ else []) =
    ([(SlotId.a, a), (.b, b)].filter fun x => low x.2).map fun x => ⟨.slot x.1, [⟨.block, .asIs⟩]⟩ := by
  cases one : low a <;> cases two : low b <;> simp [one, two, requestIn]

/-- Both slots looked at (R76, R79). -/
theorem State.rollBack_both {u : State} {store : Store} (idle : u.records = ⟨store, [], none⟩) :
    (u.rollBack .a).rollBack .b = { u with
      slots := { u.slots with
        slotA := u.slots.slotA.rolledBack u.effFloor
        slotB := u.slots.slotB.rolledBack u.effFloor }
      records := ⟨store, ([(SlotId.a, u.slots.slotA), (.b, u.slots.slotB)].filter fun x =>
        x.2.belowFloor u.effFloor).map fun x => ⟨.slot x.1, [⟨.block, .asIs⟩]⟩, none⟩ } := by
  rw [← slotWrites_eq fun r => r.belowFloor u.effFloor, State.rollBack_eq u, State.rollBack_eq, idle]
  rfl

/-! ### What power-on reads -/

/-- The rows sensed, and the bits left doubtful (R116, R120; assumption 14). -/
theorem FuseArray.sense_eq (f : FuseArray) (sensed : List FuseBit) : f.sense sensed =
    let rows := (f.doubtful.filter fun b => decide (b ∈ sensed)).foldl FuseRows.set f.array
    ⟨rows, rows, f.doubtful.filter fun b => decide (b ∉ sensed), f.burn, f.queue⟩ := by
  simp only [FuseArray.sense, FuseArray.sensedRows, List.contains_eq_mem, decide_not]

/-- The Slot Table from the stored records (R76, R90, R99, R113, R123). -/
theorem SlotTable.loaded_eq (t : Store) : SlotTable.loaded t =
    let n := t.counters.getD ⟨0, .powerOn, 0, 0, 0, 0⟩
    ⟨SlotRec.load t.slotA, SlotRec.load t.slotB, n.pendingFloor, n.pendingRevoke, false, n.bootCounter,
      n.lastReason⟩ := by
  unfold SlotTable.loaded
  cases t.counters <;> rfl

/-- The Credential Store from the stored records (R161, R162, R164, R176). -/
theorem CredStore.loaded_eq (t : Store) : CredStore.loaded t =
    let n := t.counters.getD ⟨0, .powerOn, 0, 0, 0, 0⟩
    ⟨t.creds.map fun k => k.getD .empty, false, n.failCount, n.ownerEpoch, false,
      (t.config.getD ConfigRec.default).gateIdle⟩ := by
  unfold CredStore.loaded
  cases t.counters <;> rfl

/-- The Supply Monitor from CONFIG and the CALIBRATION image (R118, R130, R132). -/
theorem Supply.loaded_eq (t : Store) (f : FuseRows) : Supply.loaded t f =
    let c := t.config.getD ConfigRec.default
    let calMv := f.calibration.toNat % 65536
    let calValid := 1100 ≤ calMv ∧ calMv ≤ 1300 ∧ f.calibration.toNat / 65536 = 65535 - calMv
    ⟨false, 0, 0, c.threshold, c.hysteresis, c.samples, if calValid then calMv else 1200, decide (¬ calValid)⟩ := by
  have valid : f.calValid = decide (1100 ≤ f.calibration.toNat % 65536 ∧ f.calibration.toNat % 65536 ≤ 1300 ∧
      f.calibration.toNat / 65536 = 65535 - f.calibration.toNat % 65536) := by
    rw [Bool.eq_iff_iff, f.calValid_iff, decide_eq_true_iff]
  simp only [Supply.loaded, FuseRows.calibrationValue, valid, f.calMv_eq, decide_eq_true_eq, decide_not]
  rfl

/-- Settles O51: a loss keeps records and array alone, and power-on is read off what it has left, slot by slot. -/
theorem powerLossAndPowerOn : Obligations.PowerLossAndPowerOn := by
  intro s cut store off noKey fresh
  have lost : s.clearOut.losePower = fresh := by
    simp only [State.losePower, State.clearOut_fuses, FuseArray.powerLost_eq]
    rfl
  refine ⟨fun on => ?loss, fun unpowered c h => exec_unpowered unpowered h, ?on⟩
  case loss =>
    change execPowerLoss s = _
    exact State.perform_event on lost fun _ => ⟨rfl, rfl, rfl⟩
  case on =>
    intro sensed pin rows c n calMv calValid loadedOf low become a b
    obtain ⟨deviceId, calibration⟩ := FuseRows.foldl_set_fixed (cut.filter fun b => decide (b ∈ sensed)) s.fuses.array
    refine ⟨?_, deviceId, calibration, fun bit row => ?_⟩
    · change Host.Outcome.next (s.clearOut.losePower.applyPower sensed pin) = _
      rw [lost, State.applyPower, State.rollBack_both rfl]
      simp only [SlotTable.loaded_eq, CredStore.loaded_eq, Supply.loaded_eq, FuseArray.sense_eq, State.effFloor,
        SlotRec.rolledBack, SlotRec.belowFloor_eq]
      rfl
    · refine (FuseRows.burned_foldl_row _ row _).trans ?_
      simp only [List.mem_filter, decide_eq_true_eq]

end Sys2Proof.Machine

/-! Presses, releases and expiries (R13, R14, R163, R164, R174, R175). -/

namespace Sys2Proof.Machine

/-! ### The button -/

/-- The level as it changes, no comparison counted (R174). -/
def State.levelled (s : State) (pressed : Bool) : State :=
  { s.clearOut with presence := { s.presence with level := pressed, ticks := 0 } }

/-- The Presence Unit in a new state (R174). -/
def State.into (s : State) (p : PresenceState) : State := { s with presence := { s.presence with state := p } }

/-- PRESENCE started (R174). -/
def State.timing (s : State) (count : Nat) : State :=
  { s with timers := { s.timers with presence := ⟨count, 0, .running, false⟩ } }

/-- A press outside S0 begins the hold from IDLE and PROVEN alone; in S0 it changes the level alone (R174, R175). -/
theorem State.press_clear (s : State) : s.clearOut.press =
    if s.stage ≠ .s0 ∧ (s.presence.state = .idle ∨ s.presence.state = .proven) then
      ((s.levelled true).into .pressed).timing (s.presence.holdTime * 10)
    else s.levelled true := by
  change (if s.stage = .s0 then s.levelled true else
    match s.presence.state with
    | .idle | .proven => ((s.levelled true).into .pressed).timing (s.presence.holdTime * 10)
    | .pressed | .waitRelease => s.levelled true) = _
  by_cases st : s.stage = .s0
  · rw [if_pos st, if_neg fun h => h.1 st]
  · rw [if_neg st]
    cases h : s.presence.state with
    | idle => exact (if_pos ⟨st, .inl rfl⟩).symm
    | proven => exact (if_pos ⟨st, .inr rfl⟩).symm
    | pressed | waitRelease => exact (if_neg fun h => h.2.elim nofun nofun).symm

/-- A release outside S0 proves a hold that PRESENCE has not ended, and ends the wait (R174, R175). -/
theorem State.letGo_clear (s : State) : s.clearOut.letGo =
    if s.stage ≠ .s0 ∧ s.presence.state = .pressed then
      { ((s.levelled false).into .proven).timing 1200 with
        events := { s.events with pending := s.events.pending ||| 16 } }
    else if s.stage ≠ .s0 ∧ s.presence.state = .waitRelease then (s.levelled false).into .idle
    else s.levelled false := by
  change (if s.stage = .s0 then s.levelled false else
    match s.presence.state with
    | .pressed => { ((s.levelled false).into .proven).timing 1200 with
        events := { s.events with pending := s.events.pending ||| 16 } }
    | .waitRelease => (s.levelled false).into .idle
    | .idle | .proven => s.levelled false) = _
  by_cases st : s.stage = .s0
  · rw [if_pos st, if_neg fun h => h.1 st, if_neg fun h => h.1 st]
  · rw [if_neg st]
    cases h : s.presence.state with
    | pressed => exact (if_pos ⟨st, rfl⟩).symm
    | waitRelease => exact ((if_neg fun h => nomatch h.2).trans (if_pos ⟨st, rfl⟩)).symm
    | idle | proven => exact ((if_neg fun h => nomatch h.2).trans (if_neg fun h => nomatch h.2)).symm

/-- A press (R174). -/
theorem exec_press {s : State} (on : s.powered = true) (quiet : s.Quiet) : exec .press s = .next
    (if s.presence.level = true then s.clearOut
    else if s.stage ≠ .s0 ∧ (s.presence.state = .idle ∨ s.presence.state = .proven) then
      ((s.levelled true).into .pressed).timing (s.presence.holdTime * 10)
    else s.levelled true) := by
  change execPress s = _
  refine State.perform_event on (congrArg (ite _ s.clearOut) s.press_clear) ?_
  (repeat' split) <;> exact quiet

/-- A release (R174). -/
theorem exec_release {s : State} (on : s.powered = true) (quiet : s.Quiet) : exec .release s = .next
    (if s.presence.level = false then s.clearOut
    else if s.stage ≠ .s0 ∧ s.presence.state = .pressed then
      { ((s.levelled false).into .proven).timing 1200 with
        events := { s.events with pending := s.events.pending ||| 16 } }
    else if s.stage ≠ .s0 ∧ s.presence.state = .waitRelease then (s.levelled false).into .idle
    else s.levelled false) := by
  change execRelease s = _
  refine State.perform_event on ?_ ?_
  · cases level : s.presence.level with
    | false => exact if_neg (Bool.eq_false_iff.1 level)
    | true => exact (if_pos level).trans s.letGo_clear
  · (repeat' split) <;> exact quiet

/-! ### The expiries -/

/-- PRESENCE's expiry taken (R13). -/
def State.presenceGone (s : State) : State :=
  { s.clearOut with timers := { s.timers with presence := ⟨0, 0, .expired, false⟩ } }

/-- What PRESENCE's expiry does, by the Presence Unit's state (R174, R176). -/
theorem State.presenceExpires_clear (s : State) : s.clearOut.presenceExpires =
    match s.presence.state with
    | .pressed =>
      match s.life with
      | .deployed => (s.presenceGone.into .waitRelease).requestJob .ownerReset
      | .factory => s.presenceGone.into .waitRelease
    | .proven => s.presenceGone.into .idle
    | .idle | .waitRelease => s.presenceGone := rfl

/-- PRESENCE's expiry where it asks nothing of an idle engine (R13, R174). -/
theorem exec_presenceExpiry {s t : State} (on : s.powered = true) (due : s.timers.presence.due = true)
    (h : s.clearOut.presenceExpires = t) (quiet : t.Quiet) : exec .presenceExpiry s = .next t := by
  change execPresenceExpiry s = _
  exact State.perform_event on ((if_pos due).trans h) quiet

/-- PRESENCE's expiry that starts OWNER_RESET (R68, R174, R176). -/
theorem exec_presenceExpiry_wipes {s : State} (on : s.powered = true) (quiet : s.Quiet)
    (due : s.timers.presence.due = true) (held : s.presence.state = .pressed) (life : s.life = .deployed)
    (idle : s.engine.state = .idle) : exec .presenceExpiry s = .next (s.presenceGone.into .waitRelease).wiping := by
  have asked : s.clearOut.presenceExpires = (s.presenceGone.into .waitRelease).requestJob .ownerReset := by
    rw [State.presenceExpires_clear, held, life]
  change execPresenceExpiry s = _
  rw [execPresenceExpiry, State.perform, if_pos on,
    if_pos (show s.clearOut.timers.presence.canExpire = true from due), asked,
    State.requestReset_settled (s := s.presenceGone.into .waitRelease) (quiet idle) idle]

/-- GATE's expiry closes the gate (R13, R163). -/
theorem exec_gateExpiry {s : State} (on : s.powered = true) (quiet : s.Quiet) : exec .gateExpiry s = .next
    (if s.timers.gate.due = true then
      { s.clearOut with
        cred := { s.cred with gateOpen := false }
        timers := { s.timers with gate := ⟨0, 0, .stopped, false⟩ }
        events := { s.events with pending :=
          if s.cred.gateOpen = true then s.events.pending ||| 64 else s.events.pending } }
    else s.clearOut) := by
  change execGateExpiry s = _
  refine State.perform_event on (congrArg (ite _ · s.clearOut) (State.closeGate_eq _)) ?_
  dsimp only
  split <;> exact quiet

/-- PENALTY's expiry ends the throttle (R13, R164). -/
theorem exec_penaltyExpiry {s : State} (on : s.powered = true) (quiet : s.Quiet) : exec .penaltyExpiry s = .next
    (if s.timers.penalty.due = true then
      { s.clearOut with timers := { s.timers with penalty := ⟨0, 0, .expired, false⟩ } }
    else s.clearOut) := by
  change execPenaltyExpiry s = _
  refine State.perform_event on rfl ?_
  dsimp only
  split <;> exact quiet

/-- Settles O49, row by row: the button's by its level, each expiry by whether it is due. -/
theorem buttonAndExpiries : Obligations.ButtonAndExpiries := by
  refine ⟨fun c => ⟨fun h => ?_, fun h => ?_, fun h => ?_⟩, ?_⟩
  · rw [Channel.stop, h]
  · rw [Channel.stop, h]
  · rw [Channel.stop, h]
  intro s on resting quiet level into started can gone t
  refine ⟨exec_press on resting, exec_release on resting, ⟨fun no => ?notDue, fun due => ⟨fun proven => ?proven,
    fun pressed factory => ?factory, fun pressed deployed busy => ?busy, fun pressed deployed idle => ?wiping,
    fun other => ?other⟩⟩, exec_gateExpiry on resting, exec_penaltyExpiry on resting⟩
  case notDue => exact State.perform_event on (if_neg (Bool.eq_false_iff.1 no)) resting
  case proven =>
    refine exec_presenceExpiry on due ?_ resting
    rw [State.presenceExpires_clear, proven]
    rfl
  case factory =>
    refine exec_presenceExpiry on due ?_ resting
    rw [State.presenceExpires_clear, pressed, s.life_factory_iff.2 factory]
    rfl
  case busy =>
    refine exec_presenceExpiry on due ?_ (State.quiet_of_busy busy)
    rw [State.presenceExpires_clear, pressed, s.life_deployed_iff.2 deployed]
    rfl
  case wiping =>
    exact exec_presenceExpiry_wipes on resting due pressed (s.life_deployed_iff.2 deployed) idle
  case other =>
    refine exec_presenceExpiry on due ?_ resting
    rw [State.presenceExpires_clear]
    obtain idle | waits := other
    · rw [idle]
      rfl
    · rw [waits]
      rfl

end Sys2Proof.Machine

/-! BASE_TICK (R11, R13, R128, R129, R174). -/

namespace Sys2Proof.Machine

/-! ### The counts of a tick -/

/-- A channel after a base tick (R11, R13). -/
theorem Channel.tick_eq (period : Nat) (c : Channel) : c.tick period =
    if c.state = .running then
      if c.phase + 1 < period then { c with phase := c.phase + 1 }
      else if 1 < c.count then { c with phase := 0, count := c.count - 1 }
      else ⟨0, 0, .expired, true⟩
    else c := by
  unfold Channel.tick
  cases c.state with
  | running =>
    rw [if_pos rfl]
    refine congrArg (ite _ _) ?_
    by_cases more : 1 < c.count
    · rw [if_pos more, if_neg (Nat.not_le.2 more)]
    · rw [if_neg more, if_pos (Nat.not_lt.1 more)]
  | expired | stopped => exact (if_neg nofun).symm

/-- A due entry of the monitor (R129). -/
theorem Supply.dueAt_iff (m : Supply) (mv : Nat) :
    m.dueAt mv = true ↔ m.speaks mv = true ∧ m.samples ≤ m.run + 1 := by
  rw [Supply.dueAt, Bool.and_eq_true, decide_eq_true_iff]

/-- A due press or release (R174). -/
theorem PresenceUnit.dueAt_iff (p : PresenceUnit) (pressed : Bool) :
    p.dueAt pressed = true ↔ pressed ≠ p.level ∧ 20 ≤ p.ticks + 1 := by
  rw [PresenceUnit.dueAt, Bool.and_eq_true, decide_eq_true_iff, decide_eq_true_iff]
  rfl

/-! ### Rows in turn -/

/-- The events of a tick: those named, then the monitor's and the button's if left out (assumption 8). -/
def tickList (order : List TickEvent) : List TickEvent :=
  order ++ ([.supply, .button] : List TickEvent).filter fun e => decide (e ∉ order)

/-- Each is taken once. -/
theorem tickList_nodup {order : List TickEvent} (h : order.Nodup) : (tickList order).Nodup := by
  refine List.nodup_append.2 ⟨h, List.Nodup.filter _ (by decide), fun a named b left same => ?_⟩
  exact of_decide_eq_true (List.mem_filter.1 left).2 (same ▸ named)

/-- The monitor's and the button's are always taken. -/
theorem mem_tickList {order : List TickEvent} {e : TickEvent} (h : e = .supply ∨ e = .button) :
    e ∈ tickList order := by
  rw [tickList, List.mem_append]
  by_cases named : e ∈ order
  · exact .inl named
  · exact .inr (List.mem_filter.2 ⟨by simpa using h, decide_eq_true named⟩)

/-- What the list holds beyond the monitor's and the button's is named. -/
theorem tickList_subset {order : List TickEvent} (h : ∀ e ∈ order, e = .supply ∨ e = .button) {e : TickEvent}
    (member : e ∈ tickList order) : e = .supply ∨ e = .button := by
  obtain named | left := List.mem_append.1 member
  · exact h e named
  · simpa using (List.mem_filter.1 left).1

/-- What a list with one due event of its own yields: that event's row between the others'. -/
theorem filterMap_split {α β : Type} {l : List α} {a : α} {f : α → Option β} {b : β} (nodup : l.Nodup)
    (member : a ∈ l) (row : f a = some b) :
    ∃ before after : List α, l.filterMap f = before.filterMap f ++ b :: after.filterMap f ∧
      ∀ x, x ∈ before ∨ x ∈ after → x ∈ l ∧ x ≠ a := by
  obtain ⟨before, after, rfl⟩ := List.append_of_mem member
  refine ⟨before, after, by rw [List.filterMap_append, List.filterMap_cons_some row], fun x h => ⟨?_, ?_⟩⟩
  · simp only [List.mem_append, List.mem_cons]
    tauto
  · rintro rfl
    obtain ⟨_, tail, apart⟩ := List.nodup_append.1 nodup
    exact h.elim (fun m => apart x m x List.mem_cons_self rfl) (List.nodup_cons.1 tail).1

/-- Such a list where no other event is due. -/
theorem filterMap_one {α β : Type} {l : List α} {a : α} {f : α → Option β} {b : β} (nodup : l.Nodup)
    (member : a ∈ l) (row : f a = some b) (others : ∀ x ∈ l, x ≠ a → f x = none) : l.filterMap f = [b] := by
  obtain ⟨before, after, split, rest⟩ := filterMap_split nodup member row
  rw [split, List.filterMap_eq_nil_iff.2 fun x h => others x (rest x (.inl h)).1 (rest x (.inl h)).2,
    List.filterMap_eq_nil_iff.2 fun x h => others x (rest x (.inr h)).1 (rest x (.inr h)).2]
  rfl

/-- One row in turn. -/
theorem State.inTurn_one {s t : State} {c : Instr} (quiet : s.out = ⟨[], []⟩) (h : exec c s = .next t) :
    s.inTurn [c] = t := by
  simp only [State.inTurn, h, quiet, List.nil_append]

/-- A row in turn that puts nothing on the buses. -/
theorem State.inTurn_cons {s t : State} {c : Instr} {rest : List Instr} (quiet : s.out = ⟨[], []⟩)
    (h : exec c s = .next t) : s.inTurn (c :: rest) = t.inTurn rest := by
  simp only [State.inTurn, h, quiet, List.nil_append]

/-- Rows in turn that each leave the state as it is. -/
theorem State.inTurn_still {s : State} (quiet : s.out = ⟨[], []⟩) {l : List Instr}
    (h : ∀ c ∈ l, exec c s = .next s) (rest : List Instr) : s.inTurn (l ++ rest) = s.inTurn rest := by
  induction l with
  | nil => rfl
  | cons c l ih =>
    rw [List.cons_append, State.inTurn_cons quiet (h c List.mem_cons_self)]
    exact ih fun d hd => h d (List.mem_cons_of_mem c hd)

/-! ### Expiries that are not due -/

/-- No channel's expiry waits to be taken (R13). -/
def State.NoneDue (s : State) : Prop :=
  s.timers.trial.due = false ∧ s.timers.gate.due = false ∧ s.timers.penalty.due = false ∧
    s.timers.presence.due = false

/-- An expiry named before it is due leaves the state as it is (R13). -/
theorem expiry_still {s : State} (on : s.powered = true) (resting : s.Quiet) (quiet : s.out = ⟨[], []⟩)
    (none : s.NoneDue) {sd bd p n : Bool} {e : TickEvent} (expiry : ¬ (e = .supply ∨ e = .button)) {c : Instr}
    (row : tickRow sd bd p n e = some c) : exec c s = .next s := by
  obtain ⟨trial, gate, penalty, presence⟩ := none
  have clear : s.clearOut = s := congrArg (fun o => { s with out := o }) quiet.symm
  have still : ∀ {due : Bool} (body : State → State), due = false →
      (if due = true then body s.clearOut else s.clearOut) = s := fun _ no =>
    (if_neg (Bool.eq_false_iff.1 no)).trans clear
  cases e with
  | supply => exact absurd (.inl rfl) expiry
  | button => exact absurd (.inr rfl) expiry
  | trial =>
    cases row
    change execTrialExpiry s = _
    exact State.perform_event on (still State.trialExpires trial) resting
  | gate =>
    cases row
    change execGateExpiry s = _
    exact State.perform_event on (still State.gateExpires gate) resting
  | penalty =>
    cases row
    change execPenaltyExpiry s = _
    exact State.perform_event on (still State.penaltyExpires penalty) resting
  | presence =>
    cases row
    change execPresenceExpiry s = _
    exact State.perform_event on (still State.presenceExpires presence) resting

/-- Expiries named before they are due leave the state as it is (R13). -/
theorem expiries_still {s : State} (on : s.powered = true) (resting : s.Quiet) (quiet : s.out = ⟨[], []⟩)
    (none : s.NoneDue) {sd bd p n : Bool} {row : TickEvent → Option Instr} (rows : tickRow sd bd p n = row)
    {l : List TickEvent} (expiry : ∀ e ∈ l, ∀ c, row e = some c → ¬ (e = .supply ∨ e = .button)) :
    ∀ c ∈ l.filterMap row, exec c s = .next s := by
  intro c member
  obtain ⟨e, taken, is⟩ := List.mem_filterMap.1 member
  exact expiry_still on resting quiet none (expiry e taken c is) ((congrFun rows e).trans is)

/-! ### The tick -/

/-- The supply in millivolts (R128). -/
theorem supplyMv_code (calibration : Nat) (code : BitVec 12) : supplyMv calibration code.toNat =
    if code = 0 then 6000 else min (calibration * 4096 / code.toNat) 6000 := by
  refine ite_congr (propext ?_) (fun _ => rfl) fun _ => rfl
  exact (BitVec.toNat_inj (y := 0#12))

/-- Events taken one after another leave the engine nothing to take up (R68). -/
theorem foldl_settled_quiet (f : State → TickEvent → State) (l : List TickEvent) {s : State} (resting : s.Quiet) :
    (l.foldl (fun u e => (f u e).settled) s).Quiet := by
  induction l generalizing s with
  | nil => exact resting
  | cons e l ih => exact ih (settled_isQuiet _)

/-- BASE_TICK counts, then takes what is due as by its own row, in turn (R11, R13, R129, R174). -/
theorem exec_baseTick {s : State} (code : BitVec 12) (pressed : Bool) {order : List TickEvent} (on : s.powered = true)
    (resting : s.Quiet) (nodup : order.Nodup) : exec (.baseTick code pressed order) s =
    .next ((s.clearOut.tickCounts code pressed).inTurn ((tickList order).filterMap
      (tickRow (s.supply.dueAt (supplyMv s.supply.calibration code.toNat)) (s.presence.dueAt pressed) pressed
        s.supply.normal))) := by
  change execBaseTick code pressed order s = _
  have counts : (s.clearOut.tickCounts code pressed).Quiet := resting
  have taken := tickEvents_inTurn (s.supply.dueAt (supplyMv s.supply.calibration code.toNat)) (s.presence.dueAt pressed)
    pressed s.supply.normal s.presence.level (fun due => ((s.presence.dueAt_iff pressed).1 due).1) (tickList order)
    (s.clearOut.tickCounts code pressed) on counts (tickList_nodup nodup) (fun _ => ⟨rfl, rfl⟩) fun _ => rfl
  refine State.perform_event on ?_ (taken ▸ foldl_settled_quiet _ _ counts)
  rw [tickOrder_nodup order nodup]
  exact taken

/-- Settles O50: a tick is its counts and then the rows of its due events. -/
theorem baseTickCounts : Obligations.BaseTickCounts := by
  intro s code pressed order on resting nodup mv sup speaks tick ticks t entryDue buttonDue entry button row unnamed
  have counted : s.clearOut.tickCounts code pressed = t := by
    simp only [State.tickCounts, Timers.tick, Channel.tick_eq, supplyMv_code]
    rfl
  have rows : tickRow (s.supply.dueAt (supplyMv s.supply.calibration code.toNat)) (s.presence.dueAt pressed) pressed
      s.supply.normal = row := by
    have monitor : s.supply.dueAt (supplyMv s.supply.calibration code.toNat) = true ↔ entryDue := by
      rw [Supply.dueAt_iff, supplyMv_code]
      exact Iff.rfl
    funext e
    cases e with
    | supply => exact ite_congr (propext monitor) (fun _ => rfl) fun _ => rfl
    | button => exact ite_congr (propext (s.presence.dueAt_iff pressed)) (fun _ => rfl) fun _ => rfl
    | _ => rfl
  have all : exec (.baseTick code pressed order) s = .next (t.inTurn ((tickList order).filterMap row)) := by
    rw [exec_baseTick code pressed on resting nodup, counted, rows]
  have once := tickList_nodup nodup
  have noEntry : ¬ entryDue → row .supply = none := fun no => if_neg no
  have noButton : ¬ buttonDue → row .button = none := fun no => if_neg no
  have entering : entryDue → row .supply = some entry := fun due => if_pos due
  have pressing : buttonDue → row .button = some button := fun due => if_pos due
  refine ⟨all, fun named => ⟨fun a b => ?quiet, fun a b => ?enters, fun a b => ?presses⟩,
    fun trial gate penalty presence a b => ?still, fun normal a b abort trial gate penalty presence => ?low⟩
  case quiet =>
    rw [all, List.filterMap_eq_nil_iff.2]
    · rfl
    · intro e member
      obtain rfl | rfl := tickList_subset named member
      · exact noEntry a
      · exact noButton b
  case enters =>
    rw [all, filterMap_one once (mem_tickList (.inl rfl)) (entering a)]
    · obtain ⟨u, next⟩ := tickRow_next true true pressed s.supply.normal .supply entry (by
        exact List.mem_singleton_self _) t
      rw [next, State.inTurn_one rfl next]
    · intro e member other
      obtain rfl | rfl := tickList_subset named member
      · exact absurd rfl other
      · exact noButton b
  case presses =>
    rw [all, filterMap_one once (mem_tickList (.inr rfl)) (pressing b)]
    · obtain ⟨u, next⟩ := tickRow_next true true pressed s.supply.normal .button button (by
        exact List.mem_singleton_self _) t
      rw [next, State.inTurn_one rfl next]
    · intro e member other
      obtain rfl | rfl := tickList_subset named member
      · exact noEntry a
      · exact absurd rfl other
  case still =>
    have nothing : ∀ e ∈ tickList order, ∀ c, row e = some c → ¬ (e = .supply ∨ e = .button) := by
      rintro e _ c is (rfl | rfl)
      · exact nomatch (noEntry a).symm.trans is
      · exact nomatch (noButton b).symm.trans is
    rw [all, ← List.append_nil (List.filterMap row _), State.inTurn_still rfl, State.inTurn]
    exact expiries_still (s := t) on resting rfl ⟨trial, gate, penalty, presence⟩ rows nothing
  case low =>
    obtain ⟨before, after, split, rest⟩ := filterMap_split once (mem_tickList (.inl rfl)) (entering a)
    have nothing : ∀ l : List TickEvent, (∀ e ∈ l, e ∈ before ∨ e ∈ after) → ∀ e ∈ l, ∀ c, row e = some c →
        ¬ (e = .supply ∨ e = .button) := by
      rintro l within e member c is (rfl | rfl)
      · exact (rest _ (within _ member)).2 rfl
      · exact nomatch (noButton b).symm.trans is
    have next : exec entry t = .next (t.supplyMoved false 4) := by
      rw [show entry = .entryIntoLow from if_pos normal]
      exact exec_entryIntoLow on normal (State.observeAbort_of_not_requested abort) resting
    rw [all, split, State.inTurn_still rfl (expiries_still (s := t) on resting rfl
      ⟨trial, gate, penalty, presence⟩ rows
      (nothing before fun _ => .inl)), State.inTurn_cons rfl next, ← List.append_nil (List.filterMap row _),
      State.inTurn_still rfl (expiries_still (s := t.supplyMoved false 4) on resting rfl
        ⟨trial, gate, penalty, presence⟩ rows (nothing after fun _ => .inr)), State.inTurn]
    rfl

end Sys2Proof.Machine

/-! Region entries and the verification procedure's checks (R7, R41, R80 to R87, R100). -/

namespace Sys2Proof.Machine

/-! ### Bytes -/

/-- A two-byte number (R185). -/
theorem leAt_two (bs : List Byte) (i : Nat) :
    leAt bs i 2 = (byteAt bs i).toNat + 256 * (byteAt bs (i + 1)).toNat := by
  simp only [leAt_succ, leAt_zero, Nat.mul_zero, Nat.add_zero]

/-- A four-byte number (R185). -/
theorem leAt_four (bs : List Byte) (i : Nat) : leAt bs i 4 = (byteAt bs i).toNat + 256 * (byteAt bs (i + 1)).toNat +
    65536 * (byteAt bs (i + 2)).toNat + 16777216 * (byteAt bs (i + 3)).toNat := by
  rw [leAt_succ, leAt_succ, leAt_two]
  change (byteAt bs i).toNat + 256 * ((byteAt bs (i + 1)).toNat + 256 * ((byteAt bs (i + 2)).toNat +
    256 * (byteAt bs (i + 3)).toNat)) = _
  omega

/-- Reserved zeros, byte by byte. -/
theorem zeroBytes_succ (bs : List Byte) (i n : Nat) :
    zeroBytes bs i (n + 1) = (decide (byteAt bs i = 0) && zeroBytes bs (i + 1) n) := by
  rw [← zeroBytes_one, zeroBytes, zeroBytes, zeroBytes, slice, slice, slice, ← List.all_append, ← List.drop_drop,
    Nat.add_comm n 1, List.take_add]

/-- Two reserved bytes. -/
theorem zeroBytes_two (bs : List Byte) (i : Nat) :
    zeroBytes bs i 2 = true ↔ byteAt bs i = 0 ∧ byteAt bs (i + 1) = 0 := by
  rw [zeroBytes_succ, zeroBytes_one, Bool.and_eq_true, decide_eq_true_iff, decide_eq_true_iff]

/-- Three reserved bytes. -/
theorem zeroBytes_three (bs : List Byte) (i : Nat) : zeroBytes bs i 3 = true ↔
    (byteAt bs i).toNat = 0 ∧ (byteAt bs (i + 1)).toNat = 0 ∧ (byteAt bs (i + 2)).toNat = 0 := by
  rw [zeroBytes_succ, Bool.and_eq_true, zeroBytes_two, decide_eq_true_iff]
  exact and_congr BitVec.toNat_inj.symm (and_congr BitVec.toNat_inj.symm BitVec.toNat_inj.symm)

/-- A condition byte's halves (R7). -/
theorem Cond.ofByte_halves (b : Byte) :
    (Cond.ofByte b).code.toNat = b.toNat / 16 ∧ (Cond.ofByte b).bound.toNat = b.toNat % 16 := by
  have := b.isLt
  simp only [Cond.ofByte, BitVec.extractLsb'_toNat, Nat.shiftRight_eq_div_pow]
  omega

/-! ### Region entries -/

/-- An anchor's byte (Table 12-10). -/
theorem Anchor.ofByte?_iff (b : Byte) (a : Anchor) : Anchor.ofByte? b = some a ↔ b = match a with
    | .absolute => 0
    | .runningSlot => 1
    | .otherSlot => 2 := by
  unfold Anchor.ofByte?
  refine ⟨fun h => ?_, fun h => ?_⟩
  · split at h
    · cases h
      assumption
    · split at h
      · cases h
        assumption
      · split at h
        · cases h
          assumption
        · cases h
  · subst h
    cases a <;> decide

/-- A fill's byte (Table 12-10). -/
theorem Fill.ofByte?_iff (b : Byte) (f : Fill) : Fill.ofByte? b = some f ↔ b = match f with
    | .ones => 0xff
    | .zeros => 0 := by
  unfold Fill.ofByte?
  refine ⟨fun h => ?_, fun h => ?_⟩
  · split at h
    · cases h
      assumption
    · split at h
      · cases h
        assumption
      · cases h
  · subst h
    cases f <;> decide

/-- A byte that is a fill's. -/
theorem Fill.ofByte?_isSome (b : Byte) : (Fill.ofByte? b).isSome = true ↔ b = 0xff ∨ b = 0 := by
  rw [Option.isSome_iff_exists]
  refine ⟨fun ⟨f, h⟩ => ?_, fun h => h.elim (fun h => ⟨.ones, (Fill.ofByte?_iff b .ones).2 h⟩)
    fun h => ⟨.zeros, (Fill.ofByte?_iff b .zeros).2 h⟩⟩
  cases f with
  | ones => exact .inl ((Fill.ofByte?_iff b .ones).1 h)
  | zeros => exact .inr ((Fill.ofByte?_iff b .zeros).1 h)

/-- A region entry's fields (Table 12-10). -/
theorem parseRegion_iff (e : List Byte) (r : Region) : parseRegion e = some r ↔
    Anchor.ofByte? (byteAt e 0) = some r.anchor ∧ Fill.ofByte? (byteAt e 1) = some r.fill ∧
      r.readCond = Cond.ofByte (byteAt e 2) ∧ r.writeCond = Cond.ofByte (byteAt e 4) ∧
      r.offset = leAt e 8 4 ∧ r.size = leAt e 12 4 := by
  obtain ⟨anchor, offset, size, read, write, fill⟩ := r
  unfold parseRegion
  cases Anchor.ofByte? (byteAt e 0) with
  | none => simp
  | some a =>
    cases Fill.ofByte? (byteAt e 1) with
    | none => simp
    | some f =>
      simp only [Option.some.injEq, Region.mk.injEq]
      tauto

/-- A region entry's validity (R41). -/
theorem Region.valid_iff (r : Region) (g : Geometry) : r.valid g = true ↔
    4096 ∣ r.offset ∧ 4096 ∣ r.size ∧ 4096 ≤ r.size ∧
      r.offset + r.size ≤ (if r.anchor = .absolute then g.flashSize else g.slotSize) ∧
      r.readCond.bound < 8 ∧ r.writeCond.bound < 8 := by
  obtain ⟨anchor, offset, size, read, write, fill⟩ := r
  cases anchor <;> simp [Region.valid, Cond.valid_eq, Nat.dvd_iff_mod_eq_zero, and_assoc]

/-! ### The steps -/

/-- The format of a manifest (R82). -/
theorem formatOk_iff (m : List Byte) : formatOk m = true ↔
    m.take 4 = [0x43, 0x50, 0x4c, 0x4d] ∧ (byteAt m 4).toNat = 1 ∧ (byteAt m 5).toNat ≤ 1 ∧
      (byteAt m 6).toNat ≤ 1 ∧ (byteAt m 7).toNat ≤ 28 ∧
      (byteAt m 8).toNat + 256 * (byteAt m 9).toNat = 128 + 16 * (byteAt m 7).toNat ∧
      30 ≤ (byteAt m 10).toNat + 256 * (byteAt m 11).toNat ∧ (byteAt m 10).toNat + 256 * (byteAt m 11).toNat ≤ 3600 ∧
      (byteAt m 12).toNat ≤ 64 ∧ (byteAt m 13).toNat = 0 ∧ (byteAt m 14).toNat = 0 ∧ (byteAt m 15).toNat = 0 := by
  have version : byteAt m 4 = 1 ↔ (byteAt m 4).toNat = 1 := BitVec.toNat_inj.symm
  simp only [formatOk, Bool.and_eq_true, decide_eq_true_eq, zeroBytes_three, version, and_assoc]
  simp only [slice, List.drop_zero, manifestAuthority, manifestCount, manifestTrial, manifestVersion, leAt_two]

/-- The authority's key (R83). -/
theorem authorityKey_eq (s : State) (i : Nat) :
    s.keys[authoritySlot i] = if i = 0 then s.keys[(1 : Fin 16)] else s.keys[(2 : Fin 16)] := by
  unfold authoritySlot
  split <;> rfl

/-- Steps 1 to 5 of a manifest whose format is sound (R83, R84, R100). -/
theorem checkManifest_format {s : State} {g : Geometry} {m : List Byte} (format : formatOk m = true) :
    checkManifest s g m =
      let key := if manifestAuthority m = 0 then s.keys[(1 : Fin 16)] else s.keys[(2 : Fin 16)]
      if key.present = false then some .authorityAbsent
      else if s.fuses.image.revoke.getLsbD (manifestAuthority m) = true ∨
          s.slots.pendingRevoke.getLsbD (manifestAuthority m) = true then some .authorityRevoked
      else if P256.verify key.pub (sha256 (manifestSigned m)) (manifestSignature m) = false then some .signature
      else if manifestVersion m < max s.fuseCount s.slots.pendingFloor then some .rollback
      else if g.slotSize < manifestImageLength m + 4096 then some .imageLength
      else none := by
  dsimp only
  rw [← authorityKey_eq]
  refine (if_neg (by rw [format]; exact Bool.false_ne_true)).trans ?_
  refine ite_congr (Bool.not_eq_true' _) (fun _ => rfl) fun _ => ?_
  refine ite_congr (Bool.or_eq_true _ _) (fun _ => rfl) fun _ => ?_
  exact ite_congr (Bool.not_eq_true' _) (fun _ => rfl) fun _ => rfl

/-- A manifest whose format is not (R82). -/
theorem checkManifest_bad {s : State} {g : Geometry} {m : List Byte} (format : ¬ formatOk m = true) :
    checkManifest s g m = some .manifestFormat := by
  unfold checkManifest
  exact if_pos (by simpa using format)

/-- Step 7 (R86). -/
theorem policyOk_iff (g : Geometry) (m : List Byte) : policyOk g m = true ↔
    (byteAt m 60 = 0xff ∨ byteAt m 60 = 0) ∧ (Cond.ofByte (byteAt m 56)).bound < 8 ∧
      (Cond.ofByte (byteAt m 58)).bound < 8 ∧ (byteAt m 61).toNat = 0 ∧ (byteAt m 62).toNat = 0 ∧
      (byteAt m 63).toNat = 0 ∧ ∀ e ∈ manifestEntryBytes m,
        ∃ r, parseRegion e = some r ∧ r.valid g = true ∧ byteAt e 6 = 0 ∧ byteAt e 7 = 0 := by
  simp only [policyOk, Bool.and_eq_true, Fill.ofByte?_isSome, Cond.valid_eq, decide_eq_true_eq, zeroBytes_three,
    List.all_eq_true, and_assoc]
  have good : ∀ e, (match parseRegion e with
      | some r => r.valid g && zeroBytes e 6 2
      | none => false) = true ↔
      ∃ r, parseRegion e = some r ∧ r.valid g = true ∧ byteAt e 6 = 0 ∧ byteAt e 7 = 0 := by
    intro e
    cases parseRegion e with
    | none => simp
    | some r => simp [zeroBytes_two]
  exact and_congr_right' (and_congr_right' (and_congr_right' (and_congr_right' (and_congr_right' (and_congr_right'
    (forall₂_congr fun e _ => good e))))))

/-- Settles O42: field by field, then the steps in order. -/
theorem procedureChecksInOrder : Obligations.ProcedureChecksInOrder := by
  refine ⟨fun b => ⟨(Cond.ofByte_halves b).1, (Cond.ofByte_halves b).2, Cond.toByte_ofByte b⟩, fun e r => ?region,
    Region.valid_iff, ?steps⟩
  case region =>
    intro byte u32At
    exact (parseRegion_iff e r).trans (and_congr (Anchor.ofByte?_iff _ _) (and_congr (Fill.ofByte?_iff _ _)
      (and_congr_right' (and_congr_right' (and_congr (iff_of_eq (congrArg (r.offset = ·) (leAt_four e 8)))
        (iff_of_eq (congrArg (r.size = ·) (leAt_four e 12))))))))
  case steps =>
    intro s g m digest byte n u16At length key format part entries good policy
    refine ⟨fun bad => checkManifest_bad fun h => bad ((formatOk_iff m).1 h), fun sound => ?_,
      fun other => if_pos other, fun same bad => ?_, fun same sound => ?_⟩
    · rw [checkManifest_format ((formatOk_iff m).2 sound), manifestImageLength, leAt_four]
      rfl
    · exact (if_neg (not_not_intro same)).trans (if_pos (by simpa using fun h => bad ((policyOk_iff g m).1 h)))
    · refine (if_neg (not_not_intro same)).trans ((if_neg (by simpa using (policyOk_iff g m).2 sound)).trans ?_)
      rw [manifestSummary, manifestImageLength, leAt_four, manifestTrial, leAt_two, leAt_four]
      rfl

end Sys2Proof.Machine

/-! CHUNK_COMPLETE takes the verification procedure and RECOVERY's loader on (R31, R44, R45, R85, R93 to R96,
R102 to R104, R152). -/

namespace Sys2Proof.Machine

/-! ### What the flow loads and measures -/

/-- The policy of a manifest whose entries are all listed (R44). -/
theorem manifestTable_eq {m : List Byte} {rs : List Region} {fill : Fill}
    (entries : (manifestEntryBytes m).map parseRegion = rs.map some) (byte : Fill.ofByte? (byteAt m 60) = some fill) :
    manifestTable m =
      RegionTable.load rs fill (Cond.ofByte (byteAt m 56)) (Cond.ofByte (byteAt m 58)) := by
  have regions : manifestRegions m = rs := by
    have listed := congrArg (List.filterMap id) entries
    rwa [List.filterMap_map, List.filterMap_map, Function.id_comp, Function.id_comp, List.filterMap_some] at listed
  rw [manifestTable, regions, byte]
  rfl

/-- A byte as a number's field of one byte (R185). -/
theorem u8_leBytes (n : Nat) : u8 n = leBytes 1 n := by
  simp [u8, leBytes]

/-- The lifecycle's byte (R152). -/
theorem State.life_toByte (s : State) : s.life.toByte = if s.fuses.image.lifecycle = 0 then 0 else 1 := by
  by_cases factory : s.fuses.image.lifecycle = 0
  · rw [s.life_factory_iff.2 factory, if_pos factory]
    rfl
  · rw [s.life_deployed_iff.2 factory, if_neg factory]
    rfl

/-! ### The procedure, chunk by chunk -/

/-- What follows a step of the procedure: nothing while it goes on, else what its outcome calls for (R85). -/
def VerifyProgress.next (ends : State → VerifyOutcome → State) (p : State × VerifyProgress) : State :=
  match p with
  | (t, .going) => t
  | (t, .ended o) => ends t o

/-- Step 6: the next chunk of the image is read, or its digest judged (R85). -/
def State.measures (s : State) (g : Geometry) (x : SlotId) (ends : State → VerifyOutcome → State) : State :=
  if s.ve.cursor < 4096 + manifestImageLength s.ve.manifest then
    State.reads { s with ve := { s.ve with work := .image x } } ((if x = .a then 0 else g.slotSize) + s.ve.cursor)
      (min 4096 (4096 + manifestImageLength s.ve.manifest - s.ve.cursor))
  else ends s (judgeImage g s.ve.manifest (shaFinish s.ve.sha))

/-- Step 6 goes on while the port is free (R31, R85). -/
theorem State.goOnImage_next {s : State} {x : SlotId} (port : s.down.port = .idle) (g : Geometry)
    (ends : State → VerifyOutcome → State) :
    VerifyProgress.next ends (State.goOnImage { s with ve := { s.ve with work := .image x } } g x) =
      State.measures { s with ve := { s.ve with work := .none } } g x ends := by
  unfold State.goOnImage State.measures
  by_cases more : s.ve.cursor < 4096 + manifestImageLength s.ve.manifest
  · rw [if_pos (by exact more), if_pos (by exact more), State.requestChunk_idle (by exact port)]
    cases x <;> rfl
  · rw [if_neg (by exact more), if_neg (by exact more)]
    rfl

/-- The manifest's chunk in the procedure (R81 to R84). -/
theorem State.feedVerify_manifest {s : State} {x : SlotId} (port : s.down.port = .idle) (work : s.ve.work = .manifest x)
    (g : Geometry) (bytes : List Byte) (ends : State → VerifyOutcome → State) :
    VerifyProgress.next ends (s.feedVerify g bytes) = match checkManifest s g bytes with
      | some why => ends { s with ve := { s.ve with work := .none } } (.fail why)
      | none => State.measures { s with ve := ⟨.none, bytes, 4096, ShaState.initial⟩ } g x ends := by
  simp only [State.feedVerify, work]
  cases checkManifest s g bytes with
  | some why => rfl
  | none => exact State.goOnImage_next (s := { s with ve := ⟨.none, bytes, 4096, ShaState.initial⟩ }) port g ends

/-- A chunk of the image in the procedure (R85). -/
theorem State.feedVerify_image {s : State} {x : SlotId} (port : s.down.port = .idle) (work : s.ve.work = .image x)
    (g : Geometry) (bytes : List Byte) (ends : State → VerifyOutcome → State) :
    VerifyProgress.next ends (s.feedVerify g bytes) =
      State.measures { s with ve := { s.ve.fed bytes with work := .none } } g x ends := by
  simp only [State.feedVerify, work]
  exact State.goOnImage_next (s := { s with ve := s.ve.fed bytes }) port g ends

/-- The engine takes nothing up while the procedure goes on; what its end leaves, it settles (R68). -/
theorem State.measures_settled {s : State} {x : SlotId} {g : Geometry} {ends ends' : State → VerifyOutcome → State}
    (resting : s.Quiet) (h : ∀ o, (ends s o).settled = ends' s o) :
    (s.measures g x ends).settled = s.measures g x ends' := by
  unfold State.measures
  split
  · exact State.settled_quiet resting
  · exact h _

/-- A completed chunk takes the procedure on (R31, R81 to R85). -/
theorem State.feedVerify_settled {s : State} {g : Geometry} {bytes : List Byte}
    {ends ends' : State → VerifyOutcome → State} (port : s.down.port = .idle) (resting : s.Quiet)
    (h : ∀ v o, (ends { s with ve := v } o).settled = ends' { s with ve := v } o) (x : SlotId) :
    (s.ve.work = .manifest x → (VerifyProgress.next ends (s.feedVerify g bytes)).settled =
      match checkManifest s g bytes with
      | some why => ends' { s with ve := { s.ve with work := .none } } (.fail why)
      | none => State.measures { s with ve := ⟨.none, bytes, 4096, ShaState.initial⟩ } g x ends') ∧
    (s.ve.work = .image x → (VerifyProgress.next ends (s.feedVerify g bytes)).settled =
      State.measures { s with ve := { s.ve.fed bytes with work := .none } } g x ends') := by
  refine ⟨fun work => ?_, fun work => ?_⟩
  · rw [State.feedVerify_manifest port work]
    cases checkManifest s g bytes with
    | some why => exact h _ _
    | none => exact State.measures_settled (s := { s with ve := _ }) resting (h _)
  · rw [State.feedVerify_image port work]
    exact State.measures_settled (s := { s with ve := _ }) resting (h _)

/-! ### Who waits for the chunk -/

/-- UPDATE_VERIFY's chunk goes to the procedure (R102). -/
theorem State.chunkDone_verify {s : State} {x : SlotId} (he : s.engine.state = .command (.verify x))
    (no : s.engine.abortRequest = false) (bytes : List Byte) : s.chunkDone bytes =
      VerifyProgress.next (fun t o => t.verifyEnded x o) (s.feedVerify s.filter.geo bytes) := by
  simp only [State.chunkDone, he, State.commandChunk, no, Bool.false_eq_true, if_false]
  rfl

/-- A candidate's chunk goes to the procedure (R93). -/
theorem State.flowChunk_verifying {s : State} {x : SlotId} {rest : List SlotId} {first : Bool}
    (phase : s.flow.phase = .verifying x rest first) (bytes : List Byte) : s.flowChunk bytes =
      VerifyProgress.next (fun t o => t.candidateEnded x rest first o) (s.feedVerify s.configGeo bytes) := by
  simp only [State.flowChunk, phase]
  rfl

/-- UPDATE_VERIFY's outcome, without an abort request (R102, R103). -/
theorem State.verifyEnded_eq {s : State} (quiet : s.out = ⟨[], []⟩) (no : s.engine.abortRequest = false) (x : SlotId)
    (o : VerifyOutcome) : s.verifyEnded x o = (s.asks (.slot x) .command (.verify o)).goesOn (.verifyStore x o) := by
  rw [State.verifyEnded, State.observeAbort_of_not_requested (by exact no), State.goesOn, ← quiet]
  rfl

/-- The chunk of UPDATE_VERIFY whose abort is requested (R104). -/
theorem State.chunkDone_aborts {s : State} {x : SlotId} (quiet : s.out = ⟨[], []⟩)
    (he : s.engine.state = .command (.verify x)) (asked : s.engine.abortRequest = true) (bytes : List Byte) :
    s.chunkDone bytes = State.finished { s with
      ve := VerEngine.idle
      slots := s.slots.put x (if (s.slot x).state = .verifying then
        { s.slot x with state := (s.slot x).prior } else s.slot x)
      records := { s.records with waiting := withoutCommand s.records.waiting } } ⟨.aborted, 0, [], false⟩ := by
  simp only [State.chunkDone, he, State.commandChunk, asked, if_true]
  simp only [State.abortCommand, State.withdrawCommand_eq, State.finished, ← quiet]
  rfl

/-- The loader's digest goes on, or RECOVERY is left (R95, R96). -/
theorem State.loaderChunk_settled {s : State} (port : s.down.port = .idle) (idle : s.engine.state = .idle)
    (nowork : s.NoWork) (phase : s.flow.phase = .loader) (bytes : List Byte) :
    (s.flowChunk bytes).settled =
      if (s.ve.fed bytes).cursor < s.configGeo.recSize then
        State.reads { s with ve := s.ve.fed bytes } (s.configGeo.recBase + (s.ve.fed bytes).cursor)
          (min 4096 (s.configGeo.recSize - (s.ve.fed bytes).cursor))
      else State.leavesRecovery { s with ve := { s.ve.fed bytes with work := .none } }
        (shaFinish (s.ve.fed bytes).sha) := by
  have flow : { s.flow with phase := .loader } = s.flow := by rw [← phase]
  rw [State.flowChunk_loader phase]
  by_cases more : (s.ve.fed bytes).cursor < s.configGeo.recSize
  · have goes : s.feedLoader s.configGeo bytes = (State.reads { s with ve := s.ve.fed bytes }
        (s.configGeo.recBase + (s.ve.fed bytes).cursor)
        (min 4096 (s.configGeo.recSize - (s.ve.fed bytes).cursor)), none) := by
      rw [← State.requestChunk_idle (s := { s with ve := s.ve.fed bytes }) port]
      exact if_pos more
    rw [if_pos more, goes, State.onLoader]
    refine (State.settled_quiet ?_).trans (congrArg (fun f => State.reads { s with ve := s.ve.fed bytes, flow := f }
      (s.configGeo.recBase + (s.ve.fed bytes).cursor)
        (min 4096 (s.configGeo.recSize - (s.ve.fed bytes).cursor))) flow)
    exact fun _ => nowork
  · rw [if_neg more, State.feedLoader_last (Nat.not_lt.1 more)]
    simp only [State.onLoader]
    rw [State.finishRecovery_settled (by exact idle) (by exact nowork)]

/-- Settles O43: the tables and inputs from their bytes, a chunk by who waits for it. -/
theorem verifyGoesChunkByChunk : Obligations.VerifyGoesChunkByChunk := by
  refine ⟨fun m rs fill entries byte => manifestTable_eq (rs := rs) (List.map_map.trans entries)
    ((Fill.ofByte?_iff _ fill).2 byte), fun g => rfl, fun s => ?part, fun m => leAt_four m 20, ?chunks⟩
  case part =>
    intro c le
    have input : s.partInput = le 4 c.geo.flashSize ++ le 4 c.geo.slotSize ++ le 4 c.geo.apBase ++ le 4 c.geo.recBase ++
        le 4 c.geo.recSize ++ le 2 c.threshold ++ le 2 c.hysteresis ++ le 1 c.samples ++
        le 2 c.gateIdle ++ le 1 c.holdTime ++
        [if s.fuses.image.lifecycle = 0 then 0 else 1, BitVec.ofNat 8 s.fuses.image.count,
          BitVec.ofNat 8 s.fuses.image.revoke.toNat] := by
      simp only [State.partInput, u32, u16, State.life_toByte, u8_leBytes s.configOrDefault.samples,
        u8_leBytes s.configOrDefault.holdTime, List.append_assoc]
      rfl
    exact ⟨rfl, by rw [input]; rfl, input⟩
  case chunks =>
    intro s data hp nowork c bytes quiet t manifest fed image goes
    have idlePort : s.clearOut.chunkTaken.down.port = .idle := rfl
    refine ⟨fun still => ?still, fun flight short => ?short, fun flight whole => ⟨fun x he => ⟨fun asked => ?aborts,
      fun no => ?verify⟩, fun idle recovery x rest first phase => ?candidate, fun idle phase => ?loader⟩⟩
    case still =>
      change execChunkComplete data s = _
      refine State.perform_event hp ?_ nowork.quiet
      unfold State.chunkBytes
      rw [show s.clearOut.down.chunk.st = s.down.chunk.st from rfl]
      cases h : s.down.chunk.st with
      | inFlight => exact absurd h still
      | none | waiting => rfl
    case short =>
      change execChunkComplete data s = _
      refine State.perform_event hp ?_ nowork.quiet
      unfold State.chunkBytes
      rw [show s.clearOut.down.chunk.st = .inFlight from flight]
      exact if_pos short
    case aborts =>
      refine exec_chunkComplete hp flight whole ?_
      rw [State.chunkDone_aborts rfl (by exact he) (by exact asked)]
      exact State.settled_quiet (State.finished_quiet nowork _)
    case verify =>
      have fed := State.feedVerify_settled (s := s.clearOut.chunkTaken) (g := s.filter.geo) (bytes := bytes)
        (ends := fun t o => t.verifyEnded x o)
        (ends' := fun u o => (u.asks (.slot x) .command (.verify o)).goesOn (.verifyStore x o)) idlePort nowork.quiet
        (fun v o => by
          rw [State.verifyEnded_eq (by exact rfl) (by exact no)]
          exact State.settled_quiet (State.goesOn_quiet _ _)) x
      refine ⟨fun work => exec_chunkComplete hp flight whole ?_, fun work => exec_chunkComplete hp flight whole ?_⟩
      · rw [State.chunkDone_verify (by exact he) (by exact no)]
        exact fed.1 work
      · rw [State.chunkDone_verify (by exact he) (by exact no)]
        exact fed.2 work
    case candidate =>
      have fed := State.feedVerify_settled (s := s.clearOut.chunkTaken) (g := s.configGeo) (bytes := bytes)
        (ends := fun t o => t.candidateEnded x rest first o)
        (ends' := fun u o => match o with
          | .pass m => u.boots x m first
          | .fail why => (u.slotBecomes x ⟨.failed, .failed, why, none⟩).tries false rest) idlePort nowork.quiet
        (fun v o => State.candidateEnded_settled (s := { s.clearOut.chunkTaken with ve := v }) idle nowork idlePort
          recovery x rest first o) x
      refine ⟨fun work => exec_chunkComplete hp flight whole ?_, fun work => exec_chunkComplete hp flight whole ?_⟩
      · rw [State.chunkDone_idle (by exact idle), State.flowChunk_verifying (by exact phase)]
        exact fed.1 work
      · rw [State.chunkDone_idle (by exact idle), State.flowChunk_verifying (by exact phase)]
        exact fed.2 work
    case loader =>
      refine exec_chunkComplete hp flight whole ?_
      rw [State.chunkDone_idle (by exact idle)]
      exact State.loaderChunk_settled idlePort idle nowork phase _

end Sys2Proof.Machine

/-! A completed frame while the engine works, and what an engine that becomes idle takes up (R64 to R66, R68, R72). -/

namespace Sys2Proof.Machine

/-- A service row while the engine is at work: its frame is disposed of (R61, R66). -/
theorem exec_service_busy {s t : State} {c : Instr} {code : Byte} {r : Request} (row : serviceRow c = some (code, r))
    (fits : r.fits = true) (hp : s.powered = true) (outside : s.stage ≠ .s0) (busy : s.engine.state ≠ .idle)
    (h : s.clearOut.dropReception.dispose (requestFrame code r) = t) (same : t.engine = s.engine) :
    exec c s = .next t := by
  rw [exec_service_row row]
  refine State.perform_event hp ((State.submit_disposes (by exact outside) fits code).trans h) ?_
  exact State.quiet_of_busy (same ▸ busy)

/-- The held frame of no row (R64 to R66, R72). -/
theorem State.takeHeld_unlisted {u : State} {f : Frame} (h : ∀ row q, serviceRow row ≠ some (f.code, q)) :
    u.takeHeld f = { u with
      aperture := { u.aperture with
        resp := ⟨.done, f.code, f.tag, .unknownCommand, 0, u.aperture.resp.previousUnread, false,
          u.aperture.resp.refused, [], true⟩
        aside := none, held := none }
      engine := { u.engine with state := .idle, abortRequest := false }
      events := { u.events with pending := u.events.pending ||| 1 } } := by
  unfold State.takeHeld
  rw [dispatch_unlisted h]
  rfl

/-- Settles O28: a frame by the engine's work, and an engine left idle by its jobs and the held frame. -/
theorem framesWhileTheEngineWorks : Obligations.FramesWhileTheEngineWorks := by
  refine ⟨fun s c code r row fits hp => ?frames, fun s v ends hp noFlow rows own => ?work⟩
  case frames =>
    intro refused
    refine ⟨fun outside w he => ?command, fun outside w he queued => ?queued, fun outside w he other => ?holds,
      fun stage quiet => ?stage⟩
    case command =>
      exact exec_service_busy row fits hp outside (by rw [he]; nofun) (State.dispose_command (by exact he) _) rfl
    case queued =>
      refine exec_service_busy row fits hp outside (by rw [he]; nofun)
        ((State.dispose_job (by exact he) _).trans ?_) rfl
      exact if_pos queued
    case holds =>
      refine exec_service_busy row fits hp outside (by rw [he]; nofun)
        ((State.dispose_job (by exact he) _).trans ?_) rfl
      exact if_neg other
    case stage =>
      rw [exec_service_row row]
      exact State.perform_event hp (if_pos stage) quiet
  case work =>
    intro w
    obtain ⟨busy, idle⟩ := exec_arbitrated hp noFlow rows own
    refine ⟨busy, fun rests => ?_⟩
    intro u
    have taken : exec ends s = .next (match u.engine.state, u.aperture.held with
        | .idle, some f => u.takeHeld f
        | _, _ => u) := idle rests
    refine ⟨fun nothing => ?_, fun f still held => ⟨fun row q t listed same fits on outside ran => ?_,
      fun unlisted => ?_⟩⟩
    · rw [taken]
      split
      · next still held => exact nothing.elim (absurd still) fun none => nomatch none.symm.trans held
      · rfl
    · obtain ⟨reset, floor, _⟩ := State.startsJob_idle still
      rw [taken, still, held, same]
      exact congrArg _ (State.takeHeld_row listed fits on outside still reset floor ran)
    · rw [taken, still, held]
      exact congrArg _ ((State.takeHeld_unlisted unlisted).trans (by rw [← still]))

end Sys2Proof.Machine
